-- ==== Sys2Proof/Word.lean ====
section
/-! DEFINITION. The word types of the device and the keyed tables that hold its sparse state. -/

namespace Sys2Proof

/-- One byte. -/
abbrev Byte := BitVec 8
/-- A 16-bit word. -/
abbrev W16 := BitVec 16
/-- A 32-bit word: a register of the register window, a G register, an operand address. -/
abbrev W32 := BitVec 32
/-- A 64-bit word. -/
abbrev W64 := BitVec 64
/-- A 128-bit payload of a cell token, and the width of a cell register and of a firing-table entry. -/
abbrev W128 := BitVec 128

/-- A sparse table: key and value pairs in rising key order, each key at most once.
A key that is not listed reads as the table's stated default. -/
abbrev Table (α : Type) := List (Nat × α)

/-- Global core number, `d × 128 + c × 16 + k` (R7). -/
abbrev CoreId := Fin 512
/-- Task slot of a core (R82). -/
abbrev SlotIx := Fin 2
/-- Cluster number `d × 8 + c` (R7). -/
abbrev ClusterId := Fin 32
/-- Die number (R7). -/
abbrev DieId := Fin 4
/-- HBM stack number (R7). -/
abbrev StackId := Fin 16
/-- Fabric port number (R7). -/
abbrev PortId := Fin 12
/-- Cell index within a core (R7). -/
abbrev CellIx := Fin 16
/-- Context number (R7). -/
abbrev CtxId := Fin 1024

end Sys2Proof
end

