-- ==== Sys2Proof/Syntax.lean ====
section
/-! DEFINITION. The commands of the block: one constructor of `Instr` per row of spec/opcode_table.json,
with the values that reach the device from outside it. What the device holds itself (instruction words,
descriptors, queued messages) a command does not repeat. -/

namespace Sys2Proof

/-- An island, written d:nn (R377). -/
structure Isl where
  d : Fin 4
  nn : Fin 35
  deriving DecidableEq, Repr

/-- The queue a host command came on (R399, R404). -/
inductive QueueKind where
  | admin
  | context
  deriving DecidableEq, Repr

/-- The header of a host command (Table 14.4) with the queue it was fetched from. -/
structure CmdHdr where
  /-- 0 the physical function, 1 to 64 a virtual function -/
  fn : Nat
  queue : QueueKind
  /-- the context field of the header, not used on an admin queue -/
  ctx : Nat
  id : W32
  fence : Bool
  /-- suppress the completion on SUCCESS -/
  quiet : Bool
  deriving DecidableEq, Repr

/-- An allocation entry (Table 7.3). -/
structure AllocEntry where
  object : W32
  flags : W32
  size : W64
  addr : W64
  placement : Byte
  reserved : Byte
  logFrames : W16
  share : W32
  deriving DecidableEq, Repr

/-- A directory entry of a program image (R226). -/
structure DirEntry where
  type : Nat
  task : Nat
  offset : Nat
  size : Nat
  deriving DecidableEq, Repr

/-- A task entry of a program image (R227). `nbr` gives for each mesh direction, north east south west,
the offset and size in bytes within the neighbour task's grant. -/
structure TaskEntry where
  cluster : Nat
  core : Nat
  kind : Nat
  bound : Nat
  accSlots : Nat
  nbr : List (Nat × Nat)
  deriving DecidableEq, Repr

/-- A work-counter queue record (Table 5.2). -/
structure QueueRec where
  slices : Nat
  sliceRows : Nat
  participants : W16
  doneSem : Nat
  stealAge : Nat
  strideA : W32
  strideOut : W32
  strideZmask : W32
  strideAmax : W32
  strideOscale : W32
  cluster : Nat
  deriving DecidableEq, Repr

/-- A grist stream record (Table 7.8). -/
structure StreamRec where
  object : Nat
  consumers : W16
  window : Nat
  lock : Nat
  schedule : Nat
  entries : Nat
  cluster : Nat
  reservedZero : Bool
  deriving DecidableEq, Repr

/-- The cell configuration of one task of an image: firing entries (cell, index, entry of Table 6.4),
route entries (cell, index, entry of Table 6.12), bindings (index, entry of Table 6.6) and initial
cell registers (cell, register, value). -/
structure CellCfg where
  firing : List (Nat × Nat × W128)
  routes : List (Nat × Nat × W32)
  bindings : List (Nat × W128)
  regs : List (Nat × Nat × W128)
  deriving DecidableEq, Repr

/-- A tile entry of the parametric report (Table 6.9). -/
structure ReportTile where
  task : Nat
  desc : Nat
  c0 : Nat
  c1 : Nat
  tol : Nat
  deriving DecidableEq, Repr

/-- A stream entry of the parametric report (Table 6.9). -/
structure ReportStream where
  stream : Nat
  owner : Nat
  inIsland : Nat
  islandEdge : Nat
  dieEdge : Nat
  occupancy : Nat
  deriving DecidableEq, Repr

/-- One task's parts of an image: its tile program (Table 4.10 words), its scratchpad initial image
(offset in the grant, bytes), its cells and its repair-map digest (R343). -/
structure TaskImage where
  entry : TaskEntry
  program : List W64
  spad : List (Nat × List Byte)
  cells : CellCfg
  digest : W64
  deriving DecidableEq, Repr

/-- A program image as its sections hold it (R226, Table 8.2). The layout of the 64-byte header is not in
the spec: `headerGood` says that the device's check of it passes. `digest` is the first 8 bytes of the
SHA-512 of the image as loaded (Table 12.1). -/
structure Image where
  headerGood : Bool
  size : Nat
  dir : List DirEntry
  tasks : List TaskImage
  queues : List QueueRec
  streams : List StreamRec
  allocs : List AllocEntry
  report : List ReportTile
  reportStreams : List ReportStream
  digest : W64
  deriving DecidableEq, Repr

/-- A fabric message header (Table 10.3); `body` holds header bytes 0x24 to 0x37, the first byte lowest. -/
structure MsgHdr where
  type : Byte
  vc : Fin 4
  dataFlits : Nat
  dst : BitVec 24
  src : BitVec 24
  dstCtx : W16
  srcCtx : W16
  job : W32
  gyle : BitVec 48
  attempt : Byte
  layoutEpoch : W16
  tag : W32
  body : BitVec 160
  sequence : W64
  deriving DecidableEq, Repr

/-- A flit on a TAP link. The bits by which flits are told apart on the wire are not in the spec. -/
inductive Flit where
  | idle (bytes : List Byte)
  | head (h : MsgHdr)
  | data (vc : Fin 4) (bytes : List Byte)
  /-- the trailing tag flit of an encrypted message (R433) -/
  | tagFlit (vc : Fin 4) (tag : W128) (counter : W64)
  deriving DecidableEq, Repr

/-- A link word (Table 10.1). -/
structure LinkWord where
  seq : BitVec 10
  ack : BitVec 10
  nak : Bool
  ackValid : Bool
  credit : Nat
  creditVc : Fin 4
  crc : W32
  deriving DecidableEq, Repr

/-- A flit group as a port receives it from the FEC decoder (R283, R284). `fecBad`: a FEC codeword that overlaps the
group was flagged uncorrectable. `fecCorrected`: symbols corrected in it. -/
structure Group where
  flits : List Flit
  word : LinkWord
  fecBad : Bool
  fecCorrected : Nat
  deriving DecidableEq, Repr

/-- A signed object: the signature block of Table 15.3 and its payload. -/
structure Signed where
  magic : W32
  version : W16
  cls : Nat
  slot : Nat
  rollback : Nat
  /-- the reserved fields are zero and length equals the payload's -/
  wellFormed : Bool
  digest : BitVec 512
  edPub : BitVec 256
  mlPub : List Byte
  edSig : BitVec 512
  mlSig : List Byte
  payload : List Byte
  deriving DecidableEq, Repr

/-- The SRAM of a core that a word belongs to (R89, Table 11.2). -/
inductive CoreMem where
  | scratchpad
  | accumulator
  | weightBuffer
  | engine
  | instruction
  deriving DecidableEq, Repr

/-- What the SECDED code of one word finds on a read (R89). -/
inductive WordEcc where
  | clean
  | corrected
  | uncorrected
  deriving DecidableEq, Repr

/-- What a command works on, with the fault that it meets there, an input like every upset. -/
structure Meeting (α β : Type) where
  at_ : α
  fault : β
  deriving DecidableEq, Repr

/-- What a partner lookup finds bad: the word of the partner table, the cached entry (R292, R319). -/
structure LookupFaults where
  table : Bool
  cache : Bool
  deriving DecidableEq, Repr

/-- What a read of T1 or T2 meets (R196, R203, R208). -/
inductive ReadUpset where
  | none
  | corrected
  | uncorrected
  /-- the PCI Express link answered with an error or not at all -/
  | hostFail
  /-- a line of the cluster cache, where it is present, fails its ECC -/
  | lineEcc
  /-- the hub's translation of the first page, where it is cached, fails its parity -/
  | xlateParity
  deriving DecidableEq, Repr

/-- What the detectors report while an engine runs a descriptor (R89, R196, R208, R324). -/
inductive Upset where
  | none
  /-- datapath parity or residue mismatch -/
  | parity
  /-- an uncorrected SECDED word of a memory was read -/
  | uncorrected (m : CoreMem)
  /-- a corrected SECDED word of a memory was read -/
  | corrected (m : CoreMem)
  /-- what the descriptor's first access to T1 or T2 meets -/
  | memory (u : ReadUpset)
  deriving DecidableEq, Repr

/-- What befalls one pass of an array: offsets added to pass values at the drain (row, column, mantissa,
power of two), detectors of Table 3.5 that fire, by ERR_STATUS bit and the physical row where the detector
locates one (0x7F where not), and a SECDED word that the pass reads and finds corrected or (true) uncorrected. -/
structure ArrayUpset where
  offsets : List (Nat × Nat × Int × Int)
  detectors : List (Nat × Nat)
  ecc : Option (CoreMem × Bool)
  deriving DecidableEq, Repr

/-- What a scrub step finds (R196, R327). -/
inductive ScrubFind where
  | clean (passDone : Bool)
  | corrected (pc : Nat)
  | uncorrected (pc : Nat) (frame : Nat) (offset : Nat)
  /-- a command or address parity error that the stack reports (Table 7.10) -/
  | caParity
  deriving DecidableEq, Repr

/-- The body of WIN_OPEN (Table 10.6). -/
structure WinBody where
  owner : Nat
  target : Nat
  port : Nat
  size : Nat
  base : W64
  spill : W64
  key : W32
  notify : W16
  reservedZero : Bool
  deriving DecidableEq, Repr

/-- A checkpoint image as a source presents it (R348): header fields, directory and object data. -/
structure CkptImage where
  version : Nat
  sealed : Bool
  ctx : Nat
  layoutEpoch : W16
  job : W32
  owner : BitVec 24
  gyle : Nat
  rngGyle : Nat
  dataPosition : W64
  loss : W32
  place : W32
  layoutDigest : W64
  programDigest : W64
  seeds : List W64
  /-- object number, flags, size, data -/
  objects : List (Nat × W32 × Nat × List Byte)
  length : Nat
  /-- version, length and directory are well formed -/
  formGood : Bool
  /-- the digest field equals the SHA-512 of the image -/
  digestGood : Bool
  deriving DecidableEq, Repr

/-- A plan entry (Table 12.7). -/
structure PlanEntry where
  kind : Nat
  peer : BitVec 24
  srcObject : Nat
  dstObject : Nat
  srcOffset : Nat
  dstOffset : Nat
  bytes : Nat
  peerCtx : Nat
  slot : Nat
  deriving DecidableEq, Repr

/-- The body of RACK_BEGIN (Table 12.6). -/
structure RackBody where
  epoch : W16
  baseEpoch : W16
  shardChange : Bool
  reservedZero : Bool
  ownSource : Nat
  gyle : Nat
  plan : Nat
  entries : Nat
  deadline : Nat
  ownImage : W64
  hostImage : W64
  deriving DecidableEq, Repr

/-- The resilience block fields of Table 12.3 as RESIL_SET carries them: 64 bytes, the first lowest. -/
abbrev ResilBytes := BitVec 512

/-- A core test's outcome as the test hardware reports it (R338): per failing detector its code and
array row (0x7F when not located), and the detectors that missed their injected error. -/
structure TestOutcome where
  fails : List (Nat × Nat)
  misses : List Nat
  cycles : Nat
  injections : Nat
  deriving DecidableEq, Repr

/-- An MCTP message on the sideband (R410, R411). -/
inductive Mctp where
  | setEndpointId (eid : Byte)
  /-- any other MCTP control command -/
  | control (command : Byte)
  /-- PLDM type 0 discovery -/
  | pldmBase (command : Byte)
  /-- PLDM type 2: read of a numeric or state sensor -/
  | pldmSensorRead (sensor : Nat) (bytes : Nat)
  /-- PLDM type 5: firmware component 0x0001 -/
  | pldmFirmware (offset : Nat) (data : List Byte)
  /-- PLDM type 5: the transfer of component 0x0001 is complete, and the inactive bank holds this image -/
  | pldmFirmwareEnd (bank : Signed)
  /-- PLDM type 5: test pack component 0x0002 -/
  | pldmTestPack (pack : Signed) (stepping : Nat) (formGood : Bool)
  /-- a message type that is not supported -/
  | other (type : Byte)
  deriving DecidableEq, Repr

/-- An SPDM request as the responder acts on it (R428, R429). -/
inductive Spdm where
  | getVersion
  | getCapabilities
  | negotiate
  | getCertificate (slot : Nat)
  | challenge
  | getMeasurements (index : Nat)
  | keyExchange
  | finish
  | heartbeat
  | keyUpdate
  | endSession
  | other (code : Byte)
  deriving DecidableEq, Repr

/-- An IDE key-management request (R430). Stream 8 is the link stream here, 0 to 7 the selective ones. -/
inductive IdeKm where
  | query
  | keyProg (stream : Fin 9) (keySet : Fin 2) (rx : Bool) (key : BitVec 256)
  | keySetGo (stream : Fin 9) (keySet : Fin 2) (rx : Bool)
  | keySetStop (stream : Fin 9) (keySet : Fin 2) (rx : Bool)
  deriving DecidableEq, Repr

/-- JTAG instructions (R436); TOKEN_LOAD is the row TOKEN_PRESENT. -/
inductive Jtag where
  | bypass
  | samplePreload
  | extest
  | idcode
  | privateInstr (code : Nat)
  deriving DecidableEq, Repr

/-- The identity records and key material of an admission message (Table 15.10). -/
structure AdmitData where
  nonce : BitVec 256
  x25519 : BitVec 256
  /-- encapsulation key of an OFFER, ciphertext of an ANSWER -/
  kem : List Byte
  deviceRecord : List Byte
  aliasRecord : List Byte
  deriving DecidableEq, Repr

/-- How a token reaches the device (R434). -/
inductive TokenVia where
  | tokenCtl
  | jtag
  deriving DecidableEq, Repr

/-- A lifecycle token's payload (R434). -/
structure TokenBody where
  serial : W64
  keyDigest : BitVec 512
  nonce : BitVec 256
  perms : W32
  deriving DecidableEq, Repr

/-- A sample of a die's sensors (R477): the hottest reading, the sensor it came from, sensors out of range,
and the temperatures of the die's four stacks. -/
structure DieTemps where
  hottest : Nat
  sensor : Nat
  badSensor : Bool
  stackTemps : List Nat
  deriving DecidableEq, Repr

/-- What the controller's power estimate reads in one tick (R474): per die the estimated watts and the
frequency in MHz that keeps the design current, and the package watts. -/
structure PowerReading where
  package : Nat
  dies : List (Nat × Nat)
  deriving DecidableEq, Repr

/-- A measured duration of a descriptor (R184). -/
structure Measured where
  cycles : Nat
  hbmStall : Nat
  fabricStall : Nat
  deriving DecidableEq, Repr

/-- The last fields of a RESTORE's body, expected gyle and host bus address, and whether the host range fails to answer
(R364). -/
structure RestoreRest where
  expected : W64
  addr : W64
  hostFail : Bool
  deriving DecidableEq, Repr

/-- The commands of the block. Where one carries a `Meeting`, its second part is what the command finds at the first: an
instruction word's SECDED check (R324), a parity error of a queue record (R151), of a table entry (R172), of the context
table (R249) or of a mirror entry (R396), a transfer found bad (Table 11.2), what a read of memory meets, a host range that
fails, an island that does not leave reset. -/
inductive Instr where
  -- the core sequencer (core, task slot); the instruction word stands in the slot's program
  | nop (core : CoreId) (slot : Meeting SlotIx WordEcc)
  | issue (core : CoreId) (slot : Meeting SlotIx WordEcc)
  | issueStallEnd (core : CoreId) (slot : SlotIx)
  | wait (core : CoreId) (slot : Meeting SlotIx WordEcc)
  | waitRelease (core : CoreId) (slot : SlotIx)
  | claim (core : CoreId) (slot : Meeting SlotIx WordEcc)
  | claimRecord (core : CoreId) (slot : Meeting SlotIx Bool)
  | claimReply (core : CoreId) (slot : SlotIx)
  | loop (core : CoreId) (slot : Meeting SlotIx WordEcc)
  | addi (core : CoreId) (slot : Meeting SlotIx WordEcc)
  | brz (core : CoreId) (slot : Meeting SlotIx WordEcc)
  | loadg (core : CoreId) (slot : Meeting SlotIx WordEcc)
  | setlen (core : CoreId) (slot : Meeting SlotIx WordEcc)
  | movi (core : CoreId) (slot : Meeting SlotIx WordEcc)
  | fence (core : CoreId) (slot : Meeting SlotIx WordEcc)
  | fenceRelease (core : CoreId) (slot : SlotIx)
  | loadw (core : CoreId) (slot : Meeting SlotIx WordEcc)
  | loadwComplete (core : CoreId) (slot : SlotIx)
  | endProgram (core : CoreId) (slot : Meeting SlotIx WordEcc)
  | endCompletion (core : CoreId) (slot : SlotIx)
  -- the matrix array
  | weightPlaneFill (core : CoreId) (slot : Meeting SlotIx WordEcc)
  | matrixTile (core : CoreId) (slot : SlotIx)
  | arrayPass (core : CoreId) (slot : SlotIx) (u : ArrayUpset)
  | chainedConversion (core : CoreId) (slot : SlotIx) (u : Upset)
  -- the other engines of a core
  | vectorDescriptor (core : CoreId) (slot : SlotIx) (u : Upset)
  | transpose (core : CoreId) (slot : SlotIx) (u : Upset)
  | fwdFirst (core : CoreId) (slot : SlotIx) (u : Upset)
  | fwdNext (core : CoreId) (slot : SlotIx) (u : Upset)
  | fwdLast (core : CoreId) (slot : SlotIx) (u : Upset)
  | fwdOnly (core : CoreId) (slot : SlotIx) (u : Upset)
  | recompute (core : CoreId) (slot : SlotIx) (u : Upset)
  | gather (core : CoreId) (slot : SlotIx) (u : Upset)
  | scatter (core : CoreId) (slot : SlotIx) (u : Upset)
  | scatterAdd (core : CoreId) (slot : SlotIx) (u : Upset)
  | compact (core : CoreId) (slot : SlotIx) (u : Upset)
  | dispatch (core : CoreId) (slot : SlotIx) (u : Upset)
  | combine (core : CoreId) (slot : SlotIx) (u : Upset)
  | topk (core : CoreId) (slot : SlotIx) (u : Upset)
  | sample (core : CoreId) (slot : SlotIx) (u : Upset)
  | quantise (core : CoreId) (slot : SlotIx) (u : Upset)
  | bits8 (core : CoreId) (slot : SlotIx) (u : Upset)
  | bits16 (core : CoreId) (slot : SlotIx) (u : Upset)
  | bits32 (core : CoreId) (slot : SlotIx) (u : Upset)
  | uniform (core : CoreId) (slot : SlotIx) (u : Upset)
  | mask (core : CoreId) (slot : SlotIx) (u : Upset)
  | normal (core : CoreId) (slot : SlotIx) (u : Upset)
  | copyDescriptor (core : CoreId) (slot : SlotIx) (u : Upset)
  | descriptorCompletion (core : CoreId) (slot : SlotIx) (engine : Fin 16) (m : Measured)
  -- the cluster work counter
  | ticketClose (core : CoreId) (slot : Meeting SlotIx Bool)
  | ticketReturn (core : CoreId) (slot : Meeting SlotIx Bool)
  | queueReset (cluster : ClusterId) (ctx : CtxId) (queue : Fin 32)
  -- the cell grid
  | tokenArrive (core : CoreId) (cell : CellIx) (port : Fin 5) (parityBad : Bool)
  | tokenForward (core : CoreId) (cell : CellIx) (port : Meeting (Fin 5) Bool)
  | creditReturn (core : CoreId) (cell : CellIx) (port : Fin 5)
  | mov (core : CoreId) (cell : CellIx) (u : Upset)
  | add (core : CoreId) (cell : CellIx) (u : Upset)
  | sub (core : CoreId) (cell : CellIx) (u : Upset)
  | mul (core : CoreId) (cell : CellIx) (u : Upset)
  | fma (core : CoreId) (cell : CellIx) (u : Upset)
  | max (core : CoreId) (cell : CellIx) (u : Upset)
  | min (core : CoreId) (cell : CellIx) (u : Upset)
  | abs (core : CoreId) (cell : CellIx) (u : Upset)
  | neg (core : CoreId) (cell : CellIx) (u : Upset)
  | cmpgt (core : CoreId) (cell : CellIx) (u : Upset)
  | sel (core : CoreId) (cell : CellIx) (u : Upset)
  | rcp (core : CoreId) (cell : CellIx) (u : Upset)
  | rsqrt (core : CoreId) (cell : CellIx) (u : Upset)
  | exp2 (core : CoreId) (cell : CellIx) (u : Upset)
  | log2 (core : CoreId) (cell : CellIx) (u : Upset)
  | cvtDown (core : CoreId) (cell : CellIx) (u : Upset)
  | cvtUp (core : CoreId) (cell : CellIx) (u : Upset)
  | dup (core : CoreId) (cell : CellIx) (u : Upset)
  | steer (core : CoreId) (cell : CellIx) (u : Upset)
  | merge (core : CoreId) (cell : CellIx) (u : Upset)
  | count (core : CoreId) (cell : CellIx) (u : Upset)
  | acc (core : CoreId) (cell : CellIx) (u : Upset)
  | inRing (core : CoreId) (binding : Meeting (Fin 32) Bool)
  | outRing (core : CoreId) (binding : Meeting (Fin 32) Bool)
  | semIn (core : CoreId) (binding : Meeting (Fin 32) Bool)
  | lenOut (core : CoreId) (binding : Meeting (Fin 32) Bool)
  | idleCountLimit (isl : Isl) (ctx : CtxId)
  | stallProbeReply (isl : Isl) (ctx : CtxId)
  | sampleRecord (isl : Isl) (ctx : CtxId)
  -- memory
  | hubAccess (cluster : ClusterId) (ctx : CtxId) (write : Bool) (va : Nat) (data : List Byte) (u : ReadUpset)
  | scrubStep (stack : StackId) (find : ScrubFind)
  | gristFetch (cluster : ClusterId) (ctx : CtxId) (stream : Fin 8) (u : ReadUpset)
  | gristStarved (core : CoreId) (slot : SlotIx)
  | frameZeroed (die : DieId)
  | objCreate (h : CmdHdr) (entry : AllocEntry)
  | objAttach (h : CmdHdr) (entry : AllocEntry)
  | objRelease (h : CmdHdr) (object : W32)
  | objMoveUp (h : CmdHdr) (object : W32) (range : W32)
  | objMoveDown (h : CmdHdr) (object : W32) (range : W32)
  | moveComplete (object : Nat)
  -- contexts
  | fnAssign (h : CmdHdr) (ctx : W16) (fn : W16)
  | ctxLoad (h : CmdHdr) (image : Image)
  | ctxUnload (h : CmdHdr)
  | ctxKill (h : CmdHdr)
  | ctxResume (h : CmdHdr)
  | ctxSet (h : CmdHdr) (offset : W16) (value : List Byte)
  | tasksStopped (ctx : CtxId)
  | spargeComplete (ctx : CtxId)
  | quantumExpiry (ctx : Meeting CtxId Bool)
  | preemptRequest (core : CoreId) (ctx : CtxId)
  | slotYield (core : CoreId) (slot : SlotIx)
  | preemptOverrun (core : CoreId) (slot : SlotIx)
  | swapOutComplete (ctx : CtxId)
  | swapInComplete (ctx : CtxId)
  -- gyles
  | gyleBegin (h : CmdHdr) (gyle : W64) (hostTime : W64)
  | gyleAbort (h : CmdHdr) (gyle : W64)
  | gyleDecide (h : CmdHdr) (gyle : W64) (outcome : Byte)
  | gyleResolve (h : CmdHdr) (gyle : W64) (outcome : Byte)
  | gyleReplay (h : CmdHdr)
  | gyleStart (ctx : CtxId)
  | captureComplete (ctx : CtxId)
  | vote (ctx : CtxId)
  | gyleVote (port : PortId)
  | gyleDecideMessage (port : PortId)
  | voteDeadline (ctx : CtxId)
  | decideTimeout (ctx : CtxId)
  | gyleCommitApply (ctx : CtxId)
  | gyleAbortApply (ctx : CtxId)
  -- the fabric
  | linkWordSend (port : PortId)
  | groupReceive (port : PortId) (g : Group)
  | retryTimeout (port : PortId)
  | portTrained (port : PortId)
  | partnerLookup (port : PortId) (vc : Fin 4) (bad : LookupFaults)
  | write (port : PortId)
  | wack (port : PortId)
  | nack (port : PortId)
  | collData (port : PortId)
  | collCts (port : PortId)
  | winOpen (h : CmdHdr) (body : WinBody)
  | winClose (h : CmdHdr) (window : W16)
  | windowCloseDrained (window : Fin 4096)
  | spillRedirect (window : Fin 4096)
  | copyIn (window : Fin 4096)
  | heldWriteRelease (port : PortId)
  | sendFire (core : CoreId) (slot : SlotIx) (sem : Fin 8)
  | sendResend (ctx : CtxId) (tag : W32)
  | writeTimeout (ctx : CtxId) (tag : W32)
  | collectiveStart (core : CoreId) (slot : SlotIx) (sem : Fin 8)
  | collDeadline (channel : Fin 64)
  | layoutSet (h : CmdHdr) (epoch : W16) (flags : Byte)
  -- errors, tests and repair
  | coreTestDue (core : CoreId) (retest : Bool)
  | coreTestStart (core : CoreId)
  | coreTestComplete (core : CoreId) (r : TestOutcome)
  | digestPass (isl : Isl) (flips : List (Nat × Byte))
  | calOverlayAdd (h : CmdHdr) (entry : W128)
  | calOverlayRemove (h : CmdHdr) (entry : W128)
  | testRequest (h : CmdHdr) (unitKind : Byte) (unit : W32)
  | testpackLoad (h : CmdHdr) (pack : Signed) (stepping : Nat) (formGood : Bool)
  -- resilience
  | resilSet (h : CmdHdr) (block : ResilBytes)
  | caskHost (h : CmdHdr) (owner : W32) (ownerCtx : W16) (slotSize : W64)
  | caskRelease (h : CmdHdr) (slot : W16)
  | caskSchedule (h : CmdHdr) (gyle : W64)
  | caskDrain (ctx : CtxId)
  | caskWrite (port : PortId)
  | caskSeal (port : PortId)
  | caskRead (port : PortId) (u : ReadUpset)
  | caskRdata (port : PortId)
  | caskLost (port : PortId)
  | caskSched (port : PortId)
  | caskReport (port : PortId)
  | ckptExport (h : CmdHdr) (addr : W64) (size : W64)
  | restore (h : CmdHdr) (source : Byte) (version : Byte) (reserved : W16) (rest : RestoreRest)
  | rackBegin (h : CmdHdr) (body : RackBody) (ownFail : Bool) (sendFail : Bool)
  | rackData (port : PortId)
  | rackComplete (ctx : CtxId)
  | rackTimeout (ctx : CtxId)
  -- islands
  | crossingTransfer (src : Isl) (dst : Meeting Isl Bool)
  | crossingEvent (src : Isl) (dst : Isl)
  | resetNotice (src : Isl) (dst : Isl)
  | crossingTimeout (src : Isl) (dst : Isl)
  | frequencyChange (isl : Isl) (mhz : Nat)
  | droopStart (isl : Isl)
  | droopEnd (isl : Isl) (stretched : Nat)
  -- register pages
  | registerWrite (fn : Nat) (offset : Nat) (size : Nat) (value : W64)
  | errStatusClear (offset : Nat) (value : W32)
  | counterLowRead (offset : Nat)
  | stageGenWrite (offset : Nat) (gen : W32)
  | winDataWrite (core : CoreId) (value : W32)
  | probeSelect (core : CoreId) (test : Bool) (value : W32)
  | probeAnswer (core : CoreId) (test : Bool)
  | mirrorUpdate (offset : Meeting Nat Bool)
  | counterSnapshot (page : Nat)
  | memwinRead (offset : Nat) (len : Meeting Nat ReadUpset)
  | memwinWrite (offset : Nat) (data : List Byte)
  -- host queues
  | sqTail (fn : Nat) (ctx : Option CtxId) (index : Nat)
  | cqHead (fn : Nat) (ctx : Option CtxId) (index : Nat)
  | eqHead (fn : Nat) (index : Nat)
  | commandFetch (fn : Nat) (ctx : Option CtxId) (entry : List Byte)
  | completionPost (queue : Nat)
  | coalesceTimeout (queue : Nat)
  | queueCreate (h : CmdHdr) (ctx : W16) (kind : Byte) (location : Byte) (base : W64) (entries : W32)
      (vector : W16) (coalCount : Byte) (coalUs : W16)
  | queueDelete (h : CmdHdr) (ctx : W16) (kind : Byte)
  | hostRegister (h : CmdHdr) (addr : W64) (size : W64)
  | hostUnregister (h : CmdHdr) (range : W32)
  | copy (h : CmdHdr) (src : W64) (dst : W64) (bytes : W64) (flags : Byte)
  | copyPiece (copyId : Nat) (hostData : Meeting (List Byte) Bool) (u : ReadUpset)
  | pcieCompletionTimeout (copyId : Option Nat)
  | functionLevelReset (fn : Nat)
  | d3hotRequest (fn : Nat)
  | mctpMessage (m : Mctp)
  | pldmPowerCapWrite (watts : Nat)
  | spdmRequest (doe : Bool) (r : Spdm)
  | ideKmRequest (r : IdeKm) (secureSession : Bool)
  -- pins and start-up
  | sysRstNDeassert (sbMode : Bool)
  | fuseCheck (bad : Bool) (nonce : BitVec 256)
  | firmwareVerify (historyBad : Bool × Bool) (stuck : Bool)
  | supervisorStart (failed : Option DieId)
  | dieLinkTraining (failed : Option Isl)
  | hbmTraining (failed : List StackId) (pprRows : List Nat) (portsUp : Meeting (List PortId) (Option Isl))
  | selfTest (fails : List (CoreId × Nat × Nat))
  -- security
  | tokenPresent (via : TokenVia) (token : Signed) (body : TokenBody)
  | admitReq (partner : BitVec 24) (port : Nat) (encrypt : Bool) (nonce : BitVec 256)
  | offer (port : PortId) (d : AdmitData) (nonce : BitVec 256)
  | answer (port : PortId) (d : AdmitData)
  | proof (port : PortId) (signature : List Byte)
  | done (port : PortId) (status : W16)
  | admitTimeout (partner : BitVec 24)
  | revoke (partner : BitVec 24)
  | fwUpdateWrite (h : CmdHdr) (offset : W32) (data : List Byte)
  | fwUpdateVerify (h : CmdHdr) (bank : Signed)
  | fwUpdateActivate (h : CmdHdr)
  | fwUpdateCommit (h : CmdHdr)
  | revokeSlot (h : CmdHdr) (blob : Signed) (serial : W64) (slot : Nat)
  | ownerEnrol (h : CmdHdr) (blob : Signed) (serial : W64) (root : BitVec 512)
  -- staged apply
  | applyRequest (gen : W16)
  | applyDiscard (gen : W16)
  | applyPrepare (isl : Isl)
  | applyReady (isl : Isl)
  | applySwap (isl : Isl)
  | applyDone (isl : Isl)
  | drainTimeout (isl : Isl)
  | drainFail (isl : Isl)
  | applyAbort (isl : Isl)
  -- power and temperature
  | powerTick (r : PowerReading)
  | vrRegulationTimeout (die : DieId) (retryFailed : Bool)
  | powerCapWrite (watts : Nat)
  | thermalSample (die : DieId) (t : DieTemps) (ms1 : Bool) (ms10 : Bool)
  | thermtrip (die : DieId) (sensor : Nat)
  | tapEnableWrite (port : PortId) (enable : Bool)
  | pcieLinkTrained (rate : Nat) (width : Nat)
  | vfEnableWrite (enable : Bool) (numVfs : Nat)
  -- rows without values of their own, and four more: a compiler can build at most 245 constructors with values
  | jtagInstruction (j : Jtag)
  | dynamicAddressAssignment (setdasa : Bool) (addr : BitVec 7)
  | caskDrainTimeout (ctx : CtxId)
  | objectMoveFrame (object : Meeting Nat ReadUpset)
  | operatingHour
  | sysRstNAssert
  | pwrOkDeassert
  | perstAssert
  | perstDeassert
  | repairApply
  | identityDerive
  | debugEntry
  | applyTake
  | applyTimeout
  | pwrOkAssert
  | powerLoss
  deriving DecidableEq, Repr

end Sys2Proof
end

