-- ==== Sys2Proof/Config.lean ====
section
/-! DEFINITION. What the spec leaves open or takes from published standards: constants without a body. -/

namespace Sys2Proof.Config

/-- The value of a byte that the spec leaves undefined or unspecified: draw number, address
(R69, R255, R272, R366, R406, R492). -/
opaque freeByte : Nat → Nat → Byte

/-- A choice that the spec leaves to the device, by draw number (the cache line or translation entry that
gives way, R194, R201; keys and numbers the device hands out). -/
opaque freeNat : Nat → Nat

/-- A 32-bit value that the spec leaves open, by draw number. -/
opaque freeWord : Nat → W32

/-- The bits that an element of a block of scale 0xFF holds where Table 2.2 states none, by format code (R28, R29). -/
opaque voidBits : Nat → Nat

/-- A byte of host memory as the host holds it when the device reads it: draw number, bus address. -/
opaque hostByte : Nat → Nat → Byte

/-- SHA-512 (FIPS 180-4) of a byte string. -/
opaque sha512 : List Byte → BitVec 512

/-- SHAKE256 (FIPS 202) of a byte string, with the number of output bytes. -/
opaque shake256 : List Byte → Nat → List Byte

/-- Ed25519 verification (RFC 8032): public key, signature, message. -/
opaque ed25519Verify : BitVec 256 → BitVec 512 → List Byte → Bool

/-- ML-DSA-65 verification (FIPS 204): public key, signature, context string, message. -/
opaque mldsaVerify : List Byte → List Byte → List Byte → List Byte → Bool

/-- Ed25519 public key of a 32-byte private key. -/
opaque ed25519Pub : List Byte → List Byte

/-- ML-DSA-65 public key of a 32-byte seed. -/
opaque mldsaPub : List Byte → List Byte

/-- The hybrid signature by the two AliasID or DeviceID keys of two seeds: seeds, context string, message. -/
opaque hybridSign : List Byte → List Byte → List Byte → List Byte → List Byte

/-- Check of an identity record or proof: signer's keys, signature, context string, message. -/
opaque hybridVerify : List Byte → List Byte → List Byte → List Byte → Bool

/-- The signer a device record names (its key 6) and whether it verifies under that signer's keys (R431). -/
opaque recordSigner : List Byte → BitVec 512

/-- Whether a device record verifies under the keys of its signer (R427). -/
opaque recordVerifies : List Byte → Bool

/-- Whether an AliasID record verifies under the DeviceID keys of a device record (R431). -/
opaque aliasVerifies : List Byte → List Byte → Bool

/-- The lifecycle code that an AliasID record carries, its key 2 (Table 15.8). -/
opaque aliasCode : List Byte → Nat

/-- SHA-512 of the boot ROM (Table 15.9). -/
opaque romDigest : BitVec 512

/-- The value type that the DMTF measurement block format gives a measurement, by index (R429). -/
opaque measurementType : Nat → Nat

/-- The bytes of an SPDM MEASUREMENTS response: draw number, number of blocks, measurement record. -/
opaque measurementReply : Nat → Nat → List Byte → List Byte

/-- The AliasID keys an AliasID record carries. -/
opaque aliasKeys : List Byte → List Byte

/-- X25519 shared secret of an own nonce-derived private key and a peer's public key. -/
opaque x25519 : BitVec 256 → BitVec 256 → List Byte

/-- X25519 public key of a private value. -/
opaque x25519Pub : BitVec 256 → BitVec 256

/-- ML-KEM-768 (FIPS 203): encapsulation key of a private value. -/
opaque kemKey : BitVec 256 → List Byte

/-- ML-KEM-768: ciphertext for an encapsulation key under a private value. -/
opaque kemCipher : BitVec 256 → List Byte → List Byte

/-- ML-KEM-768: shared secret from the private value and the ciphertext or encapsulation key. -/
opaque kemSecret : BitVec 256 → List Byte → List Byte

/-- AES-256-GCM open: key, nonce, authenticated bytes, ciphertext, tag. -/
opaque aesGcmOpen : BitVec 256 → BitVec 96 → List Byte → List Byte → W128 → Option (List Byte)

/-- AES-256-GCM seal: key, nonce, authenticated bytes, plaintext. -/
opaque aesGcmSeal : BitVec 256 → BitVec 96 → List Byte → List Byte → List Byte × W128

/-- What the fused AVS tables give (R467): fuse bytes, die, compute frequency in MHz, hottest reading, to millivolts. -/
opaque avsTable : List Byte → Nat → Nat → Nat → Nat

/-- The kinds of units whose tests a test pack replaces, by its payload (R340). -/
opaque packKinds : List Byte → List Nat

/-- The highest count of an error counter that a test set allows (R337): payload, empty for the boot ROM's set, unit
kind, counter. -/
opaque testLimit : List Byte → Nat → Nat → Nat

/-- The version that TEST.PACK_VERSION reports of a test pack: the spec gives no layout of a pack's payload. -/
opaque packVersion : List Byte → W32

/-- The version that DEVCTL.FW_VERSION and DIE.SUPERVISOR_FW report of a firmware image, by its payload. -/
opaque fwVersion : List Byte → W32

/-- The code that the gstate field of a context descriptor holds in VOTED, which Table 9.6 does not list. -/
opaque votedCode : Nat

/-- The maker's JEP106 code in bits [11:1] of IDCODE, of which the spec gives no value. -/
opaque jep106 : Nat

/-- The response bytes of the published management protocols (SPDM, MCTP control, PLDM), by draw number. -/
opaque protocolReply : Nat → List Byte

/-- The bytes of a PLDM sensor reading: draw number, the value read. -/
opaque sensorReply : Nat → Nat → List Byte

end Sys2Proof.Config
end

