-- ==== Sys2Proof/Machine/Bytes.lean ====
section
/-! DEFINITION. Values as bytes (R4), the two cyclic codes of the spec, CRC-32C (R283, R336, R415) and the CRC-64 of
the configuration digests (R325), and the fault-history region of the flash (R336). -/

namespace Sys2Proof.Machine

/-! ## Little-endian values (R4) -/

/-- The value of bytes, the first the least significant. -/
def leNat (bs : List Byte) : Nat :=
  match bs with
  | [] => 0
  | b :: r => b.toNat + 256 * leNat r

/-- The n bytes of a value, the least significant first. -/
def leBytes : Nat → Nat → List Byte
  | 0, _ => []
  | n + 1, v => BitVec.ofNat 8 v :: leBytes n (v / 256)

/-! ## Cyclic codes. The spec gives the polynomials; PRESUMED (assumption 128): bit order, initial value and final
inversion are those of the published codes (Castagnoli, ECMA-182). -/

/-- One bit of a code that takes the low bit first. -/
def crcBit (poly : Nat) : Nat → Nat → Nat
  | 0, c => c
  | n + 1, c => crcBit poly n (if c % 2 = 1 then c / 2 ^^^ poly else c / 2)

/-- CRC-32C of a byte string: 0x1EDC_6F41 taken low bit first, all ones before and inverted after. -/
def crc32c (bs : List Byte) : W32 :=
  BitVec.ofNat 32 (bs.foldl (fun c b => crcBit 0x82F63B78 8 (c ^^^ b.toNat)) (2 ^ 32 - 1) ^^^ (2 ^ 32 - 1))

/-- One bit of a 64-bit code that takes the high bit first. -/
def crcBitHigh (poly : Nat) : Nat → Nat → Nat
  | 0, c => c
  | n + 1, c => crcBitHigh poly n (if 2 ^ 63 ≤ c then (2 * c % 2 ^ 64) ^^^ poly else 2 * c)

/-- The CRC-64 of R325, high bit first, from 0. -/
def crc64 (bs : List Byte) : W64 :=
  BitVec.ofNat 64 (bs.foldl (fun c b => crcBitHigh 0x42F0E1EBA9EA3693 8 (c ^^^ b.toNat * 2 ^ 56)) 0)

/-! ## The fault history (Table 11.8) -/

/-- A copy of the fault history with its CRC at 0x1C: hours, sequence, flags, tray reason and entries of 32 bytes. -/
def histImage (hours seq flags reason : Nat) (entries : List (List Byte)) : List Byte :=
  let copy := fun (crc : Nat) =>
    leBytes 2 1 ++ leBytes 2 entries.length ++ leBytes 4 hours ++ leBytes 8 seq ++ leBytes 4 flags ++ leBytes 4 reason
    ++ leBytes 4 0 ++ leBytes 4 crc ++ List.replicate 32 0 ++ entries.flatten
  copy (crc32c (copy 0)).toNat

/-- A field of a string of bytes. -/
def fieldAt (bs : List Byte) (off n : Nat) : Nat := leNat ((bs.drop off).take n)

/-- A copy of the fault history is readable: version and CRC. -/
def histGood (bs : List Byte) : Bool :=
  let size := 64 + 32 * fieldAt bs 2 2
  fieldAt bs 0 2 == 1 && decide (size ≤ bs.length)
    && fieldAt bs 0x1C 4 == (crc32c (bs.take 0x1C ++ leBytes 4 0 ++ (bs.drop 0x20).take (size - 0x20))).toNat

end Sys2Proof.Machine
end

