-- ==== Sys2Proof/Machine/State.lean ====
section
/-! DEFINITION. The state of the device as plain data, and its value after reset. -/

namespace Sys2Proof.Machine

/-- A byte memory: cells in strictly rising address order; an unlisted address reads as 0. -/
abbrev Mem := List Host.Cell

/-! ## Numbers and records -/

/-- One format-health entry (Table 2.6); the counters saturate at the widths of that table. -/
structure HealthEntry where
  converted : Nat
  overflow : Nat
  underflow : Nat
  zero : Nat
  nanIn : Nat
  infIn : Nat
  /-- bin and count -/
  hist : Table Nat
  deriving DecidableEq, Repr

/-- Format-health counts of a gyle of a context (R47, Table 2.5). An entry's key is format code × 6 + engine code. -/
structure Health where
  entries : Table HealthEntry
  tiles : Nat
  nonfiniteTiles : Nat
  saturated : Bool
  deriving DecidableEq, Repr

/-- An exact dyadic number `m × 2^e`. -/
structure Dyadic where
  m : Int
  e : Int
  deriving DecidableEq, Repr

/-- A number before it is rounded: exact, infinite or not a number. -/
inductive Num where
  | fin (neg : Bool) (mag : Dyadic)
  | inf (neg : Bool)
  | nan
  deriving DecidableEq, Repr

/-! ## Cores -/

/-- The sequencer state code of SEQ.STATE (Table 4.12). -/
inductive SeqState where
  | idle
  | running
  | waiting
  | yielded
  | faulted
  deriving DecidableEq, Repr

/-- What a slot's current instruction waits for. -/
inductive Stall where
  | none
  | wait (sem : Nat) (n : Nat)
  | issue
  | loadw
  /-- a CLAIM stalled because two tickets are open (R143) -/
  | claimFull (g : Nat) (queue : Nat)
  /-- a CLAIM on its way to the work counter -/
  | claimSent (g : Nat) (queue : Nat)
  /-- the counter's reply on its way back: ticket, row origin, local index, or the failing code -/
  | claimReply (g : Nat) (queue : Nat) (ticket : W32) (origin : Nat) (local_ : Nat) (failed : Bool)
  | fence
  | endFence
  deriving DecidableEq, Repr

/-- A ticket open in a slot (R143), with what its tiles have counted so far (R146). -/
structure OpenTicket where
  ticket : W32
  queue : Nat
  origin : Nat
  localIx : Nat
  /-- tiles issued with it and not yet completed -/
  running : Nat
  failed : Bool
  /-- a later CLAIM or END has been reached -/
  reached : Bool
  health : Health
  deriving DecidableEq, Repr

/-- A LOADW sequence that is not yet consumed, or whose copy is not yet complete (R495). -/
structure LoadwRec where
  /-- number of the LOADW in its slot -/
  id : Nat
  offset : Nat
  sem : Nat
  length : Nat
  /-- bytes already copied into planes -/
  copied : Nat
  /-- the semaphore has been incremented -/
  done : Bool
  /-- its tile has ended -/
  consumed : Bool
  deriving DecidableEq, Repr

/-- Where a weight-buffer plane's bytes come from. -/
inductive WSource where
  | loadw (id : Nat)
  | grist (stream : Nat) (seq : Nat)
  deriving DecidableEq, Repr

/-- A filled weight-buffer plane: part of a block sequence from byte `start` on (R93). -/
structure Plane where
  source : WSource
  start : Nat
  bytes : List Byte
  deriving DecidableEq, Repr

/-- A descriptor's progress in its engine. -/
inductive DStat where
  | queued
  | running
  | finished (status : W16)
  deriving DecidableEq, Repr

/-- A descriptor queued at an engine or running on it (R97), as the sequencer issued it. -/
structure QDesc where
  engine : Nat
  /-- the 64 bytes, offsets of R85 and R140 applied -/
  bytes : List Byte
  /-- byte offset of the descriptor in the grant -/
  offset : Nat
  sem : Option (Fin 8)
  ticket : Option W32
  origin : Nat
  /-- valid rows, columns and K of R134 and R493 -/
  rv : Nat
  cv : Nat
  kv : Nat
  /-- the estimate of R237 in cycles -/
  est : Nat
  /-- array cycles of the passes run, for a matrix tile that has ended (R183) -/
  cycles : Nat
  st : DStat
  /-- format-health counts the descriptor has made -/
  health : Health
  deriving DecidableEq, Repr

/-- A matrix tile in flight on the array or a half (R56). -/
structure TileRun where
  /-- N-pass being run -/
  npass : Nat
  /-- passes of that N-pass already run -/
  pass : Nat
  /-- the header of its block sequence -/
  hdr : List Byte
  /-- the byte of the sequence that the loader reads next -/
  wpos : Nat
  /-- where its weights come from -/
  source : WSource
  /-- the passes of the three of R40 already run within the current pass -/
  sub : Nat
  /-- strips of the current N-pass after R135, ascending; unused when not strip-compacted -/
  strips : List Nat
  /-- the current N-pass has been opened: bitmap read and checked -/
  opened : Bool
  /-- absolute maximum so far (R37) -/
  amax : Num
  /-- every pass has run -/
  drained : Bool
  /-- the chained conversion, where there is one, has run -/
  converted : Bool
  /-- array cycles of the passes run (R57) -/
  cycles : Nat
  deriving DecidableEq, Repr

/-- The sequencer state that a yield saves (R120). -/
structure Seq where
  pc : Nat
  g : Vector W32 8
  sem : Vector W16 8
  len : Vector W32 8
  deriving DecidableEq, Repr

/-- The latest completion that reached a slot's sequencer (R99): the descriptor's tag, none where the descriptor could
not be read, and the status. -/
structure Posted where
  tag : Option W16
  status : W16
  deriving DecidableEq, Repr

/-- A task slot of a core. -/
structure Slot where
  valid : Bool
  ctx : Nat
  task : Nat
  /-- 0 whole, 1 half lo, 2 half hi (R227) -/
  kind : Nat
  program : List W64
  seq : Seq
  state : SeqState
  stall : Stall
  /-- scratchpad grant: start and size in bytes (R85) -/
  base : Nat
  bound : Nat
  /-- neighbour ranges north, east, south, west (R86) -/
  nbase : Vector Nat 4
  nbound : Vector Nat 4
  accSlots : Nat
  descs : List QDesc
  posted : Option Posted
  loadws : List LoadwRec
  nextLoadw : Nat
  planes : List Plane
  tile : Option TileRun
  tickets : List OpenTicket
  /-- SEQ.FAULT (R121) -/
  faultStatus : W16
  faultDesc : Nat
  /-- the task has stopped issuing under R121, R245 or R272 -/
  stopped : Bool
  /-- the tile program's completion has been posted, with its status -/
  ended : Option W16
  /-- a pre-emption request has reached the slot (R235) -/
  preempt : Bool
  /-- PREEMPT_OVERRUN was raised: the saved state will be void (R239) -/
  overrun : Bool
  /-- the next ISSUE to engine 0 is held for an apply (R454) -/
  heldApply : Bool
  /-- GRIST_STARVED was raised for the present stall -/
  starved : Bool
  deriving DecidableEq, Repr

/-- A cell token (R155). -/
structure Token where
  tag : W16
  payload : W128
  deriving DecidableEq, Repr

/-- A cell (Table 6.1). Ports are 0 core, 1 north, 2 east, 3 south, 4 west. -/
structure CellSt where
  regs : Table W128
  firing : Table W128
  routes : Table W32
  /-- input queues -/
  queues : Vector (List Token) 5
  /-- tokens on the way in: the wire and the crossing buffer of each input -/
  inbound : Vector (List Token) 5
  /-- results of fires on their way to a core-port binding -/
  outbound : List Token
  /-- credits spent on each output link -/
  spent : Vector Nat 5
  /-- credits on their way back for each output link -/
  returning : Vector Nat 5
  lastFired : Nat
  lastServed : Vector Nat 5
  /-- firing entries whose COUNT is between its first and its last emission -/
  counting : List Nat
  /-- firing entries stopped by a table parity error -/
  stoppedEntries : List Nat
  /-- route entries stopped by a table parity error -/
  stoppedRoutes : List Nat
  /-- tokens sent since the gyle began, by stream (R162) -/
  tokenCount : Table Nat
  deriving DecidableEq, Repr

/-- A core-port binding (Table 6.6) with its ring positions (R166). -/
structure BindSt where
  cfg : W128
  /-- tokens written or read since the gyle began -/
  pos : Nat
  /-- units of sem_a consumed -/
  units : Nat
  /-- stopped by a table parity error -/
  stopped : Bool
  deriving DecidableEq, Repr

/-- The state of a core's tests (R337). -/
inductive TestState where
  | idle
  | due
  | running
  | overdue
  deriving DecidableEq, Repr

/-- A core. -/
structure Core where
  slots : Vector Slot 2
  spad : Mem
  acc : Mem
  cells : Table CellSt
  bindings : Table BindSt
  /-- the slot that started the last descriptor of each shared engine (R97) -/
  lastSlot : Table Nat
  test : TestState
  retestPending : Bool
  /-- test requests that the core's next test answers (R340) -/
  testCmds : List CmdHdr
  /-- saved 512 KiB test area while a test runs (R339) -/
  testArea : Mem
  /-- management cycle at which the last passed test ended -/
  passCycle : Nat
  /-- contexts that ran on the core since its last passed test (R338) -/
  ranSince : List Nat
  /-- the staged apply of CELLWIN awaits its swap (R178) -/
  swapPending : Bool
  /-- cell regions of yielded tasks are saved (R179) -/
  regionSaved : Bool
  deriving DecidableEq, Repr

/-! ## Clusters -/

/-- A ticket the counter has handed out and not yet seen end. -/
structure Outstanding where
  gen : Nat
  core : Nat
  slot : Nat
  /-- hub cycle of recording -/
  at_ : Nat
  deriving DecidableEq, Repr

/-- Slice states (Table 5.4). -/
inductive SliceState where
  | free
  | claimed
  | done
  deriving DecidableEq, Repr

/-- A slice of a queue. -/
structure Slice where
  state : SliceState
  gen : Nat
  tickets : List Outstanding
  deriving DecidableEq, Repr

/-- An installed work-counter queue (R138). -/
structure WQueue where
  ctx : Nat
  num : Nat
  rec_ : QueueRec
  slices : List Slice
  failed : Bool
  /-- the slots that have been sent a 0 reply in this round (R148), as core × 2 + slot -/
  zeroed : List Nat
  resetPending : Bool
  /-- the first hub cycle in which the counter can record the queue's next event (R147) -/
  nextAt : Nat
  deriving DecidableEq, Repr

/-- A sequence held by a grist stream: where its bytes lie in the context's memory, which its cached lines never
differ from (R202), or the status that its fetch met (R216). -/
structure GristSeq where
  num : Nat
  va : Nat
  len : Nat
  fault : Option W16
  deriving DecidableEq, Repr

/-- An installed grist stream (R212). -/
structure GStream where
  ctx : Nat
  num : Nat
  rec_ : StreamRec
  /-- lowest unreleased sequence -/
  low : Nat
  /-- next sequence to fetch -/
  next : Nat
  held : List GristSeq
  /-- sequences above the lowest unreleased one that are released -/
  released : List Nat
  /-- one more than the latest sequence named by each consumer core's tiles; 0 where none has been -/
  named : Table Nat
  deriving DecidableEq, Repr

/-- A cluster's hub. -/
structure Cluster where
  queues : List WQueue
  streams : List GStream
  /-- lines present in the cluster cache, by physical line address -/
  cache : List Nat
  /-- translations cached: context and page -/
  xlate : List (Nat × Nat)
  /-- cache ways locked for grist windows, by context -/
  locks : Table Nat
  deriving DecidableEq, Repr

/-! ## Contexts -/

/-- Context states (Table 8.3). -/
inductive CtxState where
  | free
  | loaded
  | resident
  | running
  | blocked
  | swapped
  | killed
  | sparging
  deriving DecidableEq, Repr

/-- Gyle states (Table 9.6, with VOTED). -/
inductive GyleState where
  | idle
  | running
  | voted
  | applying
  | held
  deriving DecidableEq, Repr

/-- The first abort cause recorded in a gyle (Table 9.3), with its status and its source (Table 9.9). -/
structure Cause where
  cause : Nat
  status : W16
  /-- bits [23:0] the unit, bits [31:24] the kind -/
  source : W32
  deriving DecidableEq, Repr

/-- A decision as the coordinator records it or a participant receives it. -/
structure Decision where
  gyle : Nat
  commit : Bool
  cause : Nat
  status : W16
  origin : BitVec 24
  attempt : Nat
  deriving DecidableEq, Repr

/-- A vote that reached its coordinator before the coordinator's own gyle or attempt: who sent it and its fields. -/
structure EarlyVote where
  partner : Nat
  ctx : Nat
  gyle : Nat
  attempt : Nat
  abort : Bool
  job : Nat
  epoch : Nat
  origin : Nat
  status : W16
  deriving DecidableEq, Repr

/-- What a coordinating context holds (R265, R267). -/
structure Coord where
  /-- COMMIT_READY votes recorded for the running gyle: partner and context -/
  votes : List (Nat × Nat)
  /-- decisions of the last two gyles, the newest first -/
  decisions : List Decision
  /-- votes ahead of the coordinator's own gyle, oldest first -/
  early : List EarlyVote
  deadlineRuns : Bool
  deriving DecidableEq, Repr

/-- The gyle part of a context. -/
structure Gyle where
  st : GyleState
  /-- the command that started the gyle, to be completed at its end -/
  cmd : Option CmdHdr
  /-- gyle-start actions are still to be performed (R253) -/
  startPending : Bool
  cause : Option Cause
  hostTime : W64
  seqBegin : Nat
  /-- tasks whose END completion was SUCCESS -/
  endedTasks : List Nat
  /-- islands that completed a digest pass since the gyle start, once per pass: the second began after it -/
  digestSeen : List Nat
  /-- the decision to apply, once one has arrived -/
  decision : Option Decision
  /-- the last decision applied: gyle and outcome (R270) -/
  applied : Option (Nat × Bool)
  /-- automatic replay is suppressed for this abort (R274) -/
  noReplay : Bool
  replay : Bool
  /-- FP32_EMU in force: true for one pass (R41) -/
  emuOne : Bool
  /-- seeds in force (R43) -/
  seeds : Vector W64 4
  coord : Coord
  /-- layout epoch to take effect at the next gyle start (R316) -/
  nextEpoch : Option W16
  /-- descriptor bytes to take effect at the next gyle start (R277, R317): offset and value -/
  nextDesc : List (Nat × Byte)
  deriving DecidableEq, Repr

/-- The saved state of one task (R235, R241). -/
structure SavedTask where
  task : Nat
  seq : Seq
  loadws : List LoadwRec
  acc : Mem
  cells : Table CellSt
  bindings : Table BindSt
  ended : Option W16
  void : Bool
  heldApply : Bool
  /-- the scratchpad grant, for a swapped task -/
  spad : Mem
  faultStatus : W16
  faultDesc : Nat
  deriving DecidableEq, Repr

/-- Where a task is placed. -/
structure TaskPlace where
  task : Nat
  core : Nat
  slot : Nat
  /-- start of its scratchpad grant -/
  base : Nat
  /-- the task holds a task slot of its core -/
  running : Bool
  deriving DecidableEq, Repr

/-- A message of a send or a collective not yet answered (R304, R305). -/
structure InFlight where
  tag : W32
  port : Nat
  hdr : MsgHdr
  data : List Byte
  /-- the send (task, trigger unit number) or the collective channel it belongs to -/
  sendId : Option Nat
  channel : Option Nat
  /-- answered WINDOW_BUSY, to be resent after 10 µs -/
  busy : Bool
  /-- a cask drain message -/
  cask : Bool
  /-- a racking transfer message -/
  rack : Bool
  deriving DecidableEq, Repr

/-- A send that has fired and is not complete. -/
structure SendSt where
  id : Nat
  task : Nat
  doneSem : Option Nat
  deriving DecidableEq, Repr

/-- A scheduled receipt or sending of a collective step (R309). -/
structure CollStep where
  /-- 0 phase A, 1 up, 2 down, 3 phase C -/
  phase : Nat
  step : Nat
  send : Bool
  partner : BitVec 24
  ctx : Nat
  /-- element range -/
  first : Nat
  count : Nat
  /-- a receipt into the landing area for an add -/
  land : Bool
  /-- ready units to be consumed before a send -/
  after : Nat
  /-- receipts into the buffer that must be recorded before a send -/
  afterRecv : Nat
  ctsSent : Bool
  /-- message number of the clear-to-send of a receipt -/
  ctsTag : W32
  ctsSeen : Bool
  /-- elements received -/
  got : Nat
  /-- every message of a sending is out -/
  out : Bool
  done : Bool
  deriving DecidableEq, Repr

/-- A running collective (R306 to R310). -/
structure CollRun where
  ctx : Nat
  task : Nat
  bf16 : Bool
  port : Nat
  stepSem : Nat
  readySem : Nat
  doneSem : Nat
  bufOff : Nat
  landOff : Nat
  elements : Nat
  steps : List CollStep
  /-- cycle of the home port's island at which the start was recorded -/
  startCycle : Nat
  /-- units of the ready semaphore consumed -/
  readyUsed : Nat
  failed : Bool
  deriving DecidableEq, Repr

/-- A reduction channel (R306). -/
structure Chan where
  owner : Option Nat
  /-- collectives started in the gyle -/
  collSeq : Nat
  /-- clear-to-sends recorded for collectives not yet started: coll_seq, phase, step, partner, context -/
  early : List (Nat × Nat × Nat × Nat × Nat)
  run : Option CollRun
  deriving DecidableEq, Repr

/-- Capture state (Table 12.8). -/
inductive Capture where
  | idle
  | capturing
  | sealed
  | draining
  deriving DecidableEq, Repr

/-- Racking state (Table 12.8). -/
inductive RackPhase where
  | none
  | racking
  | done
  | failed
  deriving DecidableEq, Repr

/-- A RESTORE that waits for the decision, for the context's grants or for its image (R364). -/
structure RestoreReq where
  hdr : CmdHdr
  /-- 0 staging, 1 partner cask, 2 host range -/
  source : Nat
  /-- of a partner cask: 0 newest, 1 older -/
  version : Nat
  expected : W64
  /-- the host bus address of source 2, and whether the host range fails to answer -/
  addr : Nat
  hostFail : Bool
  deriving DecidableEq, Repr

/-- A cask version being read from its holder (R358, R364). -/
structure CaskReading where
  version : Nat
  /-- bytes received, from the start of the image -/
  got : List Byte
  /-- where the bytes of the READ that is out end -/
  upTo : Nat
  deriving DecidableEq, Repr

/-- A racking in progress (R369). -/
structure Rack where
  cmd : CmdHdr
  body : RackBody
  /-- the host ranges own_image and host_image fail to answer -/
  ownFail : Bool
  sendFail : Bool
  /-- the plan, once it has been read -/
  plan : List PlanEntry
  /-- the own image is restored and the sends are out (steps 3 and 4 are done) -/
  restored : Bool
  /-- seeds of the own image -/
  seeds : List W64
  /-- loss and layout digest of the own image -/
  proof : W32 × W64
  /-- ranges received per expect entry: plan index, offset in the object, bytes -/
  received : List (Nat × Nat × Nat)
  deriving DecidableEq, Repr

/-- The resilience state of a context. -/
structure Resil where
  block : ResilBytes
  /-- a block written while a gyle runs (R351) -/
  nextBlock : Option ResilBytes
  /-- T3 frames that the context is charged for its casks (R352) -/
  charge : Nat
  capture : Capture
  /-- every read of the running capture is complete -/
  captured : Bool
  /-- the gyle whose state the latest capture holds, and the data position that it read -/
  capGyle : Nat
  dataPos : Nat
  rack : RackPhase
  racking : Option Rack
  /-- loss and layout digest of the image whose restore awaits proof (R368) -/
  proof : Option (W32 × W64)
  interval : Nat
  cost : Nat
  gyleUs : Nat
  /-- durations of the last 16 commits, in µs -/
  gyleTimes : List Nat
  /-- management cycle at which the gyle started, at which its other vote conditions held -/
  startCycle : Nat
  readyCycle : Option Nat
  caskGyle : Nat
  jobCask : Nat
  nextCask : Option Nat
  /-- latest REPORT per participant: partner, context, gyle, cost, sealed -/
  reports : List (Nat × Nat × Nat × Nat × Bool)
  waiting : Option RestoreReq
  reading : Option CaskReading
  /-- offset of the next byte of the sealed image to be drained to the holder -/
  drainAt : Option Nat
  deriving DecidableEq, Repr

/-- A context. `desc` holds the bytes of its descriptor (Tables 8.1, 9.8 and 10.10) that the host or the
device writes whole; the fields the device keeps elsewhere are put in by `Ctx.descByte`. -/
structure Ctx where
  state : CtxState
  halted : Bool
  swapping : Bool
  desc : Mem
  image : Option Image
  places : List TaskPlace
  saved : List SavedTask
  /-- the clusters of the first placement (R232), and the die of the lowest core of the latest (R199) -/
  firstMap : List Nat
  lastDie : Option Nat
  /-- cluster of each cluster index of the image at the present placement -/
  clusterMap : List Nat
  /-- queue records and streams saved by a swap out -/
  savedQueues : List WQueue
  savedStreams : List GStream
  /-- local object number and device object number -/
  objects : List (Nat × Nat)
  /-- objects with placement near that wait for the first placement: object, command to complete -/
  nearPending : List (Nat × Option CmdHdr)
  ptab : Table W64
  tabFrames : List Nat
  /-- charges at tiers T0 to T3: 4 KiB units, then frames -/
  charges : Vector Nat 4
  /-- causal sequence of the last state change (Table 8.1) -/
  since : Nat
  /-- causal sequence at which it last ran -/
  lastRun : Nat
  quantumOver : Bool
  /-- a PREEMPT_REQUEST is out for the context -/
  preempting : Bool
  /-- cycle of the management island of die 0 at which it was recorded -/
  preemptAt : Nat
  gyle : Gyle
  health : Health
  /-- next slots of the format-health, gyle and performance rings (R279) -/
  fhPos : Nat
  gPos : Nat
  perfPos : Nat
  /-- rings whose first failure in this gyle has been posted -/
  ringFailed : List Nat
  perfLost : Bool
  perfUnread : Nat
  sends : List SendSt
  sendNext : Nat
  msgs : List InFlight
  msgNext : Nat
  /-- collective records started, key task × 8 + start semaphore -/
  collNext : Table Nat
  resil : Resil
  /-- stall probe (R174): round, and per island of the region the move count of the first round -/
  probe : Option (Nat × Table Nat)
  probeSeen : List Nat
  /-- the pool was too small for a near object and the event has been posted (R199) -/
  poolPosted : Bool
  /-- a placement met t0_quota and the event has been posted (R205) -/
  quotaPosted : Bool
  /-- tasks whose EXACT figures are marked stale (R74, R185) -/
  stale : List Nat
  killCmd : Option CmdHdr
  unloadCmd : Option CmdHdr
  deriving DecidableEq, Repr

/-! ## Objects and frames -/

/-- Object states (Table 7.7). -/
inductive Motion where
  | stable
  | up
  | down
  /-- the last hold was released while moving: stops at the next frame boundary -/
  | stopping
  deriving DecidableEq, Repr

/-- A device object. Frames are numbered die × 65,536 + frame. -/
structure Obj where
  /-- context, local number, context address -/
  holders : List (Nat × Nat × Nat)
  flags : W32
  size : Nat
  tier : Nat
  motion : Motion
  frames : List Nat
  /-- second slots of a GYLE_VERSIONED HBM object (R254) -/
  framesB : List Nat
  logFrames : List Nat
  /-- blocks saved in the log frames since the log was cleared (R257) -/
  logged : Nat
  /-- for RESIDENT: task and offset -/
  resident : Option (Nat × Nat)
  /-- placement value of its frames (R199) -/
  placement : Nat
  /-- host range of a T2 object: range id and bus address -/
  hostRange : Option (Nat × Nat)
  /-- target frames of a move up -/
  moveFrames : List Nat
  moveRange : Option (Nat × Nat)
  moved : Nat
  moveCmd : Option CmdHdr
  /-- the release of the last hold that waits for the next frame boundary -/
  releaseCmd : Option CmdHdr
  deriving DecidableEq, Repr

/-- The frames of a die's region (R198). -/
structure DiePool where
  /-- frames taken by objects, page tables and logs -/
  used : List Nat
  /-- freed frames waiting to be zeroed, oldest first (R246) -/
  toZero : List Nat
  /-- frames zeroed so far in the order of R424 -/
  zeroed : Nat
  /-- frames of the cask reservation that hold casks -/
  cask : List Nat
  deriving DecidableEq, Repr

/-! ## The fabric -/

/-- Window states (Table 10.7). -/
inductive WinState where
  | free
  | open
  | closing
  deriving DecidableEq, Repr

/-- A window (R294). -/
structure Window where
  state : WinState
  gen : W16
  body : WinBody
  /-- writes go to the spill area (R300) -/
  redirected : Bool
  closeCmd : Option CmdHdr
  deriving DecidableEq, Repr

/-- A message in a receive buffer. `admitted` is the result of the partner lookup. -/
structure RxMsg where
  hdr : MsgHdr
  data : List Byte
  tag : Option (W128 × W64)
  admitted : Option Bool
  deriving DecidableEq, Repr

/-- A group as the replay buffer keeps it: its number, its flits and the credits its link word returns. -/
structure SentGroup where
  seq : BitVec 10
  flits : List Flit
  credit : Nat
  creditVc : Fin 4
  deriving DecidableEq, Repr

/-- A TAP port (R283 to R287). -/
structure Port where
  /-- sequence of the last group received in order and good -/
  ack : BitVec 10
  ackDue : Bool
  nakDue : Bool
  /-- the receiver discards until the group ack + 1 -/
  discarding : Bool
  txSeq : BitVec 10
  /-- unacknowledged groups, oldest first -/
  replay : List SentGroup
  /-- groups of the replay buffer to be sent again -/
  resend : Nat
  /-- resends in succession of the oldest group -/
  resent : Nat
  /-- the last group given to the FEC encoder, with its link word -/
  sent : Option (List Flit × LinkWord)
  /-- flits waiting per virtual channel -/
  tx : Vector (List Flit) 4
  /-- credits held per virtual channel, in flits -/
  credits : Vector Nat 4
  /-- flits that left the receive buffer and whose credits are to be returned -/
  freed : Vector Nat 4
  /-- flits in the receive buffer -/
  rxFlits : Vector Nat 4
  /-- partly received message per virtual channel -/
  part : Vector (Option RxMsg) 4
  rx : Vector (List RxMsg) 4
  /-- held writes (R299, R301, R339) -/
  hold : List RxMsg
  /-- last accepted counters per partner and virtual channel, key partner × 4 + vc (R433) -/
  counters : Table Nat
  /-- own counters per partner and virtual channel -/
  sendCounters : Table Nat
  deriving DecidableEq, Repr

/-- Partner states (Table 10.5). -/
inductive PartnerState where
  | none
  | admitted
  | revoked
  deriving DecidableEq, Repr

/-- A partner entry (Table 10.5), with its session keys when messages to it are encrypted. -/
structure Partner where
  state : PartnerState
  ports : W16
  at_ : Nat
  session : W32
  encrypted : Bool
  keyTx : BitVec 256
  keyRx : BitVec 256
  deriving DecidableEq, Repr

/-- An admission in progress (R431). -/
structure Admission where
  port : Nat
  initiator : Bool
  encrypt : Bool
  own : Option AdmitData
  peer : Option AdmitData
  /-- the peer requested encryption -/
  peerEncrypt : Bool
  priv : BitVec 256
  proofGood : Bool
  doneSeen : Bool
  /-- an OFFER has been sent or answered -/
  answered : Bool
  deriving DecidableEq, Repr

/-! ## The host interface -/

/-- A completion or event entry (Table 14.5). -/
structure Entry where
  cmdId : W32
  status : W16
  sqHead : W16
  ctx : W16
  type : Byte
  info : W32
  payload : List Byte
  deriving DecidableEq, Repr

/-- A queue (R399). -/
structure Queue where
  base : Nat
  entries : Nat
  /-- in the context's T1 memory -/
  inT1 : Bool
  vector : Nat
  coalCount : Nat
  coalUs : Nat
  head : Nat
  tail : Nat
  phase : Bool
  /-- entries waiting for a free slot, oldest first -/
  waiting : List Entry
  /-- entries posted since the last interrupt -/
  since : Nat
  deriving DecidableEq, Repr

/-- A host range (R405). -/
structure HostRange where
  fn : Nat
  base : Nat
  size : Nat
  deriving DecidableEq, Repr

/-- A running copy (R407). -/
structure CopyRun where
  hdr : CmdHdr
  src : Nat
  dst : Nat
  bytes : Nat
  srcCtx : Bool
  dstCtx : Bool
  /-- offsets of the pieces that have not landed, ascending -/
  left : List Nat
  deriving DecidableEq, Repr

/-- A command that a fetch has started and that is not complete (R401). -/
structure Started where
  queue : Nat
  id : W32
  opcode : Byte
  /-- SQ head after the fetch (Table 14.5) -/
  sqHead : Nat
  deriving DecidableEq, Repr

/-- The host interface and the sideband. -/
structure HostIf where
  queues : Table Queue
  ranges : Table HostRange
  nextRange : Nat
  copies : Table CopyRun
  nextCopy : Nat
  started : List Started
  /-- MSI-X vectors raised: function and vector, newest first -/
  msix : List (Nat × Nat)
  /-- MSI-X vectors that the host has masked, and those whose pending bit is set -/
  msixMasked : List (Nat × Nat)
  msixPending : List (Nat × Nat)
  rate : Nat
  width : Nat
  vfs : Nat
  vfEnable : Bool
  /-- functions in D3hot -/
  d3hot : List Nat
  perst : Bool
  /-- the last answer of a memory-window read -/
  memwinData : List Byte
  /-- answers of the sideband and of DOE, newest first -/
  replies : List (List Byte)
  eid : Byte
  i3cAddr : Option (BitVec 7)
  /-- SB_MODE as sampled: true for SMBus -/
  smbus : Bool
  spdmVersion : Bool
  /-- an SPDM key exchange awaits its finish -/
  spdmKex : Bool
  spdmSession : Bool
  /-- IDE keys: stream, key set, direction, key; and the streams and key sets in the secure state -/
  ideKeys : List (Nat × Nat × Bool × BitVec 256)
  ideSecure : List (Nat × Nat × Bool)
  deriving DecidableEq, Repr

/-! ## Start-up and security -/

/-- DEVICE_STATE (Table 15.7). -/
inductive DevState where
  | booting
  | ready
  | recovery
  | failed
  | error
  deriving DecidableEq, Repr

/-- Fuses (Table 15.2). -/
structure Fuses where
  /-- blown lifecycle bits: 0 BLANK, 1 PROVISIONED, 2 PRODUCTION, 3 RMA -/
  lifecycle : Nat
  vendorRoot : Vector (BitVec 512) 2
  /-- a vendor slot is fused -/
  vendorFused : Vector Bool 2
  vendorRevoked : Vector Bool 2
  ownerRoot : BitVec 512
  ownerValid : Bool
  rollback : Vector Nat 4
  deviceSecret : BitVec 256
  serial : W64
  /-- factory repair map: REPAIR bits [17:0] per core, unlisted 0x30000 -/
  repair : Table W32
  /-- AVS tables, thermal trims and SerDes trims, whose layout the spec does not give (R341) -/
  avs : List Byte
  thermal : List Byte
  serdes : List Byte
  /-- true for the -M bin -/
  binM : Bool
  deriving DecidableEq, Repr

/-- Service states (Table 11.6). -/
inductive Service where
  | normal
  | observed
  | retired
  deriving DecidableEq, Repr

/-- A unit's fault history (R333, Table 11.8). Hours are in units of 0.1 h. -/
structure UnitHist where
  state : Service
  lastDetector : Nat
  repaired : Bool
  transients : Nat
  /-- hours of the transients seen since start-up, newest first -/
  recent : List Nat
  confirmed : Nat
  /-- hours of the last three confirmed faults, newest first -/
  confHours : List Nat
  /-- confirmed faults of the present OBSERVED period, with the one that began it -/
  since : Nat
  lastDetection : Nat
  /-- the hour from which no detection has come and no test has failed -/
  quietSince : Nat
  /-- detector awaiting its retest -/
  pending : Option Nat
  /-- corrected errors in the present hour: hour and count -/
  ceHour : Nat
  ceCount : Nat
  deriving DecidableEq, Repr

/-- A copy of the calibration region (R341): sequence, CRC good, contents. -/
structure CalCopy where
  seq : Nat
  good : Bool
  entries : List W128
  deriving DecidableEq, Repr

/-- A copy of the flash directory (R415). -/
structure DirCopy where
  seq : Nat
  good : Bool
  /-- true when bank B is active -/
  bankB : Bool
  testSlot : Nat
  deriving DecidableEq, Repr

/-- The boot flash (Table 15.1). -/
structure Flash where
  dirs : Vector DirCopy 2
  /-- of a 1 Gbit part: the upper copy of directory and device record (Table 15.1) -/
  upper : Option (DirCopy × List Byte)
  /-- firmware banks: the signed image as the flash holds it -/
  banks : Vector (Option Signed) 2
  /-- raw bytes written to a bank since its image was last whole -/
  bankBytes : Vector Mem 2
  /-- the two copies of the fault history, as bytes (Table 11.8) -/
  hist : Vector (List Byte) 2
  cal : Vector CalCopy 2
  packs : Vector (Option Signed) 2
  /-- the device record of the identity region (R427) -/
  deviceRecord : List Byte
  /-- the history and calibration regions take no write, as start-up found: a condition of the part -/
  stuck : Bool
  deriving DecidableEq, Repr

/-- Start-up and security state. -/
structure Sec where
  devState : DevState
  /-- the next step of Table 15.6; 0 before start-up begins, 9 after READY -/
  bootStep : Nat
  /-- lifecycle code in force (Table 15.5) -/
  lifecycle : Nat
  bankB : Bool
  fallback : Bool
  nonce : BitVec 256
  /-- the inactive bank passed VERIFY with no WRITE since -/
  verified : Bool
  /-- the test pack that the directory names failed its check at start-up: the boot ROM set is in force -/
  packBad : Bool
  /-- an island that does not leave reset, as start-up finds -/
  stuckIsland : Option Nat
  updateBusy : Bool
  /-- an accepted DEBUG or RMA token whose entry is not complete: the lifecycle code it leads to -/
  entering : Option Nat
  partners : Table Partner
  /-- identifiers in the partner cache, most recently used first (R292) -/
  pcache : List Nat
  admissions : Table Admission
  aliasRecord : List Byte
  /-- SHA-512 of the debug token in force (Table 15.9) -/
  token : Option (BitVec 512)
  tdo : List Byte
  bootMs : Nat
  deriving DecidableEq, Repr

/-! ## Staged apply -/

/-- Who requests an apply (R449, R451). -/
inductive Requester where
  | supervisor (die : Nat)
  | controller
  | host
  deriving DecidableEq, Repr

/-- Phases of an apply (Table 16.14). -/
inductive ApplyPhase where
  | prepare
  | swap
  deriving DecidableEq, Repr

/-- A running apply (R453). -/
structure ApplyRun where
  gen : Nat
  who : Requester
  phase : ApplyPhase
  /-- affected islands by identifier -/
  islands : List Nat
  /-- islands that have received PREPARE -/
  prepared : List Nat
  /-- islands that have sent DRAIN_FAIL -/
  failing : List Nat
  ready : List Nat
  /-- islands that have swapped -/
  swapped : List Nat
  done : List Nat
  /-- pages of the generation, by register-window offset -/
  pages : List Nat
  startCycle : Nat
  deriving DecidableEq, Repr

/-- A staged cell table entry (R188): page, table, cell, index, value. -/
structure StagedEntry where
  page : Nat
  table : Nat
  cell : Nat
  index : Nat
  value : W128
  deriving DecidableEq, Repr

/-- The apply unit. -/
structure Apply where
  queue : List (Nat × Requester)
  run : Option ApplyRun
  conflicted : List Nat
  staged : List StagedEntry
  /-- staged values of ST fields, by register-window offset of the live field -/
  shadows : Table W32
  /-- islands to which ABORT was sent and that have not received it -/
  aborting : List Nat
  nextSupGen : Nat
  deriving DecidableEq, Repr

/-! ## Errors -/

/-- An error record (Table 11.5). -/
structure ErrRec where
  cls : Nat
  detector : Nat
  unitKind : Nat
  flags : Nat
  island : Nat
  unit : Nat
  ctx : Nat
  status : W16
  cycle : Nat
  sequence : Nat
  gyle : Nat
  address : Nat
  count : Nat
  detail : W32
  hours : Nat
  /-- management cycle at which it was recorded (R331) -/
  recorded : Nat
  deriving DecidableEq, Repr

/-- Errors, history and repair. -/
structure Ras where
  /-- the most recent records, newest first, at most 512 (R332) -/
  log : List ErrRec
  /-- records of the log not yet posted to the host -/
  unposted : Nat
  written : Nat
  /-- unit histories, key unit kind × 2^32 + unit -/
  hist : Table UnitHist
  /-- overlay entries in force (Table 11.9), the first byte lowest -/
  overlay : List W128
  hours : Nat
  /-- one more than the operating hour in which a count change was last written (R336) -/
  countHour : Nat
  devErrors : List Nat
  trayReason : Nat
  trayReported : Bool
  deriving DecidableEq, Repr

/-! ## Power -/

/-- Power and thermal state of a die. -/
structure DiePower where
  freq : Nat
  capLimit : Nat
  thermalLimit : Nat
  currentLimit : Nat
  hottest : Nat
  vcore : Nat
  issueHold : Bool
  /-- request duty of the stacks in sixteenths that the cap allows (R476) -/
  duty : Nat
  /-- request duty of each stack in sixteenths that its temperature allows (R478) -/
  hotDuty : Vector Nat 4
  power : Nat
  /-- the thermal limit is being lowered (R478) -/
  lowering : Bool
  deriving DecidableEq, Repr

/-! ## Islands -/

/-- Island states (Table 13.7). -/
inductive IslRun where
  | reset
  | handshake
  | run
  deriving DecidableEq, Repr

/-- An island. -/
structure IslSt where
  run : IslRun
  freq : Nat
  cycle : Nat
  seq : Nat
  stretching : Bool
  clocksStopped : Bool
  deriving DecidableEq, Repr

/-- One direction of a crossing (R379 to R381). -/
structure Cross where
  /-- next channel of the rotation at the sender and at the receiver -/
  sendNext : Nat
  recvNext : Nat
  /-- request and acknowledge toggles per channel -/
  req : Table Bool
  ack : Table Bool
  /-- an event waits for the channel -/
  pending : Bool
  closed : Bool
  deriving DecidableEq, Repr

/-- A causal stamp (Table 13.5). -/
structure Stamp where
  island : Nat
  causeIsland : Nat
  causePartner : Nat
  cycle : Nat
  sequence : Nat
  causeSequence : Nat
  deriving DecidableEq, Repr

/-! ## Casks held for partners -/

/-- One version of a held cask (R357). Its bytes lie in the frames of its slot. -/
structure CaskVersion where
  gyle : Nat
  sealed : Bool
  lost : Bool
  deriving DecidableEq, Repr

/-- A cask slot granted to a partner (R356). -/
structure CaskSlot where
  owner : Nat
  ctx : Nat
  size : Nat
  key : W32
  /-- newest version first -/
  versions : Vector CaskVersion 2
  /-- frames of the reservation, half of them for each version -/
  frames : List Nat
  /-- the newest version lies in the second half of the frames -/
  flipped : Bool
  deriving DecidableEq, Repr

/-- The control and status pins (Table 17.3) that the device reads or drives. -/
structure Pins where
  pwrOk : Bool
  /-- SYS_RST_N is high -/
  rstHigh : Bool
  /-- THERMTRIP_N is driven low -/
  thermtrip : Bool
  /-- in-band interrupts raised for ALERT_N (R473) -/
  ibi : Nat
  deriving DecidableEq, Repr

/-- The device: everything the spec gives the block. -/
structure Dev where
  /-- the model's own counter of free values drawn; no field of the spec -/
  free : Nat
  pins : Pins
  fuses : Fuses
  flash : Flash
  sec : Sec
  /-- registers at their blocks, by byte offset in the register window; unlisted reads as the reset value -/
  blk : Table W32
  /-- the register mirror of the host island (R396), same keys -/
  mirror : Table W32
  /-- high words latched by reads of counters' low words (R81) -/
  latch : Table W32
  islands : Table IslSt
  crossings : Table Cross
  cores : Table Core
  clusters : Table Cluster
  ctxs : Table Ctx
  objs : Table Obj
  nextObj : Nat
  pool : Vector DiePool 4
  /-- frames of the swap reserve that hold save areas, by context -/
  swapUsed : Table (List Nat)
  hbm : Mem
  /-- ranges of HBM whose bytes the spec leaves undefined: first address, length, draw of their free values -/
  undef : List (Nat × Nat × Nat)
  hostMem : Mem
  windows : Table Window
  ports : Table Port
  chans : Table Chan
  host : HostIf
  apply : Apply
  ras : Ras
  power : Table DiePower
  casks : Table CaskSlot
  /-- the merged log of causal stamps, newest first (R388) -/
  stamps : List Stamp
  /-- idle and move counts of task slots (R173), key core × 2 + slot: idle, moves -/
  moves : Table (Nat × Nat)
  /-- what the latest hub access answered its requester: status and data -/
  answer : W16 × List Byte
  deriving DecidableEq, Repr

/-- The machine: the device and the commands that wait for it. -/
structure State where
  /-- commands waiting, first in first out -/
  pending : List Instr
  dev : Dev
  deriving DecidableEq, Repr

/-- Reasons for which the device stops. No command of this model stops the device: the type has one member
for an address that the register map does not have. -/
inductive Fault where
  /-- Raised by a command that names an island that no die has (nn 34 on a die other than 0). The spec gives
  no such island (R377), so stopping forbids nothing that the hardware does: safe. -/
  | noSuchIsland (island : Nat)
  deriving DecidableEq, Repr

/-- Reasons for which a command has no meaning. -/
inductive Refusal where
  /-- Raised by the dispatch arm of a command whose meaning is not written: safe, nothing is claimed of it. -/
  | notModelled (mnemonic : String)
  deriving DecidableEq, Repr

/-! ## Reset -/

/-- Format-health counts from zero. -/
def Health.zero : Health := { entries := [], tiles := 0, nonfiniteTiles := 0, saturated := false }

def Seq.zero : Seq :=
  { pc := 0, g := Vector.replicate 8 0, sem := Vector.replicate 8 0, len := Vector.replicate 8 0 }

def Slot.empty : Slot :=
  { valid := false, ctx := 0, task := 0, kind := 0, program := [], seq := Seq.zero, state := .idle,
    stall := .none, base := 0, bound := 0, nbase := Vector.replicate 4 0, nbound := Vector.replicate 4 0,
    accSlots := 1, descs := [], posted := none, loadws := [], nextLoadw := 0, planes := [], tile := none, tickets := [], faultStatus := 0,
    faultDesc := 0, stopped := false, ended := none, preempt := false, overrun := false,
    heldApply := false, starved := false }

def CellSt.empty : CellSt :=
  { regs := [], firing := [], routes := [], queues := Vector.replicate 5 [], inbound := Vector.replicate 5 [],
    outbound := [],
    spent := Vector.replicate 5 0, returning := Vector.replicate 5 0, lastFired := 63,
    lastServed := Vector.replicate 5 0, counting := [], stoppedEntries := [], stoppedRoutes := [], tokenCount := [] }

def Core.reset : Core :=
  { slots := Vector.replicate 2 Slot.empty, spad := [], acc := [], cells := [], bindings := [], lastSlot := [],
    test := .idle, retestPending := false, testCmds := [], testArea := [], passCycle := 0, ranSince := [],
    swapPending := false, regionSaved := false }

def Cluster.reset : Cluster := { queues := [], streams := [], cache := [], xlate := [], locks := [] }

def Coord.empty : Coord := { votes := [], decisions := [], early := [], deadlineRuns := false }

def Gyle.reset : Gyle :=
  { st := .idle, cmd := none, startPending := false, cause := none, hostTime := 0, seqBegin := 0, endedTasks := [],
    digestSeen := [], decision := none, applied := none, noReplay := false, replay := false, emuOne := false,
    seeds := Vector.replicate 4 0, coord := Coord.empty, nextEpoch := none, nextDesc := [] }

def Resil.reset : Resil :=
  { block := 0, nextBlock := none, charge := 0, capture := .idle, captured := false, capGyle := 0, dataPos := 0, rack := .none
    racking := none, proof := none, interval := 0, cost := 0, gyleUs := 0, gyleTimes := [], startCycle := 0
    readyCycle := none, caskGyle := 0, jobCask := 0, nextCask := none, reports := [], waiting := none
    reading := none, drainAt := none }

/-- Descriptor bytes after reset: va_bits 38 (assumption 4) and auto_replay 1 (Table 9.8); every other byte 0. -/
def descReset : Mem := [(0x28, 38), (0x8B, 1)]

def Ctx.reset : Ctx :=
  { state := .free, halted := false, swapping := false, desc := descReset, image := none, places := [], saved := [],
    firstMap := [], lastDie := none, clusterMap := [], savedQueues := [], savedStreams := [], objects := [], nearPending := [],
    ptab := [], tabFrames := [], charges := Vector.replicate 4 0, since := 0, lastRun := 0, quantumOver := false,
    preempting := false, preemptAt := 0, gyle := Gyle.reset, health := Health.zero, fhPos := 0, gPos := 0, perfPos := 0,
    ringFailed := [], perfLost := false, perfUnread := 0, sends := [], sendNext := 0, msgs := [], msgNext := 0,
    collNext := [], resil := Resil.reset, probe := none, probeSeen := [], poolPosted := false, quotaPosted := false, stale := [], killCmd := none,
    unloadCmd := none }

def DiePool.reset : DiePool := { used := [], toZero := [], zeroed := 0, cask := [] }

def WinBody.zero : WinBody :=
  { owner := 0, target := 0, port := 0, size := 0, base := 0, spill := 0, key := 0, notify := 0, reservedZero := true }

def Window.reset : Window :=
  { state := .free, gen := 0, body := WinBody.zero, redirected := false, closeCmd := none }

def Port.reset : Port :=
  { ack := 1023, ackDue := false, nakDue := false, discarding := false, txSeq := 0, replay := [], resend := 0,
    resent := 0, sent := none, tx := Vector.replicate 4 [], credits := #v[64, 320, 320, 320], freed := Vector.replicate 4 0,
    rxFlits := Vector.replicate 4 0, part := Vector.replicate 4 none, rx := Vector.replicate 4 [], hold := [],
    counters := [], sendCounters := [] }

def Partner.reset : Partner :=
  { state := .none, ports := 0, at_ := 0, session := 0, encrypted := false, keyTx := 0, keyRx := 0 }

def Chan.reset : Chan := { owner := none, collSeq := 0, early := [], run := none }

def Queue.none_ : Queue :=
  { base := 0, entries := 0, inT1 := false, vector := 0, coalCount := 0, coalUs := 0, head := 0, tail := 0,
    phase := true, waiting := [], since := 0 }

def HostIf.reset : HostIf :=
  { queues := [], ranges := [], nextRange := 0, copies := [], nextCopy := 0, started := [], msix := [], msixMasked := [], msixPending := [], rate := 0,
    width := 0, vfs := 0, vfEnable := false, d3hot := [], perst := true, memwinData := [], replies := [], eid := 0,
    i3cAddr := none, smbus := false, spdmVersion := false, spdmKex := false, spdmSession := false, ideKeys := [], ideSecure := [] }

/-- The fuses of the model's part (assumption 5). -/
def Fuses.initial : Fuses :=
  { lifecycle := 2, vendorRoot := Vector.replicate 2 0, vendorFused := #v[true, true],
    vendorRevoked := #v[false, false], ownerRoot := 0, ownerValid := false, rollback := Vector.replicate 4 0,
    deviceSecret := 0, serial := 0, repair := [], avs := [], thermal := [], serdes := [], binM := false }

def CalCopy.initial : CalCopy := { seq := 0, good := true, entries := [] }
def DirCopy.initial : DirCopy := { seq := 0, good := true, bankB := false, testSlot := 0 }

/-- A firmware image as the model's flash holds it after manufacture (assumption 5). -/
def Signed.blank : Signed :=
  { magic := 0x42534750, version := 1, cls := 0, slot := 0, rollback := 0, wellFormed := true, digest := 0,
    edPub := 0, mlPub := [], edSig := 0, mlSig := [], payload := [] }

/-- The boot flash of the model's part (assumption 5). -/
def Flash.initial : Flash :=
  { dirs := Vector.replicate 2 DirCopy.initial, upper := none, banks := Vector.replicate 2 (some Signed.blank),
    bankBytes := Vector.replicate 2 [], hist := Vector.replicate 2 (histImage 0 0 0 0 []),
    cal := Vector.replicate 2 CalCopy.initial, packs := Vector.replicate 2 none, deviceRecord := [], stuck := false }

def Sec.reset : Sec :=
  { devState := .booting, bootStep := 0, lifecycle := 0, bankB := false, fallback := false, nonce := 0,
    verified := false, packBad := false, stuckIsland := none, updateBusy := false, entering := none, partners := [], pcache := [], admissions := [],
    aliasRecord := [], token := none, tdo := [], bootMs := 0 }

def Apply.reset : Apply :=
  { queue := [], run := none, conflicted := [], staged := [], shadows := [], aborting := [], nextSupGen := 0 }

def Ras.reset : Ras :=
  { log := [], unposted := 0, written := 0, hist := [], overlay := [], hours := 0, countHour := 0, devErrors := [],
    trayReason := 0, trayReported := false }

def DiePower.reset : DiePower :=
  { freq := 550, capLimit := 1100, thermalLimit := 1100, currentLimit := 1100, hottest := 0, vcore := 800,
    issueHold := false, duty := 16, hotDuty := Vector.replicate 4 16, power := 0, lowering := false }

def IslSt.reset : IslSt :=
  { run := .reset, freq := 0, cycle := 0, seq := 0, stretching := false, clocksStopped := false }

def Cross.reset : Cross :=
  { sendNext := 0, recvNext := 0, req := [], ack := [], pending := false, closed := false }

/-- The device as a device reset leaves it, given what survives: pins, fuses, flash and host memory (R425). -/
def Dev.afterReset (pins : Pins) (fuses : Fuses) (flash : Flash) (hostMem : Mem) (free : Nat) : Dev :=
  { free := free, pins := pins, fuses := fuses, flash := flash, sec := Sec.reset, blk := [],
    mirror := [], latch := [], islands := [], crossings := [], cores := [], clusters := [], ctxs := [], objs := [],
    nextObj := 0, pool := Vector.replicate 4 DiePool.reset, swapUsed := [], hbm := [], undef := [], hostMem := hostMem,
    windows := [], ports := [], chans := [], host := HostIf.reset, apply := Apply.reset, ras := Ras.reset,
    power := [], casks := [], stamps := [], moves := [], answer := (0, []) }

/-- The device powered, PWR_OK high, SYS_RST_N still low, start-up not begun (R420, R425). -/
def Dev.reset : Dev :=
  Dev.afterReset { pwrOk := true, rstHigh := false, thermtrip := false, ibi := 0 } Fuses.initial Flash.initial
    [] 0

/-- The machine right after reset, with no command waiting. -/
def State.reset : State := { pending := [], dev := Dev.reset }

end Sys2Proof.Machine
end

