-- ==== Sys2Proof/Machine/RegTable.lean ====
section
/-! DEFINITION. The register pages: the page map (R443), the register tables of every page type with
the access and reset value of each word (R5, R441), and the addresses of pages in the register window. -/

namespace Sys2Proof.Machine

/-- The page types (Table 16.4). -/
inductive PageKind where
  | die | power | hubCtl | cache | work | grist | coreCtl | seq | array | acc | spad
  /-- the seven engine pages of Table 4.14, by core page index 5 to 11 -/
  | engine (ix : Nat)
  | cellwin | perf | test | hbm | hbmPc | tap | island | hostif | devctl | apply | sec | sched
  | mempool | gyle | fabric | ras | resil | ctxwin | vfCtl
  deriving DecidableEq, Repr

/-- A register word of a page type: offset, name, the bits of each access code (R5; other bits are RO or
reserved) and the reset value (0 where the spec gives none, assumption 1). -/
structure RegRow where
  off : Nat
  name : String
  rw : Nat
  w1c : Nat
  wo : Nat
  st : Nat
  reset : Nat
  deriving DecidableEq, Repr

/-- Table 16.1: STAGE_GEN is the one common register with a write of its own (R450); the rest are per page. -/
def regsCommon : List RegRow := [
  ⟨0x28, "EVENT_SEQ", 0, 0, 0, 0, 0⟩,
  ⟨0x30, "STAGE_GEN", 0xffff, 0, 0, 0, 0⟩,
  ⟨0x34, "STAGE_STATE", 0, 0, 0, 0, 0⟩]

/-- Table 16.11. -/
def regsDie : List RegRow := [
  ⟨0x14, "STATUS", 0, 0, 0, 0, 0⟩,
  ⟨0x18, "ERR_STATUS", 0, 0x7, 0, 0, 0⟩,
  ⟨0x1c, "ERR_MASK", 0x7, 0, 0, 0, 0⟩,
  ⟨0x20, "ERR_FIRST", 0, 0, 0, 0, 0⟩,
  ⟨0x24, "ERR_COUNT", 0, 0, 0, 0, 0⟩,
  ⟨0x100, "ISLANDS_UP[0]", 0, 0, 0, 0, 0⟩,
  ⟨0x104, "ISLANDS_UP[1]", 0, 0, 0, 0, 0⟩,
  ⟨0x108, "RETIRED", 0, 0, 0, 0, 0⟩,
  ⟨0x10c, "SUPERVISOR_FW", 0, 0, 0, 0, 0⟩,
  ⟨0x800, "APPLIES", 0, 0, 0, 0, 0⟩,
  ⟨0x804, "APPLIES.hi", 0, 0, 0, 0, 0⟩,
  ⟨0x808, "REPAIR_APPLIES", 0, 0, 0, 0, 0⟩,
  ⟨0x80c, "REPAIR_APPLIES.hi", 0, 0, 0, 0, 0⟩]

/-- Table 17.10. -/
def regsPower : List RegRow := [
  ⟨0x14, "STATUS", 0, 0, 0, 0, 0⟩,
  ⟨0x18, "ERR_STATUS", 0, 0xf, 0, 0, 0⟩,
  ⟨0x1c, "ERR_MASK", 0xf, 0, 0, 0, 0⟩,
  ⟨0x20, "ERR_FIRST", 0, 0, 0, 0, 0⟩,
  ⟨0x24, "ERR_COUNT", 0, 0, 0, 0, 0⟩,
  ⟨0x100, "CAP", 0xfff, 0, 0, 0, 0xbb8⟩,
  ⟨0x104, "FREQ_LIMIT", 0, 0, 0, 0, 0⟩,
  ⟨0x108, "VCORE", 0, 0, 0, 0, 0x320⟩,
  ⟨0x10c, "TJ_MAX", 0, 0, 0, 0, 0⟩,
  ⟨0x110, "THROTTLE_AT", 0, 0, 0, 0, 0x64⟩,
  ⟨0x114, "DIE_POWER", 0, 0, 0, 0, 0⟩,
  ⟨0x118, "PKG_POWER", 0, 0, 0, 0, 0⟩,
  ⟨0x11c, "HBM_DUTY", 0, 0, 0, 0, 0x10⟩,
  ⟨0x800, "CAP_LIMITED_MS", 0, 0, 0, 0, 0⟩,
  ⟨0x804, "CAP_LIMITED_MS.hi", 0, 0, 0, 0, 0⟩,
  ⟨0x808, "THERMAL_LIMITED_MS", 0, 0, 0, 0, 0⟩,
  ⟨0x80c, "THERMAL_LIMITED_MS.hi", 0, 0, 0, 0, 0⟩,
  ⟨0x810, "HOLD_MS", 0, 0, 0, 0, 0⟩,
  ⟨0x814, "HOLD_MS.hi", 0, 0, 0, 0, 0⟩,
  ⟨0x818, "FREQ_CHANGES", 0, 0, 0, 0, 0⟩,
  ⟨0x81c, "FREQ_CHANGES.hi", 0, 0, 0, 0, 0⟩,
  ⟨0x820, "AVS_ERRORS", 0, 0, 0, 0, 0⟩,
  ⟨0x824, "AVS_ERRORS.hi", 0, 0, 0, 0, 0⟩]

/-- Table 16.12. -/
def regsHubCtl : List RegRow := [
  ⟨0x14, "STATUS", 0, 0, 0, 0, 0⟩,
  ⟨0x18, "ERR_STATUS", 0, 0x3, 0, 0, 0⟩,
  ⟨0x1c, "ERR_MASK", 0x3, 0, 0, 0, 0⟩,
  ⟨0x20, "ERR_FIRST", 0, 0, 0, 0, 0⟩,
  ⟨0x24, "ERR_COUNT", 0, 0, 0, 0, 0⟩,
  ⟨0x800, "HBM_READ_BYTES", 0, 0, 0, 0, 0⟩,
  ⟨0x804, "HBM_READ_BYTES.hi", 0, 0, 0, 0, 0⟩,
  ⟨0x808, "HBM_WRITE_BYTES", 0, 0, 0, 0, 0⟩,
  ⟨0x80c, "HBM_WRITE_BYTES.hi", 0, 0, 0, 0, 0⟩,
  ⟨0x810, "REMOTE_BYTES[0]", 0, 0, 0, 0, 0⟩,
  ⟨0x814, "REMOTE_BYTES[0].hi", 0, 0, 0, 0, 0⟩,
  ⟨0x818, "REMOTE_BYTES[1]", 0, 0, 0, 0, 0⟩,
  ⟨0x81c, "REMOTE_BYTES[1].hi", 0, 0, 0, 0, 0⟩,
  ⟨0x820, "REMOTE_BYTES[2]", 0, 0, 0, 0, 0⟩,
  ⟨0x824, "REMOTE_BYTES[2].hi", 0, 0, 0, 0, 0⟩,
  ⟨0x828, "REMOTE_BYTES[3]", 0, 0, 0, 0, 0⟩,
  ⟨0x82c, "REMOTE_BYTES[3].hi", 0, 0, 0, 0, 0⟩,
  ⟨0x830, "HOST_BYTES", 0, 0, 0, 0, 0⟩,
  ⟨0x834, "HOST_BYTES.hi", 0, 0, 0, 0, 0⟩,
  ⟨0x838, "LINK_WAIT_CYCLES", 0, 0, 0, 0, 0⟩,
  ⟨0x83c, "LINK_WAIT_CYCLES.hi", 0, 0, 0, 0, 0⟩]

/-- Table 7.11. -/
def regsCache : List RegRow := [
  ⟨0x14, "STATUS", 0, 0, 0, 0, 0⟩,
  ⟨0x18, "ERR_STATUS", 0, 0x1, 0, 0, 0⟩,
  ⟨0x1c, "ERR_MASK", 0x1, 0, 0, 0, 0⟩,
  ⟨0x20, "ERR_FIRST", 0, 0, 0, 0, 0⟩,
  ⟨0x24, "ERR_COUNT", 0, 0, 0, 0, 0⟩,
  ⟨0x800, "HITS", 0, 0, 0, 0, 0⟩,
  ⟨0x804, "HITS.hi", 0, 0, 0, 0, 0⟩,
  ⟨0x808, "MISSES", 0, 0, 0, 0, 0⟩,
  ⟨0x80c, "MISSES.hi", 0, 0, 0, 0, 0⟩,
  ⟨0x810, "INVALIDATIONS", 0, 0, 0, 0, 0⟩,
  ⟨0x814, "INVALIDATIONS.hi", 0, 0, 0, 0, 0⟩,
  ⟨0x818, "REFETCHED", 0, 0, 0, 0, 0⟩,
  ⟨0x81c, "REFETCHED.hi", 0, 0, 0, 0, 0⟩,
  ⟨0x820, "XLATE_MISSES", 0, 0, 0, 0, 0⟩,
  ⟨0x824, "XLATE_MISSES.hi", 0, 0, 0, 0, 0⟩]

/-- Table 5.5. -/
def regsWork : List RegRow := [
  ⟨0x14, "STATUS", 0, 0, 0, 0, 0⟩,
  ⟨0x18, "ERR_STATUS", 0, 0x3, 0, 0, 0⟩,
  ⟨0x1c, "ERR_MASK", 0x3, 0, 0, 0, 0⟩,
  ⟨0x20, "ERR_FIRST", 0, 0, 0, 0, 0⟩,
  ⟨0x24, "ERR_COUNT", 0, 0, 0, 0, 0⟩,
  ⟨0x800, "CLAIMS", 0, 0, 0, 0, 0⟩,
  ⟨0x804, "CLAIMS.hi", 0, 0, 0, 0, 0⟩,
  ⟨0x808, "STEALS", 0, 0, 0, 0, 0⟩,
  ⟨0x80c, "STEALS.hi", 0, 0, 0, 0, 0⟩,
  ⟨0x810, "AGED_STEALS", 0, 0, 0, 0, 0⟩,
  ⟨0x814, "AGED_STEALS.hi", 0, 0, 0, 0, 0⟩,
  ⟨0x818, "EXHAUSTED", 0, 0, 0, 0, 0⟩,
  ⟨0x81c, "EXHAUSTED.hi", 0, 0, 0, 0, 0⟩,
  ⟨0x820, "RETURNS", 0, 0, 0, 0, 0⟩,
  ⟨0x824, "RETURNS.hi", 0, 0, 0, 0, 0⟩,
  ⟨0x828, "STALE_COMPLETIONS", 0, 0, 0, 0, 0⟩,
  ⟨0x82c, "STALE_COMPLETIONS.hi", 0, 0, 0, 0, 0⟩,
  ⟨0x830, "REVOKED_ISSUES", 0, 0, 0, 0, 0⟩,
  ⟨0x834, "REVOKED_ISSUES.hi", 0, 0, 0, 0, 0⟩,
  ⟨0x838, "TILES_SKIPPED", 0, 0, 0, 0, 0⟩,
  ⟨0x83c, "TILES_SKIPPED.hi", 0, 0, 0, 0, 0⟩,
  ⟨0x840, "ROUNDS", 0, 0, 0, 0, 0⟩,
  ⟨0x844, "ROUNDS.hi", 0, 0, 0, 0, 0⟩]

/-- Table 7.12. -/
def regsGrist : List RegRow := [
  ⟨0x14, "STATUS", 0, 0, 0, 0, 0⟩,
  ⟨0x18, "ERR_STATUS", 0, 0x3, 0, 0, 0⟩,
  ⟨0x1c, "ERR_MASK", 0x3, 0, 0, 0, 0⟩,
  ⟨0x20, "ERR_FIRST", 0, 0, 0, 0, 0⟩,
  ⟨0x24, "ERR_COUNT", 0, 0, 0, 0, 0⟩,
  ⟨0x100, "STARVE_LIMIT", 0xffffffff, 0, 0, 0, 0x4000⟩,
  ⟨0x800, "FETCHED_BYTES", 0, 0, 0, 0, 0⟩,
  ⟨0x804, "FETCHED_BYTES.hi", 0, 0, 0, 0, 0⟩,
  ⟨0x808, "SEQUENCES", 0, 0, 0, 0, 0⟩,
  ⟨0x80c, "SEQUENCES.hi", 0, 0, 0, 0, 0⟩,
  ⟨0x810, "RELEASED", 0, 0, 0, 0, 0⟩,
  ⟨0x814, "RELEASED.hi", 0, 0, 0, 0, 0⟩,
  ⟨0x818, "GRIST_STARVE_CYCLES", 0, 0, 0, 0, 0⟩,
  ⟨0x81c, "GRIST_STARVE_CYCLES.hi", 0, 0, 0, 0, 0⟩,
  ⟨0x820, "STARVE_EVENTS", 0, 0, 0, 0, 0⟩,
  ⟨0x824, "STARVE_EVENTS.hi", 0, 0, 0, 0, 0⟩]

/-- Table 4.11. -/
def regsCoreCtl : List RegRow := [
  ⟨0x14, "STATUS", 0, 0, 0, 0, 0⟩,
  ⟨0x18, "ERR_STATUS", 0, 0, 0, 0, 0⟩,
  ⟨0x1c, "ERR_MASK", 0, 0, 0, 0, 0⟩,
  ⟨0x20, "ERR_FIRST", 0, 0, 0, 0, 0⟩,
  ⟨0x24, "ERR_COUNT", 0, 0, 0, 0, 0⟩,
  ⟨0x100, "TASK[0]", 0, 0, 0, 0, 0⟩,
  ⟨0x104, "TASK[1]", 0, 0, 0, 0, 0⟩,
  ⟨0x800, "ECC_CORRECTED", 0, 0, 0, 0, 0⟩,
  ⟨0x804, "ECC_CORRECTED.hi", 0, 0, 0, 0, 0⟩]

/-- Table 4.12. -/
def regsSeq : List RegRow := [
  ⟨0x18, "ERR_STATUS", 0, 0x7, 0, 0, 0⟩,
  ⟨0x1c, "ERR_MASK", 0x7, 0, 0, 0, 0⟩,
  ⟨0x20, "ERR_FIRST", 0, 0, 0, 0, 0⟩,
  ⟨0x24, "ERR_COUNT", 0, 0, 0, 0, 0⟩,
  ⟨0x100, "STATE[0]", 0, 0, 0, 0, 0⟩,
  ⟨0x104, "PC[0]", 0, 0, 0, 0, 0⟩,
  ⟨0x108, "FAULT[0]", 0, 0, 0, 0, 0⟩,
  ⟨0x10c, "SEM_LO[0]", 0, 0, 0, 0, 0⟩,
  ⟨0x110, "SEM_23[0]", 0, 0, 0, 0, 0⟩,
  ⟨0x114, "SEM_45[0]", 0, 0, 0, 0, 0⟩,
  ⟨0x118, "SEM_67[0]", 0, 0, 0, 0, 0⟩,
  ⟨0x140, "STATE[1]", 0, 0, 0, 0, 0⟩,
  ⟨0x144, "PC[1]", 0, 0, 0, 0, 0⟩,
  ⟨0x148, "FAULT[1]", 0, 0, 0, 0, 0⟩,
  ⟨0x14c, "SEM_LO[1]", 0, 0, 0, 0, 0⟩,
  ⟨0x150, "SEM_23[1]", 0, 0, 0, 0, 0⟩,
  ⟨0x154, "SEM_45[1]", 0, 0, 0, 0, 0⟩,
  ⟨0x158, "SEM_67[1]", 0, 0, 0, 0, 0⟩,
  ⟨0x800, "INSTRUCTIONS", 0, 0, 0, 0, 0⟩,
  ⟨0x804, "INSTRUCTIONS.hi", 0, 0, 0, 0, 0⟩,
  ⟨0x808, "WAIT_CYCLES", 0, 0, 0, 0, 0⟩,
  ⟨0x80c, "WAIT_CYCLES.hi", 0, 0, 0, 0, 0⟩,
  ⟨0x810, "YIELDS", 0, 0, 0, 0, 0⟩,
  ⟨0x814, "YIELDS.hi", 0, 0, 0, 0, 0⟩]

/-- Table 3.6. -/
def regsArray : List RegRow := [
  ⟨0x10, "CTL", 0, 0, 0, 0x1, 0⟩,
  ⟨0x14, "STATUS", 0, 0, 0, 0, 0⟩,
  ⟨0x18, "ERR_STATUS", 0, 0x3ff, 0, 0, 0⟩,
  ⟨0x1c, "ERR_MASK", 0x3ff, 0, 0, 0, 0⟩,
  ⟨0x20, "ERR_FIRST", 0, 0, 0, 0, 0x7f00⟩,
  ⟨0x24, "ERR_COUNT", 0, 0, 0, 0, 0⟩,
  ⟨0x40, "CTL_SHADOW", 0x1, 0, 0, 0, 0⟩,
  ⟨0x44, "REPAIR_SHADOW", 0, 0, 0, 0, 0⟩,
  ⟨0x100, "LATENCY", 0, 0, 0, 0, 0x80⟩,
  ⟨0x104, "REPAIR", 0, 0, 0, 0, 0x30000⟩,
  ⟨0x108, "REPAIR_DIGEST", 0, 0, 0, 0, 0⟩,
  ⟨0x800, "PASSES", 0, 0, 0, 0, 0⟩,
  ⟨0x804, "PASSES.hi", 0, 0, 0, 0, 0⟩,
  ⟨0x808, "STREAM_CYCLES", 0, 0, 0, 0, 0⟩,
  ⟨0x80c, "STREAM_CYCLES.hi", 0, 0, 0, 0, 0⟩,
  ⟨0x810, "FEEDER_DRY_CYCLES", 0, 0, 0, 0, 0⟩,
  ⟨0x814, "FEEDER_DRY_CYCLES.hi", 0, 0, 0, 0, 0⟩,
  ⟨0x818, "DRAIN_FULL_CYCLES", 0, 0, 0, 0, 0⟩,
  ⟨0x81c, "DRAIN_FULL_CYCLES.hi", 0, 0, 0, 0, 0⟩,
  ⟨0x820, "CHECKED_ROWS", 0, 0, 0, 0, 0⟩,
  ⟨0x824, "CHECKED_ROWS.hi", 0, 0, 0, 0, 0⟩,
  ⟨0x828, "UNCHECKED_ROWS", 0, 0, 0, 0, 0⟩,
  ⟨0x82c, "UNCHECKED_ROWS.hi", 0, 0, 0, 0, 0⟩,
  ⟨0x830, "CHECK_FAILS", 0, 0, 0, 0, 0⟩] ++
  [
  ⟨0x834, "CHECK_FAILS.hi", 0, 0, 0, 0, 0⟩,
  ⟨0x838, "STRIPS_SKIPPED", 0, 0, 0, 0, 0⟩,
  ⟨0x83c, "STRIPS_SKIPPED.hi", 0, 0, 0, 0, 0⟩,
  ⟨0x840, "ROWS_SKIPPED", 0, 0, 0, 0, 0⟩,
  ⟨0x844, "ROWS_SKIPPED.hi", 0, 0, 0, 0, 0⟩,
  ⟨0x848, "SPARSE_PASSES", 0, 0, 0, 0, 0⟩,
  ⟨0x84c, "SPARSE_PASSES.hi", 0, 0, 0, 0, 0⟩]

/-- Table 4.13. -/
def regsAcc : List RegRow := [
  ⟨0x18, "ERR_STATUS", 0, 0x1, 0, 0, 0⟩,
  ⟨0x1c, "ERR_MASK", 0x1, 0, 0, 0, 0⟩,
  ⟨0x20, "ERR_FIRST", 0, 0, 0, 0, 0⟩,
  ⟨0x24, "ERR_COUNT", 0, 0, 0, 0, 0⟩,
  ⟨0x100, "GRANT", 0, 0, 0, 0, 0⟩,
  ⟨0x800, "WB_WAIT_CYCLES", 0, 0, 0, 0, 0⟩,
  ⟨0x804, "WB_WAIT_CYCLES.hi", 0, 0, 0, 0, 0⟩,
  ⟨0x808, "READER_WAIT_CYCLES", 0, 0, 0, 0, 0⟩,
  ⟨0x80c, "READER_WAIT_CYCLES.hi", 0, 0, 0, 0, 0⟩]

/-- Table 4.13. -/
def regsSpad : List RegRow := [
  ⟨0x18, "ERR_STATUS", 0, 0x1, 0, 0, 0⟩,
  ⟨0x1c, "ERR_MASK", 0x1, 0, 0, 0, 0⟩,
  ⟨0x20, "ERR_FIRST", 0, 0, 0, 0, 0⟩,
  ⟨0x24, "ERR_COUNT", 0, 0, 0, 0, 0⟩,
  ⟨0x100, "BASE[0]", 0, 0, 0, 0, 0⟩,
  ⟨0x104, "BOUND[0]", 0, 0, 0, 0, 0⟩,
  ⟨0x108, "NBASE[0][1]", 0, 0, 0, 0, 0⟩,
  ⟨0x10c, "NBOUND[0][1]", 0, 0, 0, 0, 0⟩,
  ⟨0x110, "NBASE[0][2]", 0, 0, 0, 0, 0⟩,
  ⟨0x114, "NBOUND[0][2]", 0, 0, 0, 0, 0⟩,
  ⟨0x118, "NBASE[0][3]", 0, 0, 0, 0, 0⟩,
  ⟨0x11c, "NBOUND[0][3]", 0, 0, 0, 0, 0⟩,
  ⟨0x120, "NBASE[0][4]", 0, 0, 0, 0, 0⟩,
  ⟨0x124, "NBOUND[0][4]", 0, 0, 0, 0, 0⟩,
  ⟨0x140, "BASE[1]", 0, 0, 0, 0, 0⟩,
  ⟨0x144, "BOUND[1]", 0, 0, 0, 0, 0⟩,
  ⟨0x148, "NBASE[1][1]", 0, 0, 0, 0, 0⟩,
  ⟨0x14c, "NBOUND[1][1]", 0, 0, 0, 0, 0⟩,
  ⟨0x150, "NBASE[1][2]", 0, 0, 0, 0, 0⟩,
  ⟨0x154, "NBOUND[1][2]", 0, 0, 0, 0, 0⟩,
  ⟨0x158, "NBASE[1][3]", 0, 0, 0, 0, 0⟩,
  ⟨0x15c, "NBOUND[1][3]", 0, 0, 0, 0, 0⟩,
  ⟨0x160, "NBASE[1][4]", 0, 0, 0, 0, 0⟩,
  ⟨0x164, "NBOUND[1][4]", 0, 0, 0, 0, 0⟩] ++
  [
  ⟨0x800, "BANK_CONFLICT_CYCLES", 0, 0, 0, 0, 0⟩,
  ⟨0x804, "BANK_CONFLICT_CYCLES.hi", 0, 0, 0, 0, 0⟩,
  ⟨0x808, "NEIGHBOUR_ACCESSES", 0, 0, 0, 0, 0⟩,
  ⟨0x80c, "NEIGHBOUR_ACCESSES.hi", 0, 0, 0, 0, 0⟩]

/-- Table 4.14. -/
def regsEngine : List RegRow := [
  ⟨0x14, "STATUS", 0, 0, 0, 0, 0⟩,
  ⟨0x18, "ERR_STATUS", 0, 0x7, 0, 0, 0⟩,
  ⟨0x1c, "ERR_MASK", 0x7, 0, 0, 0, 0⟩,
  ⟨0x20, "ERR_FIRST", 0, 0, 0, 0, 0⟩,
  ⟨0x24, "ERR_COUNT", 0, 0, 0, 0, 0⟩,
  ⟨0x800, "DESCRIPTORS", 0, 0, 0, 0, 0⟩,
  ⟨0x804, "DESCRIPTORS.hi", 0, 0, 0, 0, 0⟩,
  ⟨0x808, "BUSY_CYCLES", 0, 0, 0, 0, 0⟩,
  ⟨0x80c, "BUSY_CYCLES.hi", 0, 0, 0, 0, 0⟩,
  ⟨0x810, "WORK", 0, 0, 0, 0, 0⟩,
  ⟨0x814, "WORK.hi", 0, 0, 0, 0, 0⟩,
  ⟨0x818, "CORRECTED", 0, 0, 0, 0, 0⟩,
  ⟨0x81c, "CORRECTED.hi", 0, 0, 0, 0, 0⟩,
  ⟨0x820, "SPECIFIC0", 0, 0, 0, 0, 0⟩,
  ⟨0x824, "SPECIFIC0.hi", 0, 0, 0, 0, 0⟩,
  ⟨0x828, "SPECIFIC1", 0, 0, 0, 0, 0⟩,
  ⟨0x82c, "SPECIFIC1.hi", 0, 0, 0, 0, 0⟩]

/-- Table 6.10. -/
def regsCellwin : List RegRow := [
  ⟨0x14, "STATUS", 0, 0, 0, 0, 0⟩,
  ⟨0x18, "ERR_STATUS", 0, 0x7f, 0, 0, 0⟩,
  ⟨0x1c, "ERR_MASK", 0x7f, 0, 0, 0, 0⟩,
  ⟨0x20, "ERR_FIRST", 0, 0, 0, 0, 0⟩,
  ⟨0x24, "ERR_COUNT", 0, 0, 0, 0, 0⟩,
  ⟨0x40, "WIN_SEL", 0x80000fff, 0, 0, 0, 0⟩,
  ⟨0x44, "WIN_DATA[0]", 0, 0, 0, 0xffffffff, 0⟩,
  ⟨0x48, "WIN_DATA[1]", 0, 0, 0, 0xffffffff, 0⟩,
  ⟨0x4c, "WIN_DATA[2]", 0, 0, 0, 0xffffffff, 0⟩,
  ⟨0x50, "WIN_DATA[3]", 0, 0, 0, 0xffffffff, 0⟩,
  ⟨0x100, "RD_SEL", 0xfff, 0, 0, 0, 0⟩,
  ⟨0x104, "RD_DATA[0]", 0, 0, 0, 0, 0⟩,
  ⟨0x108, "RD_DATA[1]", 0, 0, 0, 0, 0⟩,
  ⟨0x10c, "RD_DATA[2]", 0, 0, 0, 0, 0⟩,
  ⟨0x110, "RD_DATA[3]", 0, 0, 0, 0, 0⟩,
  ⟨0x114, "EDGE_OPEN", 0, 0, 0, 0, 0⟩,
  ⟨0x118, "OWNER", 0, 0, 0, 0, 0⟩,
  ⟨0x800, "FIRES", 0, 0, 0, 0, 0⟩,
  ⟨0x804, "FIRES.hi", 0, 0, 0, 0, 0⟩,
  ⟨0x808, "HOPS", 0, 0, 0, 0, 0⟩,
  ⟨0x80c, "HOPS.hi", 0, 0, 0, 0, 0⟩,
  ⟨0x810, "CROSSING_HOPS", 0, 0, 0, 0, 0⟩,
  ⟨0x814, "CROSSING_HOPS.hi", 0, 0, 0, 0, 0⟩,
  ⟨0x818, "CORE_PORT_TOKENS", 0, 0, 0, 0, 0⟩] ++
  [
  ⟨0x81c, "CORE_PORT_TOKENS.hi", 0, 0, 0, 0, 0⟩,
  ⟨0x820, "CREDIT_WAIT_CYCLES", 0, 0, 0, 0, 0⟩,
  ⟨0x824, "CREDIT_WAIT_CYCLES.hi", 0, 0, 0, 0, 0⟩,
  ⟨0x828, "EPOCH_STALE", 0, 0, 0, 0, 0⟩,
  ⟨0x82c, "EPOCH_STALE.hi", 0, 0, 0, 0, 0⟩,
  ⟨0x830, "ROUTE_MISS", 0, 0, 0, 0, 0⟩,
  ⟨0x834, "ROUTE_MISS.hi", 0, 0, 0, 0, 0⟩,
  ⟨0x838, "KIND_MISMATCH", 0, 0, 0, 0, 0⟩,
  ⟨0x83c, "KIND_MISMATCH.hi", 0, 0, 0, 0, 0⟩,
  ⟨0x840, "HELD_NEXT_EPOCH", 0, 0, 0, 0, 0⟩,
  ⟨0x844, "HELD_NEXT_EPOCH.hi", 0, 0, 0, 0, 0⟩,
  ⟨0x848, "FLUSHED_TOKENS", 0, 0, 0, 0, 0⟩,
  ⟨0x84c, "FLUSHED_TOKENS.hi", 0, 0, 0, 0, 0⟩]

/-- Table 6.11. -/
def regsPerf : List RegRow := [
  ⟨0x18, "ERR_STATUS", 0, 0, 0, 0, 0⟩,
  ⟨0x1c, "ERR_MASK", 0, 0, 0, 0, 0⟩,
  ⟨0x20, "ERR_FIRST", 0, 0, 0, 0, 0⟩,
  ⟨0x24, "ERR_COUNT", 0, 0, 0, 0, 0⟩,
  ⟨0x100, "MODE[0]", 0, 0, 0, 0, 0⟩,
  ⟨0x104, "DIGEST[0]", 0, 0, 0, 0, 0⟩,
  ⟨0x110, "MODE[1]", 0, 0, 0, 0, 0⟩,
  ⟨0x114, "DIGEST[1]", 0, 0, 0, 0, 0⟩,
  ⟨0x800, "EXACT_CHECKS", 0, 0, 0, 0, 0⟩,
  ⟨0x804, "EXACT_CHECKS.hi", 0, 0, 0, 0, 0⟩,
  ⟨0x808, "EXACT_MISMATCHES", 0, 0, 0, 0, 0⟩,
  ⟨0x80c, "EXACT_MISMATCHES.hi", 0, 0, 0, 0, 0⟩,
  ⟨0x810, "SAMPLES", 0, 0, 0, 0, 0⟩,
  ⟨0x814, "SAMPLES.hi", 0, 0, 0, 0, 0⟩,
  ⟨0x818, "RECORDS_LOST", 0, 0, 0, 0, 0⟩,
  ⟨0x81c, "RECORDS_LOST.hi", 0, 0, 0, 0, 0⟩,
  ⟨0x820, "HBM_STALL_CYCLES", 0, 0, 0, 0, 0⟩,
  ⟨0x824, "HBM_STALL_CYCLES.hi", 0, 0, 0, 0, 0⟩,
  ⟨0x828, "FABRIC_STALL_CYCLES", 0, 0, 0, 0, 0⟩,
  ⟨0x82c, "FABRIC_STALL_CYCLES.hi", 0, 0, 0, 0, 0⟩]

/-- Table 11.12. -/
def regsTest : List RegRow := [
  ⟨0x14, "STATUS", 0, 0, 0, 0, 0x4⟩,
  ⟨0x18, "ERR_STATUS", 0, 0x3, 0, 0, 0⟩,
  ⟨0x1c, "ERR_MASK", 0x3, 0, 0, 0, 0⟩,
  ⟨0x20, "ERR_FIRST", 0, 0, 0, 0, 0x7f00⟩,
  ⟨0x24, "ERR_COUNT", 0, 0, 0, 0, 0⟩,
  ⟨0x100, "INTERVAL", 0, 0, 0, 0, 0x258⟩,
  ⟨0x104, "SINCE_PASS", 0, 0, 0, 0, 0⟩,
  ⟨0x108, "PACK_VERSION", 0, 0, 0, 0, 0⟩,
  ⟨0x110, "DBG_SEL", 0xfffff3, 0, 0, 0, 0⟩,
  ⟨0x114, "DBG_DATA[0]", 0, 0, 0, 0, 0⟩,
  ⟨0x118, "DBG_DATA[1]", 0, 0, 0, 0, 0⟩,
  ⟨0x11c, "DBG_DATA[2]", 0, 0, 0, 0, 0⟩,
  ⟨0x120, "DBG_DATA[3]", 0, 0, 0, 0, 0⟩,
  ⟨0x800, "TESTS_RUN", 0, 0, 0, 0, 0⟩,
  ⟨0x804, "TESTS_RUN.hi", 0, 0, 0, 0, 0⟩,
  ⟨0x808, "TESTS_FAILED", 0, 0, 0, 0, 0⟩,
  ⟨0x80c, "TESTS_FAILED.hi", 0, 0, 0, 0, 0⟩,
  ⟨0x810, "INJECTIONS", 0, 0, 0, 0, 0⟩,
  ⟨0x814, "INJECTIONS.hi", 0, 0, 0, 0, 0⟩,
  ⟨0x818, "INJECT_MISSES", 0, 0, 0, 0, 0⟩,
  ⟨0x81c, "INJECT_MISSES.hi", 0, 0, 0, 0, 0⟩,
  ⟨0x820, "TEST_CYCLES", 0, 0, 0, 0, 0⟩,
  ⟨0x824, "TEST_CYCLES.hi", 0, 0, 0, 0, 0⟩]

/-- Table 7.10. -/
def regsHbm : List RegRow := [
  ⟨0x14, "STATUS", 0, 0, 0, 0, 0⟩,
  ⟨0x18, "ERR_STATUS", 0, 0x7, 0, 0, 0⟩,
  ⟨0x1c, "ERR_MASK", 0x7, 0, 0, 0, 0⟩,
  ⟨0x20, "ERR_FIRST", 0, 0, 0, 0, 0⟩,
  ⟨0x24, "ERR_COUNT", 0, 0, 0, 0, 0⟩,
  ⟨0x100, "SCRUB_PERIOD", 0xff, 0, 0, 0, 0x18⟩,
  ⟨0x104, "DATA_RATE", 0, 0, 0, 0, 0x80⟩,
  ⟨0x800, "READ_BYTES", 0, 0, 0, 0, 0⟩,
  ⟨0x804, "READ_BYTES.hi", 0, 0, 0, 0, 0⟩,
  ⟨0x808, "WRITE_BYTES", 0, 0, 0, 0, 0⟩,
  ⟨0x80c, "WRITE_BYTES.hi", 0, 0, 0, 0, 0⟩,
  ⟨0x810, "CORRECTED", 0, 0, 0, 0, 0⟩,
  ⟨0x814, "CORRECTED.hi", 0, 0, 0, 0, 0⟩,
  ⟨0x818, "UNCORRECTED", 0, 0, 0, 0, 0⟩,
  ⟨0x81c, "UNCORRECTED.hi", 0, 0, 0, 0, 0⟩,
  ⟨0x820, "SCRUB_PASSES", 0, 0, 0, 0, 0⟩,
  ⟨0x824, "SCRUB_PASSES.hi", 0, 0, 0, 0, 0⟩]

/-- R221. -/
def regsHbmPc : List RegRow := [
  ⟨0x18, "ERR_STATUS", 0, 0, 0, 0, 0⟩,
  ⟨0x1c, "ERR_MASK", 0, 0, 0, 0, 0⟩,
  ⟨0x20, "ERR_FIRST", 0, 0, 0, 0, 0⟩,
  ⟨0x24, "ERR_COUNT", 0, 0, 0, 0, 0⟩,
  ⟨0x800, "CORRECTED[0]", 0, 0, 0, 0, 0⟩,
  ⟨0x804, "CORRECTED[0].hi", 0, 0, 0, 0, 0⟩,
  ⟨0x808, "UNCORRECTED[0]", 0, 0, 0, 0, 0⟩,
  ⟨0x80c, "UNCORRECTED[0].hi", 0, 0, 0, 0, 0⟩,
  ⟨0x810, "CORRECTED[1]", 0, 0, 0, 0, 0⟩,
  ⟨0x814, "CORRECTED[1].hi", 0, 0, 0, 0, 0⟩,
  ⟨0x818, "UNCORRECTED[1]", 0, 0, 0, 0, 0⟩,
  ⟨0x81c, "UNCORRECTED[1].hi", 0, 0, 0, 0, 0⟩,
  ⟨0x820, "CORRECTED[2]", 0, 0, 0, 0, 0⟩,
  ⟨0x824, "CORRECTED[2].hi", 0, 0, 0, 0, 0⟩,
  ⟨0x828, "UNCORRECTED[2]", 0, 0, 0, 0, 0⟩,
  ⟨0x82c, "UNCORRECTED[2].hi", 0, 0, 0, 0, 0⟩,
  ⟨0x830, "CORRECTED[3]", 0, 0, 0, 0, 0⟩,
  ⟨0x834, "CORRECTED[3].hi", 0, 0, 0, 0, 0⟩,
  ⟨0x838, "UNCORRECTED[3]", 0, 0, 0, 0, 0⟩,
  ⟨0x83c, "UNCORRECTED[3].hi", 0, 0, 0, 0, 0⟩,
  ⟨0x840, "CORRECTED[4]", 0, 0, 0, 0, 0⟩,
  ⟨0x844, "CORRECTED[4].hi", 0, 0, 0, 0, 0⟩,
  ⟨0x848, "UNCORRECTED[4]", 0, 0, 0, 0, 0⟩,
  ⟨0x84c, "UNCORRECTED[4].hi", 0, 0, 0, 0, 0⟩] ++
  [
  ⟨0x850, "CORRECTED[5]", 0, 0, 0, 0, 0⟩,
  ⟨0x854, "CORRECTED[5].hi", 0, 0, 0, 0, 0⟩,
  ⟨0x858, "UNCORRECTED[5]", 0, 0, 0, 0, 0⟩,
  ⟨0x85c, "UNCORRECTED[5].hi", 0, 0, 0, 0, 0⟩,
  ⟨0x860, "CORRECTED[6]", 0, 0, 0, 0, 0⟩,
  ⟨0x864, "CORRECTED[6].hi", 0, 0, 0, 0, 0⟩,
  ⟨0x868, "UNCORRECTED[6]", 0, 0, 0, 0, 0⟩,
  ⟨0x86c, "UNCORRECTED[6].hi", 0, 0, 0, 0, 0⟩,
  ⟨0x870, "CORRECTED[7]", 0, 0, 0, 0, 0⟩,
  ⟨0x874, "CORRECTED[7].hi", 0, 0, 0, 0, 0⟩,
  ⟨0x878, "UNCORRECTED[7]", 0, 0, 0, 0, 0⟩,
  ⟨0x87c, "UNCORRECTED[7].hi", 0, 0, 0, 0, 0⟩]

/-- Table 10.11. -/
def regsTap : List RegRow := [
  ⟨0x10, "CTL", 0x1, 0, 0, 0, 0x1⟩,
  ⟨0x14, "STATUS", 0, 0, 0, 0, 0⟩,
  ⟨0x18, "ERR_STATUS", 0, 0x7, 0, 0, 0⟩,
  ⟨0x1c, "ERR_MASK", 0x7, 0, 0, 0, 0⟩,
  ⟨0x20, "ERR_FIRST", 0, 0, 0, 0, 0⟩,
  ⟨0x24, "ERR_COUNT", 0, 0, 0, 0, 0⟩,
  ⟨0x100, "RETRY_TIMEOUT", 0xffff, 0, 0, 0, 0xa⟩,
  ⟨0x104, "RETRY_LIMIT", 0xff, 0, 0, 0, 0x8⟩,
  ⟨0x800, "FLITS_TX", 0, 0, 0, 0, 0⟩,
  ⟨0x804, "FLITS_TX.hi", 0, 0, 0, 0, 0⟩,
  ⟨0x808, "FLITS_RX", 0, 0, 0, 0, 0⟩,
  ⟨0x80c, "FLITS_RX.hi", 0, 0, 0, 0, 0⟩,
  ⟨0x810, "GROUPS_REPLAYED", 0, 0, 0, 0, 0⟩,
  ⟨0x814, "GROUPS_REPLAYED.hi", 0, 0, 0, 0, 0⟩,
  ⟨0x818, "FEC_CORRECTED", 0, 0, 0, 0, 0⟩,
  ⟨0x81c, "FEC_CORRECTED.hi", 0, 0, 0, 0, 0⟩,
  ⟨0x820, "BAD_GROUPS", 0, 0, 0, 0, 0⟩,
  ⟨0x824, "BAD_GROUPS.hi", 0, 0, 0, 0, 0⟩,
  ⟨0x828, "NACKS_SENT", 0, 0, 0, 0, 0⟩,
  ⟨0x82c, "NACKS_SENT.hi", 0, 0, 0, 0, 0⟩,
  ⟨0x830, "NACKS_RECEIVED", 0, 0, 0, 0, 0⟩,
  ⟨0x834, "NACKS_RECEIVED.hi", 0, 0, 0, 0, 0⟩,
  ⟨0x838, "ACK_MAX", 0, 0, 0, 0, 0⟩,
  ⟨0x83c, "ACK_MAX.hi", 0, 0, 0, 0, 0⟩] ++
  [
  ⟨0x840, "UNKNOWN_TYPES", 0, 0, 0, 0, 0⟩,
  ⟨0x844, "UNKNOWN_TYPES.hi", 0, 0, 0, 0, 0⟩,
  ⟨0x848, "LINK_DOWNS", 0, 0, 0, 0, 0⟩,
  ⟨0x84c, "LINK_DOWNS.hi", 0, 0, 0, 0, 0⟩]

/-- Table 13.7. -/
def regsIsland : List RegRow := [
  ⟨0x14, "STATUS", 0, 0, 0, 0, 0⟩,
  ⟨0x18, "ERR_STATUS", 0, 0x7, 0, 0, 0⟩,
  ⟨0x1c, "ERR_MASK", 0x7, 0, 0, 0, 0⟩,
  ⟨0x20, "ERR_FIRST", 0, 0, 0, 0, 0⟩,
  ⟨0x24, "ERR_COUNT", 0, 0, 0, 0, 0⟩,
  ⟨0x100, "FREQ", 0, 0, 0, 0, 0⟩,
  ⟨0x108, "CYCLE", 0, 0, 0, 0, 0⟩,
  ⟨0x10c, "CYCLE.hi", 0, 0, 0, 0, 0⟩,
  ⟨0x110, "SEQUENCE", 0, 0, 0, 0, 0⟩,
  ⟨0x114, "SEQUENCE.hi", 0, 0, 0, 0, 0⟩,
  ⟨0x800, "TRANSFERS_OUT", 0, 0, 0, 0, 0⟩,
  ⟨0x804, "TRANSFERS_OUT.hi", 0, 0, 0, 0, 0⟩,
  ⟨0x808, "TRANSFERS_IN", 0, 0, 0, 0, 0⟩,
  ⟨0x80c, "TRANSFERS_IN.hi", 0, 0, 0, 0, 0⟩,
  ⟨0x810, "EVENTS_MERGED", 0, 0, 0, 0, 0⟩,
  ⟨0x814, "EVENTS_MERGED.hi", 0, 0, 0, 0, 0⟩,
  ⟨0x818, "DROOP_EVENTS", 0, 0, 0, 0, 0⟩,
  ⟨0x81c, "DROOP_EVENTS.hi", 0, 0, 0, 0, 0⟩,
  ⟨0x820, "STRETCHED_CYCLES", 0, 0, 0, 0, 0⟩,
  ⟨0x824, "STRETCHED_CYCLES.hi", 0, 0, 0, 0, 0⟩,
  ⟨0x828, "DIGEST_PASSES", 0, 0, 0, 0, 0⟩,
  ⟨0x82c, "DIGEST_PASSES.hi", 0, 0, 0, 0, 0⟩,
  ⟨0x830, "LINK_RETRIES", 0, 0, 0, 0, 0⟩,
  ⟨0x834, "LINK_RETRIES.hi", 0, 0, 0, 0, 0⟩]

/-- Table 14.7. -/
def regsHostif : List RegRow := [
  ⟨0x14, "STATUS", 0, 0, 0, 0, 0⟩,
  ⟨0x18, "ERR_STATUS", 0, 0x1f, 0, 0, 0⟩,
  ⟨0x1c, "ERR_MASK", 0x1f, 0, 0, 0, 0⟩,
  ⟨0x20, "ERR_FIRST", 0, 0, 0, 0, 0⟩,
  ⟨0x24, "ERR_COUNT", 0, 0, 0, 0, 0⟩,
  ⟨0x200, "ADMIN_SQ_BASE", 0xffffffff, 0, 0, 0, 0⟩,
  ⟨0x204, "ADMIN_SQ_BASE.hi", 0xffffffff, 0, 0, 0, 0⟩,
  ⟨0x208, "ADMIN_CQ_BASE", 0xffffffff, 0, 0, 0, 0⟩,
  ⟨0x20c, "ADMIN_CQ_BASE.hi", 0xffffffff, 0, 0, 0, 0⟩,
  ⟨0x210, "ADMIN_EQ_BASE", 0xffffffff, 0, 0, 0, 0⟩,
  ⟨0x214, "ADMIN_EQ_BASE.hi", 0xffffffff, 0, 0, 0, 0⟩,
  ⟨0x218, "ADMIN_SIZES", 0xf0f0f, 0, 0, 0, 0⟩,
  ⟨0x21c, "ADMIN_VECTOR", 0x7ff, 0, 0, 0, 0⟩,
  ⟨0x300, "MEMWIN_CTX", 0x800003ff, 0, 0, 0, 0⟩,
  ⟨0x30c, "MEMWIN_BASE.hi", 0xfff0, 0, 0, 0, 0⟩,
  ⟨0x800, "MIRROR_READS", 0, 0, 0, 0, 0⟩,
  ⟨0x804, "MIRROR_READS.hi", 0, 0, 0, 0, 0⟩,
  ⟨0x808, "READ_MAX", 0, 0, 0, 0, 0⟩,
  ⟨0x80c, "READ_MAX.hi", 0, 0, 0, 0, 0⟩,
  ⟨0x810, "BAD_ACCESSES", 0, 0, 0, 0, 0⟩,
  ⟨0x814, "BAD_ACCESSES.hi", 0, 0, 0, 0, 0⟩,
  ⟨0x818, "DOORBELLS", 0, 0, 0, 0, 0⟩,
  ⟨0x81c, "DOORBELLS.hi", 0, 0, 0, 0, 0⟩,
  ⟨0x820, "CQ_STALL_CYCLES", 0, 0, 0, 0, 0⟩] ++
  [
  ⟨0x824, "CQ_STALL_CYCLES.hi", 0, 0, 0, 0, 0⟩,
  ⟨0x828, "MEMWIN_INVALID", 0, 0, 0, 0, 0⟩,
  ⟨0x82c, "MEMWIN_INVALID.hi", 0, 0, 0, 0, 0⟩,
  ⟨0x830, "COPY_BYTES", 0, 0, 0, 0, 0⟩,
  ⟨0x834, "COPY_BYTES.hi", 0, 0, 0, 0, 0⟩,
  ⟨0x838, "CPL_TIMEOUTS", 0, 0, 0, 0, 0⟩,
  ⟨0x83c, "CPL_TIMEOUTS.hi", 0, 0, 0, 0, 0⟩,
  ⟨0x840, "SIDEBAND_READS", 0, 0, 0, 0, 0⟩,
  ⟨0x844, "SIDEBAND_READS.hi", 0, 0, 0, 0, 0⟩]

/-- Table 16.13. -/
def regsDevctl : List RegRow := [
  ⟨0x14, "STATUS", 0, 0, 0, 0, 0⟩,
  ⟨0x18, "ERR_STATUS", 0, 0, 0, 0, 0⟩,
  ⟨0x1c, "ERR_MASK", 0, 0, 0, 0, 0⟩,
  ⟨0x20, "ERR_FIRST", 0, 0, 0, 0, 0⟩,
  ⟨0x24, "ERR_COUNT", 0, 0, 0, 0, 0⟩,
  ⟨0x100, "PART", 0, 0, 0, 0, 0xb000⟩,
  ⟨0x104, "SERIAL", 0, 0, 0, 0, 0⟩,
  ⟨0x108, "SERIAL.hi", 0, 0, 0, 0, 0⟩,
  ⟨0x10c, "FW_VERSION", 0, 0, 0, 0, 0⟩,
  ⟨0x110, "CORES_IN_SERVICE", 0, 0, 0, 0, 0⟩,
  ⟨0x114, "CONTEXTS_USED", 0, 0, 0, 0, 0⟩,
  ⟨0x800, "EVENTS_POSTED", 0, 0, 0, 0, 0⟩,
  ⟨0x804, "EVENTS_POSTED.hi", 0, 0, 0, 0, 0⟩]

/-- Table 16.14. -/
def regsApply : List RegRow := [
  ⟨0x14, "STATUS", 0, 0, 0, 0, 0⟩,
  ⟨0x18, "ERR_STATUS", 0, 0x3, 0, 0, 0⟩,
  ⟨0x1c, "ERR_MASK", 0x3, 0, 0, 0, 0⟩,
  ⟨0x20, "ERR_FIRST", 0, 0, 0, 0, 0⟩,
  ⟨0x24, "ERR_COUNT", 0, 0, 0, 0, 0⟩,
  ⟨0x100, "REQUEST", 0, 0, 0x8000ffff, 0, 0⟩,
  ⟨0x104, "DISCARD", 0, 0, 0x8000ffff, 0, 0⟩,
  ⟨0x108, "RESULT", 0, 0, 0, 0, 0⟩,
  ⟨0x10c, "EPOCH", 0, 0, 0, 0, 0⟩,
  ⟨0x110, "APPLY_TIMEOUT", 0xffffffff, 0, 0, 0, 0xc8⟩,
  ⟨0x114, "DRAIN_TIMEOUT", 0xffffffff, 0, 0, 0, 0x64⟩,
  ⟨0x118, "FAIL_ISLAND", 0, 0, 0, 0, 0⟩,
  ⟨0x800, "APPLIES", 0, 0, 0, 0, 0⟩,
  ⟨0x804, "APPLIES.hi", 0, 0, 0, 0, 0⟩,
  ⟨0x808, "REVERTS", 0, 0, 0, 0, 0⟩,
  ⟨0x80c, "REVERTS.hi", 0, 0, 0, 0, 0⟩,
  ⟨0x810, "DRAIN_TIMEOUTS", 0, 0, 0, 0, 0⟩,
  ⟨0x814, "DRAIN_TIMEOUTS.hi", 0, 0, 0, 0, 0⟩,
  ⟨0x818, "IGNORED_WRITES", 0, 0, 0, 0, 0⟩,
  ⟨0x81c, "IGNORED_WRITES.hi", 0, 0, 0, 0, 0⟩,
  ⟨0x820, "CONFLICTS", 0, 0, 0, 0, 0⟩,
  ⟨0x824, "CONFLICTS.hi", 0, 0, 0, 0, 0⟩,
  ⟨0x828, "APPLY_MAX", 0, 0, 0, 0, 0⟩,
  ⟨0x82c, "APPLY_MAX.hi", 0, 0, 0, 0, 0⟩]

/-- Table 15.12. -/
def regsSec : List RegRow := [
  ⟨0x14, "STATUS", 0, 0, 0, 0, 0⟩,
  ⟨0x18, "ERR_STATUS", 0, 0xf, 0, 0, 0⟩,
  ⟨0x1c, "ERR_MASK", 0xf, 0, 0, 0, 0⟩,
  ⟨0x20, "ERR_FIRST", 0, 0, 0, 0, 0⟩,
  ⟨0x24, "ERR_COUNT", 0, 0, 0, 0, 0⟩,
  ⟨0x100, "ROLLBACK", 0, 0, 0, 0, 0⟩,
  ⟨0x104, "BOOT_TIME", 0, 0, 0, 0, 0⟩,
  ⟨0x110, "BOOT_NONCE[0]", 0, 0, 0, 0, 0⟩,
  ⟨0x114, "BOOT_NONCE[1]", 0, 0, 0, 0, 0⟩,
  ⟨0x118, "BOOT_NONCE[2]", 0, 0, 0, 0, 0⟩,
  ⟨0x11c, "BOOT_NONCE[3]", 0, 0, 0, 0, 0⟩,
  ⟨0x120, "BOOT_NONCE[4]", 0, 0, 0, 0, 0⟩,
  ⟨0x124, "BOOT_NONCE[5]", 0, 0, 0, 0, 0⟩,
  ⟨0x128, "BOOT_NONCE[6]", 0, 0, 0, 0, 0⟩,
  ⟨0x12c, "BOOT_NONCE[7]", 0, 0, 0, 0, 0⟩,
  ⟨0x130, "TOKEN_ADDR", 0xffffffff, 0, 0, 0, 0⟩,
  ⟨0x134, "TOKEN_ADDR.hi", 0xffffffff, 0, 0, 0, 0⟩,
  ⟨0x138, "TOKEN_CTL", 0, 0, 0x80003fff, 0, 0⟩,
  ⟨0x140, "ADMIT_REQ", 0, 0, 0x9fffffff, 0, 0⟩,
  ⟨0x144, "ADMIT_POLICY", 0x3, 0, 0, 0, 0⟩,
  ⟨0x148, "REVOKE", 0, 0, 0x80ffffff, 0, 0⟩,
  ⟨0x14c, "ADMIT_TIMEOUT", 0xffff, 0, 0, 0, 0x64⟩,
  ⟨0x800, "ADMISSIONS", 0, 0, 0, 0, 0⟩,
  ⟨0x804, "ADMISSIONS.hi", 0, 0, 0, 0, 0⟩] ++
  [
  ⟨0x808, "ADMIT_FAILURES", 0, 0, 0, 0, 0⟩,
  ⟨0x80c, "ADMIT_FAILURES.hi", 0, 0, 0, 0, 0⟩,
  ⟨0x810, "DECRYPT_FAILS", 0, 0, 0, 0, 0⟩,
  ⟨0x814, "DECRYPT_FAILS.hi", 0, 0, 0, 0, 0⟩,
  ⟨0x818, "TOKENS_ACCEPTED", 0, 0, 0, 0, 0⟩,
  ⟨0x81c, "TOKENS_ACCEPTED.hi", 0, 0, 0, 0, 0⟩,
  ⟨0x820, "TOKENS_REFUSED", 0, 0, 0, 0, 0⟩,
  ⟨0x824, "TOKENS_REFUSED.hi", 0, 0, 0, 0, 0⟩,
  ⟨0x828, "SPDM_SESSIONS", 0, 0, 0, 0, 0⟩,
  ⟨0x82c, "SPDM_SESSIONS.hi", 0, 0, 0, 0, 0⟩]

/-- Table 8.6. -/
def regsSched : List RegRow := [
  ⟨0x14, "STATUS", 0, 0, 0, 0, 0⟩,
  ⟨0x18, "ERR_STATUS", 0, 0x7, 0, 0, 0⟩,
  ⟨0x1c, "ERR_MASK", 0x7, 0, 0, 0, 0⟩,
  ⟨0x20, "ERR_FIRST", 0, 0, 0, 0, 0⟩,
  ⟨0x24, "ERR_COUNT", 0, 0, 0, 0, 0⟩,
  ⟨0x100, "QUANTUM", 0xffffffff, 0, 0, 0, 0x7d0⟩,
  ⟨0x104, "PREEMPT_LIMIT", 0xffffffff, 0, 0, 0, 0x64⟩,
  ⟨0x108, "SWAP_RESERVE", 0, 0, 0, 0xff, 0x10⟩,
  ⟨0x10c, "SWAP_SHARE", 0x1f, 0, 0, 0, 0x4⟩,
  ⟨0x800, "PREEMPTIONS", 0, 0, 0, 0, 0⟩,
  ⟨0x804, "PREEMPTIONS.hi", 0, 0, 0, 0, 0⟩,
  ⟨0x808, "YIELD_MAX", 0, 0, 0, 0, 0⟩,
  ⟨0x80c, "YIELD_MAX.hi", 0, 0, 0, 0, 0⟩,
  ⟨0x810, "SWAPS_OUT", 0, 0, 0, 0, 0⟩,
  ⟨0x814, "SWAPS_OUT.hi", 0, 0, 0, 0, 0⟩,
  ⟨0x818, "SWAPS_IN", 0, 0, 0, 0, 0⟩,
  ⟨0x81c, "SWAPS_IN.hi", 0, 0, 0, 0, 0⟩,
  ⟨0x820, "KILLS", 0, 0, 0, 0, 0⟩,
  ⟨0x824, "KILLS.hi", 0, 0, 0, 0, 0⟩,
  ⟨0x828, "DEFERRALS", 0, 0, 0, 0, 0⟩,
  ⟨0x82c, "DEFERRALS.hi", 0, 0, 0, 0, 0⟩,
  ⟨0x830, "OVERRUNS", 0, 0, 0, 0, 0⟩,
  ⟨0x834, "OVERRUNS.hi", 0, 0, 0, 0, 0⟩]

/-- Table 7.13. -/
def regsMempool : List RegRow := [
  ⟨0x14, "STATUS", 0, 0, 0, 0, 0⟩,
  ⟨0x18, "ERR_STATUS", 0, 0x1, 0, 0, 0⟩,
  ⟨0x1c, "ERR_MASK", 0x1, 0, 0, 0, 0⟩,
  ⟨0x20, "ERR_FIRST", 0, 0, 0, 0, 0⟩,
  ⟨0x24, "ERR_COUNT", 0, 0, 0, 0, 0⟩,
  ⟨0x100, "CASK_RESERVE", 0, 0, 0, 0x1ff, 0x80⟩,
  ⟨0x104, "STACKS", 0, 0, 0, 0, 0⟩,
  ⟨0x108, "POOL_CAPACITY", 0, 0, 0, 0, 0x30000⟩,
  ⟨0x10c, "POOL_FREE", 0, 0, 0, 0, 0⟩,
  ⟨0x110, "CASK_HELD", 0, 0, 0, 0, 0⟩,
  ⟨0x800, "T1_USED", 0, 0, 0, 0, 0⟩,
  ⟨0x804, "T1_USED.hi", 0, 0, 0, 0, 0⟩,
  ⟨0x808, "T2_USED", 0, 0, 0, 0, 0⟩,
  ⟨0x80c, "T2_USED.hi", 0, 0, 0, 0, 0⟩]

/-- Table 9.10. -/
def regsGyle : List RegRow := [
  ⟨0x14, "STATUS", 0, 0, 0, 0, 0⟩,
  ⟨0x18, "ERR_STATUS", 0, 0x7, 0, 0, 0⟩,
  ⟨0x1c, "ERR_MASK", 0x7, 0, 0, 0, 0⟩,
  ⟨0x20, "ERR_FIRST", 0, 0, 0, 0, 0⟩,
  ⟨0x24, "ERR_COUNT", 0, 0, 0, 0, 0⟩,
  ⟨0x800, "COMMITS", 0, 0, 0, 0, 0⟩,
  ⟨0x804, "COMMITS.hi", 0, 0, 0, 0, 0⟩,
  ⟨0x808, "ABORTS", 0, 0, 0, 0, 0⟩,
  ⟨0x80c, "ABORTS.hi", 0, 0, 0, 0, 0⟩,
  ⟨0x810, "REPLAYS", 0, 0, 0, 0, 0⟩,
  ⟨0x814, "REPLAYS.hi", 0, 0, 0, 0, 0⟩,
  ⟨0x818, "VOTES_RECORDED", 0, 0, 0, 0, 0⟩,
  ⟨0x81c, "VOTES_RECORDED.hi", 0, 0, 0, 0, 0⟩,
  ⟨0x820, "DEADLINE_ABORTS", 0, 0, 0, 0, 0⟩,
  ⟨0x824, "DEADLINE_ABORTS.hi", 0, 0, 0, 0, 0⟩,
  ⟨0x828, "DEADLINE_TIES", 0, 0, 0, 0, 0⟩,
  ⟨0x82c, "DEADLINE_TIES.hi", 0, 0, 0, 0, 0⟩,
  ⟨0x830, "STALE_VOTES", 0, 0, 0, 0, 0⟩,
  ⟨0x834, "STALE_VOTES.hi", 0, 0, 0, 0, 0⟩,
  ⟨0x838, "STALE_DECISIONS", 0, 0, 0, 0, 0⟩,
  ⟨0x83c, "STALE_DECISIONS.hi", 0, 0, 0, 0, 0⟩,
  ⟨0x840, "DECISION_UNEXPECTED", 0, 0, 0, 0, 0⟩,
  ⟨0x844, "DECISION_UNEXPECTED.hi", 0, 0, 0, 0, 0⟩,
  ⟨0x848, "PAGES_FLIPPED", 0, 0, 0, 0, 0⟩] ++
  [
  ⟨0x84c, "PAGES_FLIPPED.hi", 0, 0, 0, 0, 0⟩,
  ⟨0x850, "LOG_BLOCKS_RESTORED", 0, 0, 0, 0, 0⟩,
  ⟨0x854, "LOG_BLOCKS_RESTORED.hi", 0, 0, 0, 0, 0⟩,
  ⟨0x858, "HOST_WRITES_DROPPED", 0, 0, 0, 0, 0⟩,
  ⟨0x85c, "HOST_WRITES_DROPPED.hi", 0, 0, 0, 0, 0⟩,
  ⟨0x860, "RECORDS_SKIPPED", 0, 0, 0, 0, 0⟩,
  ⟨0x864, "RECORDS_SKIPPED.hi", 0, 0, 0, 0, 0⟩]

/-- Table 10.12. -/
def regsFabric : List RegRow := [
  ⟨0x14, "STATUS", 0, 0, 0, 0, 0⟩,
  ⟨0x18, "ERR_STATUS", 0, 0x3, 0, 0, 0⟩,
  ⟨0x1c, "ERR_MASK", 0x3, 0, 0, 0, 0⟩,
  ⟨0x20, "ERR_FIRST", 0, 0, 0, 0, 0⟩,
  ⟨0x24, "ERR_COUNT", 0, 0, 0, 0, 0⟩,
  ⟨0x100, "SELF_ID", 0, 0, 0, 0xffffff, 0⟩,
  ⟨0x108, "CHANNELS_BUSY", 0, 0, 0, 0, 0⟩,
  ⟨0x10c, "CHANNELS_BUSY.hi", 0, 0, 0, 0, 0⟩,
  ⟨0x800, "PCACHE_HITS", 0, 0, 0, 0, 0⟩,
  ⟨0x804, "PCACHE_HITS.hi", 0, 0, 0, 0, 0⟩,
  ⟨0x808, "PCACHE_MISSES", 0, 0, 0, 0, 0⟩,
  ⟨0x80c, "PCACHE_MISSES.hi", 0, 0, 0, 0, 0⟩,
  ⟨0x810, "PARTNER_DROPS", 0, 0, 0, 0, 0⟩,
  ⟨0x814, "PARTNER_DROPS.hi", 0, 0, 0, 0, 0⟩,
  ⟨0x818, "WINDOW_NACKS", 0, 0, 0, 0, 0⟩,
  ⟨0x81c, "WINDOW_NACKS.hi", 0, 0, 0, 0, 0⟩,
  ⟨0x820, "COLLECTIVES", 0, 0, 0, 0, 0⟩,
  ⟨0x824, "COLLECTIVES.hi", 0, 0, 0, 0, 0⟩,
  ⟨0x828, "DEADLINE_FAILS", 0, 0, 0, 0, 0⟩,
  ⟨0x82c, "DEADLINE_FAILS.hi", 0, 0, 0, 0, 0⟩,
  ⟨0x830, "DEADLINE_TIES", 0, 0, 0, 0, 0⟩,
  ⟨0x834, "DEADLINE_TIES.hi", 0, 0, 0, 0, 0⟩,
  ⟨0x838, "STALE_MESSAGES", 0, 0, 0, 0, 0⟩,
  ⟨0x83c, "STALE_MESSAGES.hi", 0, 0, 0, 0, 0⟩]

/-- Table 11.13. -/
def regsRas : List RegRow := [
  ⟨0x14, "STATUS", 0, 0, 0, 0, 0⟩,
  ⟨0x18, "ERR_STATUS", 0, 0x3, 0, 0, 0⟩,
  ⟨0x1c, "ERR_MASK", 0x3, 0, 0, 0, 0⟩,
  ⟨0x20, "ERR_FIRST", 0, 0, 0, 0, 0⟩,
  ⟨0x24, "ERR_COUNT", 0, 0, 0, 0, 0⟩,
  ⟨0x100, "LOG_HEAD", 0, 0, 0, 0, 0⟩,
  ⟨0x104, "LOG_SEL", 0x1ff, 0, 0, 0, 0⟩,
  ⟨0x108, "LOG_DATA[0]", 0, 0, 0, 0, 0⟩,
  ⟨0x10c, "LOG_DATA[1]", 0, 0, 0, 0, 0⟩,
  ⟨0x110, "LOG_DATA[2]", 0, 0, 0, 0, 0⟩,
  ⟨0x114, "LOG_DATA[3]", 0, 0, 0, 0, 0⟩,
  ⟨0x118, "LOG_DATA[4]", 0, 0, 0, 0, 0⟩,
  ⟨0x11c, "LOG_DATA[5]", 0, 0, 0, 0, 0⟩,
  ⟨0x120, "LOG_DATA[6]", 0, 0, 0, 0, 0⟩,
  ⟨0x124, "LOG_DATA[7]", 0, 0, 0, 0, 0⟩,
  ⟨0x128, "LOG_DATA[8]", 0, 0, 0, 0, 0⟩,
  ⟨0x12c, "LOG_DATA[9]", 0, 0, 0, 0, 0⟩,
  ⟨0x130, "LOG_DATA[10]", 0, 0, 0, 0, 0⟩,
  ⟨0x134, "LOG_DATA[11]", 0, 0, 0, 0, 0⟩,
  ⟨0x138, "LOG_DATA[12]", 0, 0, 0, 0, 0⟩,
  ⟨0x13c, "LOG_DATA[13]", 0, 0, 0, 0, 0⟩,
  ⟨0x140, "LOG_DATA[14]", 0, 0, 0, 0, 0⟩,
  ⟨0x144, "LOG_DATA[15]", 0, 0, 0, 0, 0⟩,
  ⟨0x180, "OP_HOURS", 0, 0, 0, 0, 0⟩] ++
  [
  ⟨0x184, "OBS_WINDOW", 0xffff, 0, 0, 0, 0x18⟩,
  ⟨0x188, "RETIRE_WINDOW", 0xffff, 0, 0, 0, 0x2d0⟩,
  ⟨0x18c, "TRAY_REASON", 0, 0, 0, 0, 0⟩,
  ⟨0x800, "CORRECTED", 0, 0, 0, 0, 0⟩,
  ⟨0x804, "CORRECTED.hi", 0, 0, 0, 0, 0⟩,
  ⟨0x808, "GYLE_ERRORS", 0, 0, 0, 0, 0⟩,
  ⟨0x80c, "GYLE_ERRORS.hi", 0, 0, 0, 0, 0⟩,
  ⟨0x810, "CONTEXT_ERRORS", 0, 0, 0, 0, 0⟩,
  ⟨0x814, "CONTEXT_ERRORS.hi", 0, 0, 0, 0, 0⟩,
  ⟨0x818, "DEVICE_ERRORS", 0, 0, 0, 0, 0⟩,
  ⟨0x81c, "DEVICE_ERRORS.hi", 0, 0, 0, 0, 0⟩,
  ⟨0x820, "COALESCED", 0, 0, 0, 0, 0⟩,
  ⟨0x824, "COALESCED.hi", 0, 0, 0, 0, 0⟩,
  ⟨0x828, "RECORDS_LOST", 0, 0, 0, 0, 0⟩,
  ⟨0x82c, "RECORDS_LOST.hi", 0, 0, 0, 0, 0⟩]

/-- Table 12.8. -/
def regsResil : List RegRow := [
  ⟨0x14, "STATUS", 0, 0, 0, 0, 0⟩,
  ⟨0x18, "ERR_STATUS", 0, 0xf, 0, 0, 0⟩,
  ⟨0x1c, "ERR_MASK", 0xf, 0, 0, 0, 0⟩,
  ⟨0x20, "ERR_FIRST", 0, 0, 0, 0, 0⟩,
  ⟨0x24, "ERR_COUNT", 0, 0, 0, 0, 0⟩,
  ⟨0x100, "CASK_SHARE", 0x1f, 0, 0, 0, 0x2⟩,
  ⟨0x104, "CAPTURE_SHARE", 0x1f, 0, 0, 0, 0x4⟩,
  ⟨0x108, "CTX_SEL", 0x3ff, 0, 0, 0, 0⟩,
  ⟨0x10c, "CTX_STATE", 0, 0, 0, 0, 0⟩,
  ⟨0x110, "CTX_INTERVAL", 0, 0, 0, 0, 0⟩,
  ⟨0x114, "CTX_COST", 0, 0, 0, 0, 0⟩,
  ⟨0x118, "CTX_GYLE_US", 0, 0, 0, 0, 0⟩,
  ⟨0x120, "CTX_CASK_GYLE", 0, 0, 0, 0, 0⟩,
  ⟨0x124, "CTX_CASK_GYLE.hi", 0, 0, 0, 0, 0⟩,
  ⟨0x128, "CTX_JOB_CASK", 0, 0, 0, 0, 0⟩,
  ⟨0x12c, "CTX_JOB_CASK.hi", 0, 0, 0, 0, 0⟩,
  ⟨0x800, "CASKS", 0, 0, 0, 0, 0⟩,
  ⟨0x804, "CASKS.hi", 0, 0, 0, 0, 0⟩,
  ⟨0x808, "CASK_BYTES", 0, 0, 0, 0, 0⟩,
  ⟨0x80c, "CASK_BYTES.hi", 0, 0, 0, 0, 0⟩,
  ⟨0x810, "CASKS_DEFERRED", 0, 0, 0, 0, 0⟩,
  ⟨0x814, "CASKS_DEFERRED.hi", 0, 0, 0, 0, 0⟩,
  ⟨0x818, "CASKS_MISSED", 0, 0, 0, 0, 0⟩,
  ⟨0x81c, "CASKS_MISSED.hi", 0, 0, 0, 0, 0⟩] ++
  [
  ⟨0x820, "EXPORTS", 0, 0, 0, 0, 0⟩,
  ⟨0x824, "EXPORTS.hi", 0, 0, 0, 0, 0⟩,
  ⟨0x828, "RESTORES", 0, 0, 0, 0, 0⟩,
  ⟨0x82c, "RESTORES.hi", 0, 0, 0, 0, 0⟩,
  ⟨0x830, "RESTORE_FAILS", 0, 0, 0, 0, 0⟩,
  ⟨0x834, "RESTORE_FAILS.hi", 0, 0, 0, 0, 0⟩,
  ⟨0x838, "PROOF_FAILS", 0, 0, 0, 0, 0⟩,
  ⟨0x83c, "PROOF_FAILS.hi", 0, 0, 0, 0, 0⟩,
  ⟨0x840, "RACKS", 0, 0, 0, 0, 0⟩,
  ⟨0x844, "RACKS.hi", 0, 0, 0, 0, 0⟩,
  ⟨0x848, "RACKS_ABANDONED", 0, 0, 0, 0, 0⟩,
  ⟨0x84c, "RACKS_ABANDONED.hi", 0, 0, 0, 0, 0⟩,
  ⟨0x850, "RACK_BYTES", 0, 0, 0, 0, 0⟩,
  ⟨0x854, "RACK_BYTES.hi", 0, 0, 0, 0, 0⟩,
  ⟨0x858, "RACK_REFUSED", 0, 0, 0, 0, 0⟩,
  ⟨0x85c, "RACK_REFUSED.hi", 0, 0, 0, 0, 0⟩]

/-- Table 16.15. -/
def regsCtxwin : List RegRow := [
  ⟨0x18, "ERR_STATUS", 0, 0, 0, 0, 0⟩,
  ⟨0x1c, "ERR_MASK", 0, 0, 0, 0, 0⟩,
  ⟨0x20, "ERR_FIRST", 0, 0, 0, 0, 0⟩,
  ⟨0x24, "ERR_COUNT", 0, 0, 0, 0, 0⟩,
  ⟨0x100, "CTX_SEL", 0x3ff, 0, 0, 0, 0⟩]

/-- R408. -/
def regsVfCtl : List RegRow := [
  ⟨0x200, "ADMIN_SQ_BASE", 0xffffffff, 0, 0, 0, 0⟩,
  ⟨0x204, "ADMIN_SQ_BASE.hi", 0xffffffff, 0, 0, 0, 0⟩,
  ⟨0x208, "ADMIN_CQ_BASE", 0xffffffff, 0, 0, 0, 0⟩,
  ⟨0x20c, "ADMIN_CQ_BASE.hi", 0xffffffff, 0, 0, 0, 0⟩,
  ⟨0x210, "ADMIN_EQ_BASE", 0xffffffff, 0, 0, 0, 0⟩,
  ⟨0x214, "ADMIN_EQ_BASE.hi", 0xffffffff, 0, 0, 0, 0⟩,
  ⟨0x218, "ADMIN_SIZES", 0xf0f0f, 0, 0, 0, 0⟩,
  ⟨0x21c, "ADMIN_VECTOR", 0x7ff, 0, 0, 0, 0⟩]

/-- The register words of a page type; STAGE_GEN and STAGE_STATE are on every page. -/
def PageKind.regs : PageKind → List RegRow
  | .die => regsCommon ++ regsDie
  | .power => regsCommon ++ regsPower
  | .hubCtl => regsCommon ++ regsHubCtl
  | .cache => regsCommon ++ regsCache
  | .work => regsCommon ++ regsWork
  | .grist => regsCommon ++ regsGrist
  | .coreCtl => regsCommon ++ regsCoreCtl
  | .seq => regsCommon ++ regsSeq
  | .array => regsCommon ++ regsArray
  | .acc => regsCommon ++ regsAcc
  | .spad => regsCommon ++ regsSpad
  | .engine _ => regsCommon ++ regsEngine
  | .cellwin => regsCommon ++ regsCellwin
  | .perf => regsCommon ++ regsPerf
  | .test => regsCommon ++ regsTest
  | .hbm => regsCommon ++ regsHbm
  | .hbmPc => regsCommon ++ regsHbmPc
  | .tap => regsCommon ++ regsTap
  | .island => regsCommon ++ regsIsland
  | .hostif => regsCommon ++ regsHostif
  | .devctl => regsCommon ++ regsDevctl
  | .apply => regsCommon ++ regsApply
  | .sec => regsCommon ++ regsSec
  | .sched => regsCommon ++ regsSched
  | .mempool => regsCommon ++ regsMempool
  | .gyle => regsCommon ++ regsGyle
  | .fabric => regsCommon ++ regsFabric
  | .ras => regsCommon ++ regsRas
  | .resil => regsCommon ++ regsResil
  | .ctxwin => regsCommon ++ regsCtxwin
  | .vfCtl => regsCommon ++ regsVfCtl

/-- PAGE_ID.block_type (Table 16.4, and 0x0060 for VF_CTL). -/
def PageKind.code : PageKind → Nat
  | .die => 0x0001 | .power => 0x0002 | .hubCtl => 0x0010 | .cache => 0x0011 | .work => 0x0012 | .grist => 0x0013
  | .coreCtl => 0x0020 | .seq => 0x0021 | .array => 0x0022 | .acc => 0x0023 | .spad => 0x0024
  | .engine ix => 0x0020 + ix
  | .cellwin => 0x002C | .perf => 0x002D | .test => 0x002E | .hbm => 0x0030 | .hbmPc => 0x0031 | .tap => 0x0038
  | .island => 0x0040 | .hostif => 0x0050 | .devctl => 0x0051 | .apply => 0x0052 | .sec => 0x0053 | .sched => 0x0054
  | .mempool => 0x0055 | .gyle => 0x0056 | .fabric => 0x0057 | .ras => 0x0058 | .resil => 0x0059 | .ctxwin => 0x005A
  | .vfCtl => 0x0060

/-- A page of the map: its type and its unit (core, cluster, stack, port, island nn or die). -/
structure PageAt where
  kind : PageKind
  unit : Nat
  deriving DecidableEq, Repr

/-- The page types of a core in the order of the core page list (R443); index 15 is reserved. -/
def corePageKind (ix : Nat) : Option PageKind :=
  match ix with
  | 0 => some .coreCtl | 1 => some .seq | 2 => some .array | 3 => some .acc | 4 => some .spad
  | 5 => some (.engine 5) | 6 => some (.engine 6) | 7 => some (.engine 7) | 8 => some (.engine 8)
  | 9 => some (.engine 9) | 10 => some (.engine 10) | 11 => some (.engine 11)
  | 12 => some .cellwin | 13 => some .perf | 14 => some .test | _ => none

/-- The page types of a hub by page index (Table 16.3). -/
def hubPageKind (ix : Nat) : Option PageKind :=
  match ix with
  | 0 => some .hubCtl | 1 => some .cache | 2 => some .work | 3 => some .grist | _ => none

/-- The device pages of die 0 (Table 16.3). -/
def devicePageKind (ix : Nat) : Option PageKind :=
  match ix with
  | 0 => some .hostif | 1 => some .devctl | 2 => some .apply | 3 => some .sec | 4 => some .sched | 5 => some .mempool
  | 6 => some .gyle | 7 => some .fabric | 8 => some .ras | 9 => some .resil | 10 => some .ctxwin | _ => none

/-- What page p of die d is (Tables 16.2 and 16.3; R221 and R318 for the HBM and TAP pages). -/
def pageAt (d p : Nat) : Option PageAt :=
  if p = 0 then some ⟨.die, d⟩
  else if p = 1 then some ⟨.power, d⟩
  else if 0x010 ≤ p ∧ p < 0x090 then
    (hubPageKind ((p - 0x010) % 16)).map (fun k => ⟨k, d * 8 + (p - 0x010) / 16⟩)
  else if 0x100 ≤ p ∧ p < 0x900 then
    (corePageKind ((p - 0x100) % 16)).map (fun k => ⟨k, d * 128 + (p - 0x100) / 16⟩)
  else if 0xA00 ≤ p ∧ p < 0xA40 then
    if (p - 0xA00) % 16 = 0 then some ⟨.hbm, d * 4 + (p - 0xA00) / 16⟩
    else if (p - 0xA00) % 16 ≤ 8 then some ⟨.hbmPc, d * 4 + (p - 0xA00) / 16⟩
    else none
  else if 0xA40 ≤ p ∧ p < 0xA70 then
    if (p - 0xA40) % 16 = 0 then some ⟨.tap, d * 3 + (p - 0xA40) / 16⟩ else none
  else if 0xB00 ≤ p ∧ p < 0xB22 then some ⟨.island, d * 256 + (p - 0xB00)⟩
  else if p = 0xB22 then if d = 0 then some ⟨.island, 34⟩ else none
  else if 0xC00 ≤ p ∧ p < 0xC0B then
    if d = 0 then (devicePageKind (p - 0xC00)).map (fun k => ⟨k, 0⟩) else none
  else none

/-- The register-window offset of offset `off` of page p of die d (R443). -/
def pageKey (d p off : Nat) : Nat := d * 0x1000000 + p * 0x1000 + off

/-- The keys of VF_CTL registers: each virtual function's register window is apart from the others. -/
def vfKey (fn off : Nat) : Nat := fn * 0x10000000 + off

/-- What a key lies on: the page and the offset in it. -/
def pageOfKey (key : Nat) : Option PageAt :=
  if key < 0x4000000 then pageAt (key / 0x1000000) (key % 0x1000000 / 0x1000)
  else if key % 0x10000000 < 0x1000 then some ⟨.vfCtl, key / 0x10000000⟩ else none

/-- The register word a key names. -/
def regRow (key : Nat) : Option RegRow :=
  match pageOfKey key with
  | some p => p.kind.regs.find? (fun r => r.off == key % 0x1000)
  | none => none

/-- The reset value of the word a key names; 0 where the map has no word. -/
def regReset (key : Nat) : W32 :=
  match regRow key with
  | some r => BitVec.ofNat 32 r.reset
  | none => 0

/-- A word of page `ix` of a core. -/
def coreKey (core ix off : Nat) : Nat := pageKey (core / 128) (0x100 + 16 * (core % 128) + ix) off
/-- A word of page `ix` of a hub. -/
def hubKey (cluster ix off : Nat) : Nat := pageKey (cluster / 8) (0x010 + 16 * (cluster % 8) + ix) off
/-- A word of page `ix` of an HBM controller. -/
def hbmKey (stack ix off : Nat) : Nat := pageKey (stack / 4) (0xA00 + 16 * (stack % 4) + ix) off
/-- A word of a TAP page. -/
def tapKey (port off : Nat) : Nat := pageKey (port / 3) (0xA40 + 16 * (port % 3)) off
/-- A word of an ISLAND page; the island as its identifier. -/
def islKey (isl off : Nat) : Nat := pageKey (isl / 256) (0xB00 + isl % 256) off
/-- A word of a DIE page. -/
def dieKey (die off : Nat) : Nat := pageKey die 0 off
/-- A word of a POWER page. -/
def powerKey (die off : Nat) : Nat := pageKey die 1 off
def hostifKey (off : Nat) : Nat := pageKey 0 0xC00 off
def devctlKey (off : Nat) : Nat := pageKey 0 0xC01 off
def applyKey (off : Nat) : Nat := pageKey 0 0xC02 off
def secKey (off : Nat) : Nat := pageKey 0 0xC03 off
def schedKey (off : Nat) : Nat := pageKey 0 0xC04 off
def mempoolKey (off : Nat) : Nat := pageKey 0 0xC05 off
def gyleKey (off : Nat) : Nat := pageKey 0 0xC06 off
def fabricKey (off : Nat) : Nat := pageKey 0 0xC07 off
def rasKey (off : Nat) : Nat := pageKey 0 0xC08 off
def resilKey (off : Nat) : Nat := pageKey 0 0xC09 off
def ctxwinKey (off : Nat) : Nat := pageKey 0 0xC0A off

/-- The island of a core: north for cores 0 to 7 of a cluster, south for 8 to 15 (R82, Table 13.1). -/
def islOfCore (core : Nat) : Nat := core / 128 * 256 + core % 128 / 16 + (if core % 16 < 8 then 0 else 8)
/-- The hub island of a cluster (Table 13.1). -/
def islOfHub (cluster : Nat) : Nat := cluster / 8 * 256 + 16 + cluster % 8
/-- The HBM island of a stack (Table 13.1). -/
def islOfStack (stack : Nat) : Nat := stack / 4 * 256 + 24 + stack % 4
/-- The fabric island of a port (Table 13.1). -/
def islOfPort (port : Nat) : Nat := port / 3 * 256 + 28 + port % 3
/-- The management island of a die (Table 13.1). -/
def islMgmt (die : Nat) : Nat := die * 256 + 33
/-- The host island (Table 13.1). -/
def islHost : Nat := 34

/-- The hosting island of a page (Tables 16.2 and 16.3). -/
def PageAt.island (p : PageAt) : Nat :=
  match p.kind with
  | .die => islMgmt p.unit
  | .power => islMgmt p.unit
  | .hubCtl => islOfHub p.unit
  | .cache => islOfHub p.unit
  | .work => islOfHub p.unit
  | .grist => islOfHub p.unit
  | .coreCtl => islOfCore p.unit
  | .seq => islOfCore p.unit
  | .array => islOfCore p.unit
  | .acc => islOfCore p.unit
  | .spad => islOfCore p.unit
  | .engine _ => islOfCore p.unit
  | .cellwin => islOfCore p.unit
  | .perf => islOfCore p.unit
  | .test => islOfCore p.unit
  | .hbm => islOfStack p.unit
  | .hbmPc => islOfStack p.unit
  | .tap => islOfPort p.unit
  | .island => p.unit
  | .hostif => islHost
  | .vfCtl => islHost
  | .devctl => islMgmt 0
  | .apply => islMgmt 0
  | .sec => islMgmt 0
  | .sched => islMgmt 0
  | .mempool => islMgmt 0
  | .gyle => islMgmt 0
  | .fabric => islMgmt 0
  | .ras => islMgmt 0
  | .resil => islMgmt 0
  | .ctxwin => islMgmt 0

end Sys2Proof.Machine
end

