-- ==== Sys2Proof/Machine/Ops.lean ====
section
/-! DEFINITION. The named operations over the device's tables, memories, registers, islands and queues. -/

namespace Sys2Proof.Machine

/-! ## Tables -/

/-- The value of a key, none where the table lists no such key. -/
def tget? {α : Type} (t : Table α) (k : Nat) : Option α :=
  match t with
  | [] => none
  | e :: r => if e.1 = k then some e.2 else if k < e.1 then none else tget? r k

/-- The value of a key, the table's stated default where it is not listed. -/
def tget {α : Type} (t : Table α) (k : Nat) (dflt : α) : α := (tget? t k).getD dflt

/-- The table with key k set to v, keys rising. -/
def tset {α : Type} (t : Table α) (k : Nat) (v : α) : Table α :=
  match t with
  | [] => [(k, v)]
  | e :: r => if e.1 = k then (k, v) :: r else if k < e.1 then (k, v) :: e :: r else e :: tset r k v

/-- The table without key k. -/
def tdel {α : Type} (t : Table α) (k : Nat) : Table α :=
  match t with
  | [] => []
  | e :: r => if e.1 = k then r else if k < e.1 then e :: r else e :: tdel r k

/-- The table without the keys from a up to, not including, b. -/
def tcut {α : Type} (t : Table α) (a b : Nat) : Table α := t.filter (fun e => e.1 < a || b ≤ e.1)

/-- The first element that a test accepts is changed. -/
def modFirst {α : Type} (p : α → Bool) (f : α → α) : List α → List α
  | [] => []
  | x :: r => if p x then f x :: r else x :: modFirst p f r

/-! ## Memories -/

/-- The keys rise strictly. -/
def risingFrom (lo : Nat) (m : Mem) : Bool :=
  match m with
  | [] => true
  | e :: r => decide (lo ≤ e.1) && risingFrom (e.1 + 1) r

/-- The canonical form of a device memory: addresses strictly rising, and no entry equal to the 0 that an
unlisted address reads as. -/
def Memory.wf (m : Mem) : Bool := risingFrom 0 m && m.all (fun e => decide (e.2 ≠ 0))

/-- The canonical form of the list of host bytes that the device wrote: addresses strictly rising. -/
def Memory.rising (m : Mem) : Bool := risingFrom 0 m

/-- The byte at an address; an unlisted address reads as 0 (assumption 3). -/
def mread (m : Mem) (a : Nat) : Byte := tget m a 0

/-- The memory with one byte written; writing 0 removes the entry. -/
def mwrite (m : Mem) (a : Nat) (v : Byte) : Mem := if v = 0 then tdel m a else tset m a v

/-- n bytes from address a, the lowest first. -/
def mreads (m : Mem) (a : Nat) : Nat → List Byte
  | 0 => []
  | n + 1 => mread m a :: mreads m (a + 1) n

/-- The bytes written from address a up. -/
def mwrites (m : Mem) (a : Nat) (bs : List Byte) : Mem :=
  match bs with
  | [] => m
  | b :: r => mwrites (mwrite m a b) (a + 1) r

/-- The range of n bytes from a cleared to 0. -/
def mclear (m : Mem) (a n : Nat) : Mem := tcut m a (a + n)

/-! ## Little-endian values in memory (R4) -/

/-- n bytes at an address as a little-endian value. -/
def mnat (m : Mem) (a n : Nat) : Nat := leNat (mreads m a n)

/-- A value written as n little-endian bytes. -/
def msetNat (m : Mem) (a n v : Nat) : Mem := mwrites m a (leBytes n v)

/-- Bits hi to lo of a value. -/
def bitsOf (v hi lo : Nat) : Nat := v / 2 ^ lo % 2 ^ (hi + 1 - lo)

/-- Whether bit i of a value is set. -/
def bitAt (v i : Nat) : Bool := v.testBit i

/-! ## Units -/

def Dev.core (d : Dev) (n : Nat) : Core := tget d.cores n Core.reset
def Dev.setCore (d : Dev) (n : Nat) (c : Core) : Dev := { d with cores := tset d.cores n c }
def Dev.modCore (d : Dev) (n : Nat) (f : Core → Core) : Dev := d.setCore n (f (d.core n))

def Dev.slot (d : Dev) (n : Nat) (t : SlotIx) : Slot := (d.core n).slots.get t
def Core.setSlot (c : Core) (t : SlotIx) (s : Slot) : Core := { c with slots := c.slots.set t.1 s t.2 }
def Dev.setSlot (d : Dev) (n : Nat) (t : SlotIx) (s : Slot) : Dev := d.modCore n (fun c => c.setSlot t s)
def Dev.modSlot (d : Dev) (n : Nat) (t : SlotIx) (f : Slot → Slot) : Dev := d.setSlot n t (f (d.slot n t))

def Core.cell (c : Core) (i : Nat) : CellSt := tget c.cells i CellSt.empty
def Core.setCell (c : Core) (i : Nat) (x : CellSt) : Core := { c with cells := tset c.cells i x }
def Dev.cell (d : Dev) (n i : Nat) : CellSt := (d.core n).cell i
def Dev.setCell (d : Dev) (n i : Nat) (x : CellSt) : Dev := d.modCore n (fun c => c.setCell i x)
def Dev.modCell (d : Dev) (n i : Nat) (f : CellSt → CellSt) : Dev := d.setCell n i (f (d.cell n i))

def Dev.cluster (d : Dev) (j : Nat) : Cluster := tget d.clusters j Cluster.reset
def Dev.setCluster (d : Dev) (j : Nat) (c : Cluster) : Dev := { d with clusters := tset d.clusters j c }
def Dev.modCluster (d : Dev) (j : Nat) (f : Cluster → Cluster) : Dev := d.setCluster j (f (d.cluster j))

def Dev.ctx (d : Dev) (x : Nat) : Ctx := tget d.ctxs x Ctx.reset
def Dev.setCtx (d : Dev) (x : Nat) (c : Ctx) : Dev := { d with ctxs := tset d.ctxs x c }
def Dev.modCtx (d : Dev) (x : Nat) (f : Ctx → Ctx) : Dev := d.setCtx x (f (d.ctx x))
def Dev.modGyle (d : Dev) (x : Nat) (f : Gyle → Gyle) : Dev := d.modCtx x (fun c => { c with gyle := f c.gyle })
def Dev.modResil (d : Dev) (x : Nat) (f : Resil → Resil) : Dev :=
  d.modCtx x (fun c => { c with resil := f c.resil })

def Dev.port (d : Dev) (p : Nat) : Port := tget d.ports p Port.reset
def Dev.setPort (d : Dev) (p : Nat) (q : Port) : Dev := { d with ports := tset d.ports p q }
def Dev.modPort (d : Dev) (p : Nat) (f : Port → Port) : Dev := d.setPort p (f (d.port p))

def Dev.window (d : Dev) (w : Nat) : Window := tget d.windows w Window.reset
def Dev.setWindow (d : Dev) (w : Nat) (x : Window) : Dev := { d with windows := tset d.windows w x }

def Dev.chan (d : Dev) (c : Nat) : Chan := tget d.chans c Chan.reset
def Dev.setChan (d : Dev) (c : Nat) (x : Chan) : Dev := { d with chans := tset d.chans c x }

def Dev.partner (d : Dev) (p : Nat) : Partner := tget d.sec.partners p Partner.reset
def Dev.setPartner (d : Dev) (p : Nat) (x : Partner) : Dev :=
  { d with sec := { d.sec with partners := tset d.sec.partners p x } }

def Dev.diePower (d : Dev) (n : Nat) : DiePower := tget d.power n DiePower.reset
def Dev.setDiePower (d : Dev) (n : Nat) (x : DiePower) : Dev := { d with power := tset d.power n x }

def Dev.island (d : Dev) (i : Nat) : IslSt := tget d.islands i IslSt.reset
def Dev.setIsland (d : Dev) (i : Nat) (x : IslSt) : Dev := { d with islands := tset d.islands i x }
def Dev.modIsland (d : Dev) (i : Nat) (f : IslSt → IslSt) : Dev := d.setIsland i (f (d.island i))

/-- The key of one direction of a crossing. -/
def crossKey (src dst : Nat) : Nat := src * 1024 + dst
/-- The keys of a cell link's own channels lie above those of the crossings (Table 13.4). -/
def linkKeyStep : Nat := 2 ^ 20
/-- The key of one direction of a cell link across an island edge: the sender's core, cell and port. -/
def linkKey (core i port src dst : Nat) : Nat := (1 + (core * 16 + i) * 8 + port) * linkKeyStep + crossKey src dst
def Dev.cross (d : Dev) (src dst : Nat) : Cross := tget d.crossings (crossKey src dst) Cross.reset
def Dev.setCross (d : Dev) (src dst : Nat) (x : Cross) : Dev :=
  { d with crossings := tset d.crossings (crossKey src dst) x }

def Dev.queue (d : Dev) (q : Nat) : Queue := tget d.host.queues q Queue.none_
def Dev.setQueue (d : Dev) (q : Nat) (x : Queue) : Dev :=
  { d with host := { d.host with queues := tset d.host.queues q x } }

/-- An island's identifier: die in [15:8], nn in [7:0] (R377). -/
def islId (i : Isl) : Nat := i.d.1 * 256 + i.nn.1

/-- Every island of the device (R19, R377). -/
def allIslands : List Nat :=
  (List.range 35) ++ (List.range 34).map (· + 256) ++ (List.range 34).map (· + 512) ++ (List.range 34).map (· + 768)

/-! ## Registers -/

/-- A register word at its block. -/
def Dev.rget (d : Dev) (key : Nat) : W32 := (tget? d.blk key).getD (regReset key)
def Dev.rset (d : Dev) (key : Nat) (v : W32) : Dev := { d with blk := tset d.blk key v }
def Dev.rnat (d : Dev) (key : Nat) : Nat := (d.rget key).toNat
def Dev.rsetNat (d : Dev) (key v : Nat) : Dev := d.rset key (BitVec.ofNat 32 v)

/-- A 64-bit register or counter at its block, low word at `key` (R81). -/
def Dev.rget64 (d : Dev) (key : Nat) : Nat := d.rnat key + 2 ^ 32 * d.rnat (key + 4)
def Dev.rset64 (d : Dev) (key v : Nat) : Dev := (d.rsetNat key v).rsetNat (key + 4) (v / 2 ^ 32)

/-- A 64-bit counter raised by n, saturating at 2^64 − 1 (R81). -/
def Dev.count (d : Dev) (key n : Nat) : Dev :=
  if n = 0 then d else d.rset64 key (min (d.rget64 key + n) (2 ^ 64 - 1))

/-- A 64-bit maximum register raised to v where v is larger. -/
def Dev.raise (d : Dev) (key v : Nat) : Dev := if d.rget64 key < v then d.rset64 key v else d

/-! ## Free values -/

/-- A value that the spec leaves to the device, and the device with the draw counted. -/
def Dev.draw (d : Dev) : Nat × Dev := (Config.freeNat d.free, { d with free := d.free + 1 })

/-- n free bytes of one draw, at positions from a up. -/
def freeBytes (draw a : Nat) : Nat → List Byte
  | 0 => []
  | n + 1 => Config.freeByte draw a :: freeBytes draw (a + 1) n

/-- The device with one draw counted. -/
def Dev.drew (d : Dev) : Dev := { d with free := d.free + 1 }

/-! ## Islands and causal sequences (R386) -/

/-- An event is recorded on an island: S = S + 1, and the event carries the new S. -/
def Dev.noteEvent (d : Dev) (isl : Nat) : Dev := d.modIsland isl (fun i => { i with seq := i.seq + 1 })

/-- A transfer or message that carries sequence c is received on an island: S = max(S, c) + 1. -/
def Dev.receive (d : Dev) (isl c : Nat) : Dev := d.modIsland isl (fun i => { i with seq := max i.seq c + 1 })

def Dev.seqOf (d : Dev) (isl : Nat) : Nat := (d.island isl).seq
def Dev.cycleOf (d : Dev) (isl : Nat) : Nat := (d.island isl).cycle

/-- Management cycles of die 0 as microseconds, at 500 cycles per µs (Table 13.2). -/
def Dev.nowUs (d : Dev) : Nat := d.cycleOf (islMgmt 0) / 500

/-- A causal stamp joins the merged log (R388): the recording island, the sending island (0xFFFF for a message
or none), the sending partner and the carried sequence. -/
def Dev.stamp (d : Dev) (isl causeIsl causePartner causeSeq : Nat) : Dev :=
  let x : Stamp :=
    { island := isl, causeIsland := causeIsl, causePartner := causePartner, cycle := d.cycleOf isl,
      sequence := d.seqOf isl, causeSequence := causeSeq }
  { d with stamps := x :: d.stamps }

/-! ## Crossings between islands (R19, R379, R380, R384; Table 13.4) -/

/-- Kinds of CAPS.kind (Table 13.7): 0 north core, 1 south core, 2 hub, 3 HBM, 4 fabric, 5 die-link, 6 management,
7 host. -/
def islKind (isl : Nat) : Nat :=
  let nn := isl % 256
  if nn < 8 then 0 else if nn < 16 then 1 else if nn < 24 then 2 else if nn < 28 then 3 else if nn < 31 then 4
  else if nn < 33 then 5 else if nn = 33 then 6 else 7

/-- Column of a core island in its die's 4 by 4 grid of core islands (R16). -/
def islCol (nn : Nat) : Nat := nn % 8 % 4
/-- Row of a core island in that grid: each cluster is a north island above a south one. -/
def islRow (nn : Nat) : Nat := 2 * (nn % 8 / 4) + nn / 8

/-- Two core islands of a die that share an edge of the cell grid (R16, R17). -/
def cellEdge (a b : Nat) : Bool :=
  (islCol a == islCol b && (islRow a + 1 == islRow b || islRow b + 1 == islRow a))
  || (islRow a == islRow b && (islCol a + 1 == islCol b || islCol b + 1 == islCol a))

/-- A core island of a die that borders the die edge of a die-link island: 31 east–west, 32 north–south (R13, R17). -/
def dieEdge (die nn link : Nat) : Bool :=
  if link = 31 then islCol nn == (if die % 2 = 0 then 3 else 0) else islRow nn == (if die < 2 then 3 else 0)

/-- Channels of the crossing from one island to another by their kinds, 0 where they are not joined. Table 13.4 gives
no count for the ends of a die-to-die link, for the two die-link islands of a die, which Table 13.6 joins, nor for a
core island's cell links to a die-link island; assumption 46 names the model's. -/
def crossChannels (src dst : Nat) : Nat :=
  let a := src % 256
  let b := dst % 256
  let ka := islKind src
  let kb := islKind dst
  if src = dst then 0
  else if src / 256 ≠ dst / 256 then
    (if (a = 31 ∧ b = 31 ∧ src / 256 ^^^ 1 = dst / 256) ∨ (a = 32 ∧ b = 32 ∧ src / 256 ^^^ 2 = dst / 256) then 1 else 0)
  else if ka = 6 ∨ kb = 6 then 1
  else if ka ≤ 1 ∧ kb ≤ 1 then (if cellEdge a b then 8 else 0)
  else
    let pair := fun (core hub : Nat) => core % 8 == hub - 16
    match ka, kb with
    | 0, 2 => if pair a b then 8 else 0
    | 1, 2 => if pair a b then 8 else 0
    | 2, 0 => if pair b a then 8 else 0
    | 2, 1 => if pair b a then 8 else 0
    | 3, 2 => 16
    | 2, 3 => 16
    | 5, 2 => 20
    | 2, 5 => 20
    | 5, 5 => 1
    | 0, 5 => if dieEdge (src / 256) a b then 8 else 0
    | 1, 5 => if dieEdge (src / 256) a b then 8 else 0
    | 5, 0 => if dieEdge (src / 256) b a then 8 else 0
    | 5, 1 => if dieEdge (src / 256) b a then 8 else 0
    | 4, 2 => 2
    | 2, 4 => 2
    | 7, 2 => 4
    | 2, 7 => 4
    | _, _ => 0

/-- A crossing carries something: it exists, it is open, and both islands run. -/
def Dev.crossOpen (d : Dev) (src dst : Nat) : Bool :=
  crossChannels src dst != 0 && !(d.cross src dst).closed && (d.island src).run == .run && (d.island dst).run == .run

/-- A value crosses on the next of n channels in rotation: its request toggle and then its acknowledge toggle invert;
the receiver's sequence follows the carried one, and its stamp names the cause (R379, R380, R386, R388). -/
def Dev.transferOn (d : Dev) (key n src dst : Nat) : Dev :=
  let x := tget d.crossings key Cross.reset
  let ch := x.sendNext % n
  let t := !(tget x.req ch false)
  let c := d.seqOf src
  let y : Cross := { x with
    sendNext := (x.sendNext + 1) % n, recvNext := (x.recvNext + 1) % n, req := tset x.req ch t, ack := tset x.ack ch t }
  let d := { d with crossings := tset d.crossings key y }
  let d := (d.count (islKey src 0x800) 1).count (islKey dst 0x808) 1
  (d.receive dst c).stamp dst src 0 c

/-- One transfer from an island to a neighbour; a closed crossing carries nothing. -/
def Dev.hop (d : Dev) (src dst : Nat) : Dev :=
  if d.crossOpen src dst then d.transferOn (crossKey src dst) (crossChannels src dst) src dst else d

/-- A value carried along a path of islands, one transfer at each edge. -/
def Dev.travel (d : Dev) : List Nat → Dev
  | a :: b :: r => (d.hop a b).travel (b :: r)
  | _ => d

/-- Every crossing of a path is open. -/
def Dev.pathOpen (d : Dev) : List Nat → Bool
  | a :: b :: r => d.crossOpen a b && d.pathOpen (b :: r)
  | _ => true

/-- The die-link islands between two dies: the east–west link first, then the north–south link (R15). -/
def diePath (a b : Nat) : List Nat :=
  let mid := if a % 2 = b % 2 then a else a ^^^ 1
  (if mid = a then [] else [a * 256 + 31, mid * 256 + 31]) ++ (if mid = b then [] else [mid * 256 + 32, b * 256 + 32])

/-- A list without immediate repeats. -/
def squeeze : List Nat → List Nat
  | a :: b :: r => if a = b then squeeze (b :: r) else a :: squeeze (b :: r)
  | l => l

/-- The hub through which an island reaches its die's network: a core's own, for others hub c of the die. -/
def nearHub (c isl : Nat) : Nat := isl / 256 * 256 + 16 + (if islKind isl ≤ 2 then isl % 8 else c)

/-- The islands that a value passes from src to dst. Management reaches every island of its die, and the management of
another die over the links alone, as in Table 13.6; every other traffic enters and leaves a die's network by a hub.
Which hub of a die passes on what belongs to another cluster is the model's choice: the one of the same number
(assumption 123). -/
def islRoute (src dst : Nat) : List Nat :=
  let a := src / 256
  let b := dst / 256
  if src = dst then [src]
  else if islKind src = 6 ∨ islKind dst = 6 then
    squeeze ([src] ++ (if a = b then [] else [islMgmt a] ++ diePath a b ++ [islMgmt b]) ++ [dst])
  else
    let c := if islKind src ≤ 2 then src % 8 else if islKind dst ≤ 2 then dst % 8 else 0
    squeeze ([src, nearHub c src] ++ diePath a b ++ [nearHub c dst, dst])

/-- A value sent from one island to another over the device. -/
def Dev.carry (d : Dev) (src dst : Nat) : Dev := d.travel (islRoute src dst)

/-- Whether a value can pass from one island to another. -/
def Dev.routeOpen (d : Dev) (src dst : Nat) : Bool := d.pathOpen (islRoute src dst)

/-- A block answers and takes writes while its island runs on its clocks. -/
def Dev.islandUp (d : Dev) (isl : Nat) : Bool := (d.island isl).run == .run && !(d.island isl).clocksStopped

/-- The host's accesses to register and memory windows reach the device while the host island runs and PERST# is
high. -/
def Dev.hostUp (d : Dev) : Bool := (d.island islHost).run == .run && !d.host.perst

/-- The path of host writes to the blocks of an island: management island of die 0, die links, management island of
the die, island (R445). Mirror updates take it backwards. -/
def ctlRoute (isl : Nat) : List Nat :=
  if isl = islHost then [islHost]
  else squeeze ([islHost, islMgmt 0] ++ diePath 0 (isl / 256) ++ [islMgmt (isl / 256), isl])

/-- A host write reaches the blocks of an island. -/
def Dev.blockUp (d : Dev) (isl : Nat) : Bool := d.islandUp isl && d.pathOpen (ctlRoute isl)
def Dev.toBlock (d : Dev) (isl : Nat) : Dev := d.travel (ctlRoute isl)

/-- A host write whose effect is a block's own. -/
def Dev.atBlock (d : Dev) (isl : Nat) (f : Dev → Dev) : Dev := if d.blockUp isl then f (d.toBlock isl) else d

/-- An update of a block reaches the mirror. -/
def Dev.updates (d : Dev) (isl : Nat) : Bool := d.islandUp isl && d.islandUp islHost && d.pathOpen (ctlRoute isl).reverse
def Dev.toMirror (d : Dev) (isl : Nat) : Dev := d.travel (ctlRoute isl).reverse

/-! ## Queues, completions and events (R399 to R403) -/

/-- Queue numbers: admin submission, admin completion and event queue of a function. -/
def adminSq (fn : Nat) : Nat := fn * 3
def adminCq (fn : Nat) : Nat := fn * 3 + 1
def eventQ (fn : Nat) : Nat := fn * 3 + 2
/-- Queue numbers: submission and completion queue of a context. -/
def ctxSq (x : Nat) : Nat := 256 + 2 * x
def ctxCq (x : Nat) : Nat := 256 + 2 * x + 1

/-- An entry waits for a slot of its queue, behind the earlier ones (R402). -/
def Dev.enqueue (d : Dev) (q : Nat) (e : Entry) : Dev :=
  let x := d.queue q
  d.setQueue q { x with waiting := x.waiting ++ [e] }

/-- A context event goes to the context's completion queue (R402). -/
def Dev.ctxEvent (d : Dev) (x : Nat) (status : W16) (info : W32) (payload : List Byte) : Dev :=
  (d.noteEvent (islMgmt 0)).enqueue (ctxCq x)
    { cmdId := 0, status := status, sqHead := 0, ctx := BitVec.ofNat 16 x, type := 1, info := info,
      payload := payload }

/-- A device event goes to the event queue of a function, 0 the physical one (R402). -/
def Dev.fnEvent (d : Dev) (fn : Nat) (ctx status : W16) (info : W32) (payload : List Byte) : Dev :=
  d.enqueue (eventQ fn)
    { cmdId := 0, status := status, sqHead := 0, ctx := ctx, type := 2, info := info, payload := payload }

/-- A device event of the physical function that names no context. -/
def Dev.devEvent (d : Dev) (status : W16) (info : W32) (payload : List Byte) : Dev :=
  d.fnEvent 0 0xFFFF status info payload

/-- The queue a command came on, and the one its completion goes to. -/
def hdrSq (h : CmdHdr) : Nat :=
  match h.queue with
  | .admin => adminSq h.fn
  | .context => ctxSq h.ctx
def hdrCq (h : CmdHdr) : Nat :=
  match h.queue with
  | .admin => adminCq h.fn
  | .context => ctxCq h.ctx

/-- A command completes: its completion entry waits for its queue, unless it is a SUCCESS that its header
suppresses; the command is no longer outstanding (R401, R402, Table 14.4). -/
def Dev.completePay (d : Dev) (h : CmdHdr) (status : W16) (info : W32) (payload : List Byte) : Dev :=
  let mine := fun (r : Started) => r.queue == (hdrSq h) && r.id == h.id
  let sqh := match d.host.started.find? mine with
    | some r => r.sqHead
    | none => (d.queue (hdrSq h)).head
  let d := { d with host := { d.host with started := d.host.started.filter (fun r => !(mine r)) } }
  if h.quiet && status == 0 then d
  else
    d.enqueue (hdrCq h)
      { cmdId := h.id, status := status, sqHead := BitVec.ofNat 16 sqh,
        ctx := (match h.queue with
          | .admin => 0xFFFF
          | .context => BitVec.ofNat 16 h.ctx),
        type := 0, info := info, payload := payload }

/-- A command completes without a payload. -/
def Dev.complete (d : Dev) (h : CmdHdr) (status : W16) (info : W32) : Dev := d.completePay h status info []

/-- A command that may be absent completes. -/
def Dev.completeOpt (d : Dev) (h : Option CmdHdr) (status : W16) (info : W32) : Dev :=
  match h with
  | some h => d.complete h status info
  | none => d

/-! ## Descriptor fields of a context (Tables 8.1, 9.8, 10.10) -/

/-- n bytes of a context's descriptor as held, as a value. -/
def Ctx.field (c : Ctx) (off n : Nat) : Nat := mnat c.desc off n
def Ctx.setField (c : Ctx) (off n v : Nat) : Ctx := { c with desc := msetNat c.desc off n v }

/-! ## Answers -/

/-- The device's answer to a command: the effect on the device, the queue untouched. -/
def onDev (s : State) (f : Dev → Dev) : Host.Outcome State Fault Refusal := .next { s with dev := f s.dev }

/-- The answer of an island whose clocks a thermal trip may have stopped (R479): then nothing happens in it. -/
def onIsland (s : State) (isl : Nat) (f : Dev → Dev) : Host.Outcome State Fault Refusal :=
  if (s.dev.island isl).clocksStopped then .next s else onDev s f

/-- What the cores and hubs do: a DEVICE-class error stops every context, and only a device reset resumes service
(R329). -/
def Dev.inService (d : Dev) (f : Dev → Dev) : Dev := if d.sec.devState = .error then d else f d

/-- The answer of a core, whose island must be clocked, on a device not in the error state. -/
def onCore (s : State) (core : Nat) (f : Dev → Dev) : Host.Outcome State Fault Refusal :=
  onIsland s (islOfCore core) (fun d => d.inService f)

/-- The answer of a hub, whose island must be clocked, on a device not in the error state. -/
def onHub (s : State) (cluster : Nat) (f : Dev → Dev) : Host.Outcome State Fault Refusal :=
  onIsland s (islOfHub cluster) (fun d => d.inService f)

/-- The answer of a command that names an island: an island that no die has stops the model (R377). -/
def onNamed (s : State) (isl : Isl) (f : Dev → Dev) : Host.Outcome State Fault Refusal :=
  if isl.nn.1 = 34 ∧ isl.d.1 ≠ 0 then .fault (.noSuchIsland (islId isl)) else onIsland s (islId isl) f

end Sys2Proof.Machine
end

