-- ==== Sys2Proof/Machine/Numerics.lean ====
section
/-! DEFINITION. The number formats, rounding and conversion, FP32 arithmetic with correct rounding, packing,
scales and the counter-based generator (R24 to R44, R103). -/

namespace Sys2Proof.Machine

/-! ## Exact numbers -/

/-- The value as an integer multiple of `2^e`, for an `e` not above its own exponent. -/
def Dyadic.at (x : Dyadic) (e : Int) : Int := x.m * 2 ^ (x.e - e).toNat

/-- Exact sum. -/
def Dyadic.add (x y : Dyadic) : Dyadic :=
  let e := min x.e y.e
  ⟨x.at e + y.at e, e⟩

def Dyadic.mul (x y : Dyadic) : Dyadic := ⟨x.m * y.m, x.e + y.e⟩
def Dyadic.neg (x : Dyadic) : Dyadic := ⟨-x.m, x.e⟩
def Dyadic.scale (x : Dyadic) (k : Int) : Dyadic := ⟨x.m, x.e + k⟩
def Dyadic.lt (x y : Dyadic) : Bool := (x.add y.neg).m < 0

/-- floor(log2) of a positive number. -/
def Dyadic.log2 (x : Dyadic) : Int := (Nat.log2 x.m.toNat : Int) + x.e

/-- A number with its sign, from an exact signed value; an exact zero is +0 (RNE, R33). -/
def Num.ofDyadic (x : Dyadic) : Num := .fin (decide (x.m < 0)) ⟨x.m.natAbs, x.e⟩

/-- The exact signed value of a finite number. -/
def signed (neg : Bool) (mag : Dyadic) : Dyadic := if neg then mag.neg else mag

def Num.isNan : Num → Bool
  | .nan => true
  | _ => false

def Num.isZero : Num → Bool
  | .fin _ x => x.m == 0
  | _ => false

def Num.finite : Num → Bool
  | .fin _ _ => true
  | _ => false

/-- Whether a number's sign is negative. -/
def Num.isNeg : Num → Bool
  | .fin n _ => n
  | .inf n => n
  | .nan => false

def Num.abs : Num → Num
  | .fin _ x => .fin false x
  | .inf _ => .inf false
  | .nan => .nan

def Num.neg : Num → Num
  | .fin n x => .fin (!n) x
  | .inf n => .inf (!n)
  | .nan => .nan

/-- The number times `2^k`. -/
def Num.scale (x : Num) (k : Int) : Num :=
  match x with
  | .fin n y => .fin n (y.scale k)
  | other => other

/-! ## Formats (Table 2.1) -/

/-- The widths and bias of a floating-point format. -/
structure FloatSpec where
  ebits : Nat
  mbits : Nat
  bias : Int
  /-- the top exponent holds infinity and NaN -/
  ieee : Bool
  deriving DecidableEq, Repr

/-- The floating-point format of a code, none for the integer formats and the reserved codes. -/
def floatSpec (code : Nat) : Option FloatSpec :=
  match code with
  | 0 => some ⟨8, 23, 127, true⟩
  | 1 => some ⟨8, 7, 127, true⟩
  | 2 => some ⟨5, 10, 15, true⟩
  | 3 => some ⟨4, 3, 7, false⟩
  | 4 => some ⟨5, 2, 15, true⟩
  | 5 => some ⟨3, 2, 3, false⟩
  | 6 => some ⟨2, 3, 1, false⟩
  | 7 => some ⟨2, 1, 1, false⟩
  | _ => none

/-- Element width in bits. -/
def fmtBits (code : Nat) : Nat :=
  match code with
  | 0 => 32 | 1 => 16 | 2 => 16 | 3 => 8 | 4 => 8 | 5 => 6 | 6 => 6 | 7 => 4 | 8 => 8 | 9 => 32 | _ => 8

/-- Largest binade (Table 2.3). -/
def fmtEmax (code : Nat) (mx : Bool) : Int :=
  match code with
  | 0 => 127 | 1 => 127 | 2 => 15 | 3 => 8 | 4 => 15 | 5 => 4 | 6 => 2 | 7 => 2
  | 8 => if mx then 0 else 6
  | 9 => 30
  | _ => 0

/-- The value of a field of w bits in two's complement. -/
def signedField (v w : Nat) : Int := if v < 2 ^ (w - 1) then (v : Int) else (v : Int) - 2 ^ w

/-- The number a bit pattern stands for; MXINT8 elements carry the factor `2^-6` (R25). -/
def decodeElem (code : Nat) (mx : Bool) (v : Nat) : Num :=
  match floatSpec code with
  | some f =>
    let neg := v.testBit (f.ebits + f.mbits)
    let ex := v / 2 ^ f.mbits % 2 ^ f.ebits
    let man := v % 2 ^ f.mbits
    if f.ieee && ex == 2 ^ f.ebits - 1 then if man == 0 then .inf neg else .nan
    else if code == 3 && ex == 15 && man == 7 then .nan
    else if ex == 0 then .fin neg ⟨man, 1 - f.bias - f.mbits⟩
    else .fin neg ⟨man + 2 ^ f.mbits, (ex : Int) - f.bias - f.mbits⟩
  | none =>
    if code == 9 then Num.ofDyadic ⟨signedField (v % 2 ^ 32) 32, 0⟩
    else Num.ofDyadic ⟨signedField (v % 256) 8, if mx then -6 else 0⟩

/-- The canonical NaN of a format (R26, Table 2.2). -/
def canonNan (code : Nat) : Nat :=
  match code with
  | 0 => 0x7FC00000 | 1 => 0x7FC0 | 2 => 0x7E00 | 3 => 0x7F | 4 => 0x7E | _ => 0

/-! ## Rounding (R34) -/

/-- Rounding modes by their code: 0 RNE, 1 STOCH, 2 RTZ. -/
def roundCount (rnd : Nat) (m : Dyadic) (k : Int) (r16 : Nat) : Nat :=
  if k ≤ m.e then m.m.toNat * 2 ^ (m.e - k).toNat
  else
    let s := (k - m.e).toNat
    let t := m.m.toNat / 2 ^ s
    let rem := m.m.toNat % 2 ^ s
    let up :=
      if rnd == 2 then false
      else if rnd == 1 then decide (65536 ≤ rem * 65536 / 2 ^ s + r16)
      else decide (2 ^ s < 2 * rem) || (2 * rem == 2 ^ s && t % 2 == 1)
    if up then t + 1 else t

/-- The exponent of the spacing of representable values of a format at a magnitude (R34). -/
def spacing (code : Nat) (mx : Bool) (m : Dyadic) : Int :=
  match floatSpec code with
  | some f => max (if m.m == 0 then 1 - f.bias else m.log2) (1 - f.bias) - f.mbits
  | none => if code == 8 && mx then -6 else 0

/-- The bits of a floating-point magnitude that the format represents. -/
def packFloat (f : FloatSpec) (neg : Bool) (t : Nat) (k : Int) : Nat :=
  let sign := if neg then 2 ^ (f.ebits + f.mbits) else 0
  if t == 0 then sign
  else
    let lg := (Nat.log2 t : Int) + k
    if lg < 1 - f.bias then sign + t * 2 ^ (k - (1 - f.bias - f.mbits)).toNat
    else
      let man := if k ≤ lg - f.mbits then t / 2 ^ (lg - f.mbits - k).toNat else t * 2 ^ (k - (lg - f.mbits)).toNat
      sign + (lg + f.bias).toNat * 2 ^ f.mbits + (man - 2 ^ f.mbits)

/-- The largest finite magnitude, as a count of `2^k`. -/
def maxFinite (code : Nat) : Nat × Int :=
  match code with
  | 0 => (2 ^ 24 - 1, 104) | 1 => (255, 120) | 2 => (2047, 5) | 3 => (7, 6) | 4 => (7, 13)
  | 5 => (7, 2) | 6 => (15, -1) | 7 => (3, 1) | _ => (0, 0)

/-! ## Conversion (R35, R47) -/

/-- What one conversion counts (R47): an overflow, an underflow, a zero, a NaN source, an infinite source and
the histogram bin of a source. -/
structure Tally where
  overflow : Bool
  underflow : Bool
  zero : Bool
  nanIn : Bool
  infIn : Bool
  bin : Option Nat
  deriving DecidableEq, Repr

/-- The bits of an infinite or overflowed magnitude: the limit, or infinity where the table offers it and the
descriptor chooses it (Table 2.2). -/
def limitBits (code : Nat) (mx inf neg : Bool) : Nat :=
  match floatSpec code with
  | some f =>
    if f.ieee && inf then (if neg then 2 ^ (f.ebits + f.mbits) else 0) + (2 ^ f.ebits - 1) * 2 ^ f.mbits
    else packFloat f neg (maxFinite code).1 (maxFinite code).2
  | none =>
    if code == 9 then (if neg then 0x80000000 else 0x7FFFFFFF)
    else if mx then (if neg then 0x80 else 0x7F) else (if neg then 0x80 else 0x7F)

/-- One element converted: the bits and what is counted. `inf` is the ovf bit of the descriptor (R35). -/
def convertElem (code : Nat) (mx : Bool) (rnd : Nat) (inf : Bool) (src : Num) (r16 : Nat) : Nat × Tally :=
  let none_ : Tally := ⟨false, false, false, false, false, none⟩
  match src with
  | .nan => (canonNan code, { none_ with nanIn := true })
  | .inf neg => (limitBits code mx inf neg, { none_ with infIn := true, bin := some 0 })
  | .fin neg m =>
    if m.m == 0 then
      (match floatSpec code with
        | some f => packFloat f neg 0 0
        | none => 0, { none_ with zero := true })
    else
      let k := spacing code mx m
      let t := roundCount rnd m k r16
      let bin := (fmtEmax code mx - m.log2).toNat
      let tally := { none_ with bin := some (min bin 31) }
      match floatSpec code with
      | some f =>
        let mf := maxFinite code
        if Dyadic.lt ⟨mf.1, mf.2⟩ ⟨t, k⟩ then (limitBits code mx inf neg, { tally with overflow := true })
        else
          (packFloat f neg t k,
            { tally with underflow := t == 0 || decide ((Nat.log2 t : Int) + k < 1 - f.bias) })
      | none =>
        let top := if code == 9 then 2 ^ 31 else 128
        let width := if code == 9 then 32 else 8
        if (if neg then top < t else top ≤ t) then (limitBits code mx inf neg, { tally with overflow := true })
        else
          (if neg then (2 ^ width - t) % 2 ^ width else t, { tally with underflow := t == 0 })

/-- What an element of a block or tile of scale 0xFF counts: a non-finite source like any other, an infinite one in
bin 0; a finite one counts as converted, and as a zero where it is exactly zero (R47). -/
def voidTally (src : Num) : Tally :=
  { overflow := false, underflow := false, zero := src.isZero, nanIn := src.isNan
    infIn := !src.finite && !src.isNan, bin := if !src.finite && !src.isNan then some 0 else none }

/-- An element of a tile of scale 0xFF: converted as Table 2.2 converts a NaN source (R38). -/
def convertVoid (code : Nat) (src : Num) : Nat × Tally := (canonNan code, voidTally src)

/-- An element of an MX block of scale 0xFF (R29): an infinite or NaN source takes what Table 2.2 gives its target. The
bits of a finite element, and of every element of the targets for which the table names the block scale alone, are
open: a free value of the format (assumption 113). -/
def convertVoidBlock (code : Nat) (inf : Bool) (src : Num) : Nat × Tally :=
  let free := Config.voidBits code % 2 ^ fmtBits code
  let bits :=
    if code = 5 ∨ code = 6 ∨ code = 7 then free
    else
      match src with
      | .nan => canonNan code
      | .inf neg => limitBits code true inf neg
      | .fin _ _ => free
  (bits, voidTally src)

/-! ## Format-health counts (R47) -/

def HealthEntry.zero_ : HealthEntry :=
  { converted := 0, overflow := 0, underflow := 0, zero := 0, nanIn := 0, infIn := 0, hist := [] }

/-- A counter that saturates at its width. -/
def satAdd (bits a b : Nat) : Nat := min (a + b) (2 ^ bits - 1)

def b2n (b : Bool) : Nat := if b then 1 else 0

/-- An entry with one conversion counted. -/
def HealthEntry.tally (h : HealthEntry) (t : Tally) : HealthEntry :=
  { converted := satAdd 64 h.converted 1
    overflow := satAdd 64 h.overflow (b2n t.overflow)
    underflow := satAdd 64 h.underflow (b2n t.underflow)
    zero := satAdd 64 h.zero (b2n t.zero)
    nanIn := satAdd 32 h.nanIn (b2n t.nanIn)
    infIn := satAdd 32 h.infIn (b2n t.infIn)
    hist := match t.bin with
      | some b => tset h.hist b (satAdd 32 (tget h.hist b 0) 1)
      | none => h.hist }

/-- The key of a (target format, engine) pair: format code × 6 + engine code (Table 2.5). -/
def healthKey (code engine : Nat) : Nat := code * 6 + engine

/-- Whether a counter of an entry stands at its maximum. -/
def HealthEntry.full (h : HealthEntry) : Bool :=
  h.converted == 2 ^ 64 - 1 || h.overflow == 2 ^ 64 - 1 || h.underflow == 2 ^ 64 - 1 || h.zero == 2 ^ 64 - 1
  || h.nanIn == 2 ^ 32 - 1 || h.infIn == 2 ^ 32 - 1 || h.hist.any (fun e => e.2 == 2 ^ 32 - 1)

/-- Counts with one conversion to a format on an engine. -/
def Health.tally (h : Health) (code engine : Nat) (t : Tally) : Health :=
  let k := healthKey code engine
  let e := (tget h.entries k HealthEntry.zero_).tally t
  { h with entries := tset h.entries k e, saturated := h.saturated || e.full }

/-- An accumulator saturation: an overflow of INT32 at the array drain and nothing else (R32). -/
def Health.saturate (h : Health) : Health :=
  let k := healthKey 9 0
  let e := tget h.entries k HealthEntry.zero_
  { h with entries := tset h.entries k { e with overflow := satAdd 64 e.overflow 1 } }

/-- The sum of two entries. -/
def HealthEntry.sum (a b : HealthEntry) : HealthEntry :=
  { converted := satAdd 64 a.converted b.converted, overflow := satAdd 64 a.overflow b.overflow
    underflow := satAdd 64 a.underflow b.underflow, zero := satAdd 64 a.zero b.zero
    nanIn := satAdd 32 a.nanIn b.nanIn, infIn := satAdd 32 a.infIn b.infIn
    hist := b.hist.foldl (fun t e => tset t e.1 (satAdd 32 (tget t e.1 0) e.2)) a.hist }

/-- Counts joined: what an accepted completion contributes to its context (R48). -/
def Health.join (a b : Health) : Health :=
  let entries := b.entries.foldl (fun t e => tset t e.1 ((tget t e.1 HealthEntry.zero_).sum e.2)) a.entries
  { entries := entries, tiles := satAdd 64 a.tiles b.tiles
    nonfiniteTiles := satAdd 32 a.nonfiniteTiles b.nonfiniteTiles
    saturated := a.saturated || b.saturated || entries.any (fun e => e.2.full) }

/-! ## FP32 arithmetic (R33, R103) -/

/-- A number rounded to FP32 with RNE, as its bits; a result beyond the range is an infinity. -/
def toF32 (x : Num) : Nat := (convertElem 0 false 0 true x 0).1
/-- The number of an FP32 bit pattern. -/
def ofF32 (v : Nat) : Num := decodeElem 0 false v

/-- Exact sum of two numbers; the sign of an exact zero as IEEE 754 gives it under RNE. -/
def Num.plus (a b : Num) : Num :=
  match a, b with
  | .nan, _ => .nan
  | _, .nan => .nan
  | .inf x, .inf y => if x == y then .inf x else .nan
  | .inf x, _ => .inf x
  | _, .inf y => .inf y
  | .fin x m, .fin y n =>
    let s := (signed x m).add (signed y n)
    if s.m == 0 then .fin (x && y) ⟨0, 0⟩ else Num.ofDyadic s

/-- Exact product. -/
def Num.times (a b : Num) : Num :=
  match a, b with
  | .nan, _ => .nan
  | _, .nan => .nan
  | .inf x, .inf y => .inf (x != y)
  | .inf x, .fin y n => if n.m == 0 then .nan else .inf (x != y)
  | .fin x m, .inf y => if m.m == 0 then .nan else .inf (x != y)
  | .fin x m, .fin y n => .fin (x != y) (m.mul n)

def fadd (a b : Nat) : Nat := toF32 ((ofF32 a).plus (ofF32 b))
def fneg (a : Nat) : Nat := toF32 (ofF32 a).neg
def fsub (a b : Nat) : Nat := toF32 ((ofF32 a).plus (ofF32 b).neg)
def fmul (a b : Nat) : Nat := toF32 ((ofF32 a).times (ofF32 b))
/-- a × b + c, rounded once. -/
def ffma (a b c : Nat) : Nat := toF32 (((ofF32 a).times (ofF32 b)).plus (ofF32 c))
def fabs (a : Nat) : Nat := toF32 (ofF32 a).abs

/-- Order of two numbers with −0 below +0 (R103). -/
def Num.below (a b : Num) : Bool :=
  match a, b with
  | .nan, _ => false
  | _, .nan => false
  | .inf x, .inf y => x && !y
  | .inf x, _ => x
  | _, .inf y => !y
  | .fin x m, .fin y n =>
    let s := (signed x m).add (signed y n).neg
    decide (s.m < 0) || (s.m == 0 && x && !y)

/-- a > b, with −0 equal to +0 (IEEE 754 comparison). -/
def Num.greater (a b : Num) : Bool :=
  match a, b with
  | .fin x m, .fin y n => decide (0 < ((signed x m).add (signed y n).neg).m)
  | _, _ => b.below a

def fmax (a b : Nat) : Nat :=
  if (ofF32 a).isNan || (ofF32 b).isNan then canonNan 0
  else if (ofF32 a).below (ofF32 b) then b else a
def fmin (a b : Nat) : Nat :=
  if (ofF32 a).isNan || (ofF32 b).isNan then canonNan 0
  else if (ofF32 b).below (ofF32 a) then b else a

def f32One : Nat := 0x3F800000

/-- 1.0 if a > b, else +0. -/
def fcmpgt (a b : Nat) : Nat := if (ofF32 a).greater (ofF32 b) then f32One else 0

/-! ### Roots, quotients, exponentials and logarithms, correctly rounded (assumption 9)

Each function forms enough bits of the exact result, with one more bit that is set when the result is not
exact; rounding that number once gives the FP32 value nearest to the exact result. -/

/-- Bit by bit integer square root: the largest r below `2^n` with r² ≤ v, when v < `2^(2n)`. -/
def isqrtBits (v : Nat) : Nat → Nat → Nat
  | 0, r => r
  | n + 1, r => let c := r + 2 ^ n; isqrtBits v n (if c * c ≤ v then c else r)

def isqrt (v : Nat) : Nat := isqrtBits v (Nat.log2 v / 2 + 1) 0

/-- A truncated magnitude with its sticky bit. -/
def sticky (q : Nat) (exact : Bool) (e : Int) : Dyadic := ⟨2 * q + (if exact then 0 else 1), e - 1⟩

/-- The quotient of two positive numbers, to 64 bits and a sticky bit. -/
def quotient (a b : Dyadic) : Dyadic :=
  let s := Nat.log2 b.m.toNat + 64
  let n := a.m.toNat * 2 ^ s
  sticky (n / b.m.toNat) (n % b.m.toNat == 0) (a.e - b.e - s)

/-- a ÷ b. -/
def Num.over (a b : Num) : Num :=
  match a, b with
  | .nan, _ => .nan
  | _, .nan => .nan
  | .inf _, .inf _ => .nan
  | .inf x, .fin y _ => .inf (x != y)
  | .fin x _, .inf y => .fin (x != y) ⟨0, 0⟩
  | .fin x m, .fin y n =>
    if n.m == 0 then if m.m == 0 then .nan else .inf (x != y)
    else if m.m == 0 then .fin (x != y) ⟨0, 0⟩
    else .fin (x != y) (quotient m n)

def fdiv (a b : Nat) : Nat := toF32 ((ofF32 a).over (ofF32 b))
def frcp (a : Nat) : Nat := toF32 (Num.over (.fin false ⟨1, 0⟩) (ofF32 a))

/-- The square root of a positive number, to 64 bits and a sticky bit. -/
def rootOf (x : Dyadic) : Dyadic :=
  let odd : Nat := (x.e % 2).toNat
  let s : Nat := 128
  let n := x.m.toNat * 2 ^ odd * 2 ^ s
  let r := isqrt n
  sticky r (r * r == n) ((x.e - odd - s) / 2)

def fsqrt (a : Nat) : Nat :=
  match ofF32 a with
  | .nan => canonNan 0
  | .inf n => if n then canonNan 0 else a
  | .fin n x => if x.m == 0 then a else if n then canonNan 0 else toF32 (.fin false (rootOf x))

/-- 1 ÷ √x of a positive number: the root of `2^2k ÷ x`, with a sticky bit. -/
def invRootOf (x : Dyadic) : Dyadic :=
  let odd : Nat := (x.e % 2).toNat
  let m := x.m.toNat * 2 ^ odd
  let k := Nat.log2 m + 96
  let r := isqrt (2 ^ (2 * k) / m)
  sticky r (r * r * m == 2 ^ (2 * k)) (-(x.e - odd) / 2 - k)

def frsqrt (a : Nat) : Nat :=
  match ofF32 a with
  | .nan => canonNan 0
  | .inf n => if n then canonNan 0 else 0
  | .fin n x =>
    if x.m == 0 then toF32 (.inf n) else if n then canonNan 0 else toF32 (.fin false (invRootOf x))

/-- ln 2 and π in units of `2^-192`. -/
def ln2Fix : Nat := 0xb17217f7d1cf79abc9e3b39803f2f6af40f343267298b62d
def piFix : Nat := 0x3243f6a8885a308d313198a2e03707344a4093822299f31d0

/-- Σ of the exponential series of x (in units of `2^-192`), from term n with value t. -/
def expSeries (x : Nat) : Nat → Nat → Nat → Nat
  | 0, _, _ => 0
  | k + 1, n, t => t + expSeries x k (n + 1) (t * x / 2 ^ 192 / n)

/-- 2^f for a fraction f in units of `2^-192`, in the same units. -/
def exp2Frac (f : Nat) : Nat := expSeries (f * ln2Fix / 2 ^ 192) 48 1 (2 ^ 192)

def fexp2 (a : Nat) : Nat :=
  match ofF32 a with
  | .nan => canonNan 0
  | .inf n => if n then 0 else a
  | .fin n x =>
    let v := signed n x
    if v.m == 0 then f32One
    else if 8 ≤ x.log2 then (if n then 0 else toF32 (.inf false))
    else
      let fix := if 0 ≤ v.e + 192 then v.m * 2 ^ (v.e + 192).toNat else v.m / 2 ^ (-(v.e + 192)).toNat
      let whole := fix / 2 ^ 192
      let frac := (fix % 2 ^ 192).toNat
      if frac == 0 then toF32 (.fin false ⟨1, whole⟩)
      else toF32 (.fin false (sticky (exp2Frac frac / 2 ^ 32) false (whole - 160)))

/-- Bits of log2 of y in [1, 2), y in units of `2^-352`, by repeated squaring. -/
def log2Bits : Nat → Nat → Nat → Nat
  | 0, _, acc => acc
  | k + 1, y, acc =>
    let y2 := y * y / 2 ^ 352
    if 2 ^ 353 ≤ y2 then log2Bits k (y2 / 2) (2 * acc + 1) else log2Bits k y2 (2 * acc)

def flog2 (a : Nat) : Nat :=
  match ofF32 a with
  | .nan => canonNan 0
  | .inf n => if n then canonNan 0 else a
  | .fin n x =>
    if x.m == 0 then toF32 (.inf true)
    else if n then canonNan 0
    else
      let lg := Nat.log2 x.m.toNat
      let e := (lg : Int) + x.e
      if x.m.toNat == 2 ^ lg then toF32 (Num.ofDyadic ⟨e, 0⟩)
      else
        let frac := log2Bits 140 (x.m.toNat * 2 ^ (352 - lg)) 0
        toF32 (Num.ofDyadic ⟨2 * (e * 2 ^ 140 + frac) + 1, -141⟩)

/-- Alternating series of sine or cosine: x2 the square of the angle in units of `2^-192`, n the next divisor. -/
def trigSeries (x2 : Nat) : Nat → Nat → Int → Int
  | 0, _, _ => 0
  | k + 1, n, t => t + trigSeries x2 k (n + 2) (-(t * x2 / 2 ^ 192 / (n * (n + 1))))

/-- The FP32 value nearest to cos(2π × u), u = k × `2^-24` (R116). -/
def fcos2pi (k : Nat) : Nat :=
  let k := k % 2 ^ 24
  let k := if 2 ^ 23 < k then 2 ^ 24 - k else k
  let neg := decide (2 ^ 22 < k)
  let k := if neg then 2 ^ 23 - k else k
  if k == 0 then (if neg then 0xBF800000 else f32One)
  else if k == 2 ^ 22 then 0
  else
    let v : Int :=
      if k ≤ 2 ^ 21 then
        let x := 2 * piFix * k / 2 ^ 24
        trigSeries (x * x / 2 ^ 192) 24 1 (2 ^ 192)
      else
        let x := 2 * piFix * (2 ^ 22 - k) / 2 ^ 24
        trigSeries (x * x / 2 ^ 192) 24 2 x
    toF32 (.fin neg (sticky (v.toNat / 2 ^ 32) false (-160)))

/-- log2 e and ln 2 rounded to FP32 (R108). -/
def f32L2E : Nat := 0x3FB8AA3B
def f32LN2 : Nat := 0x3F317218

/-- exp(y) = EXP2(RNE(y × L2E)) (R108). -/
def fexp (y : Nat) : Nat := fexp2 (fmul y f32L2E)
/-- ln(y) = RNE(LOG2(y) × LN2) (R108). -/
def fln (y : Nat) : Nat := fmul (flog2 y) f32LN2

/-! ## Sums in a fixed order (R104) -/

/-- Pairs of neighbours added. -/
def pairUp : List Nat → List Nat
  | a :: b :: r => fadd a b :: pairUp r
  | r => r

/-- The pairwise tree of the 64 lane partials. -/
def treeSum (xs : List Nat) : Nat :=
  (pairUp (pairUp (pairUp (pairUp (pairUp (pairUp xs)))))).headD 0

/-- The elements of a lane added in ascending order; +0 for a lane with none. -/
def laneSum : List Nat → Nat
  | [] => 0
  | x :: r => r.foldl fadd x

/-- Lane partials: element i is added to lane i mod 64. -/
def laneSums (xs : List Nat) : List Nat :=
  (List.range 64).map (fun lane => laneSum ((xs.zipIdx.filter (fun e => e.2 % 64 == lane)).map (·.1)))

/-- A row sum in the order of R104. -/
def rowSum (xs : List Nat) : Nat := treeSum (laneSums xs)

/-! ## Packing (R27) -/

/-- The bytes of a row of n elements of w bits, padded to whole bytes. -/
def rowBytes (n w : Nat) : Nat := (n * w + 7) / 8

/-- Element j of a packed row. -/
def unpackElem (row : List Byte) (w j : Nat) : Nat :=
  leNat ((row.drop (j * w / 8)).take ((j * w % 8 + w + 7) / 8)) / 2 ^ (j * w % 8) % 2 ^ w

/-- The packed bits of a row as one number, the first element lowest. -/
def packNat (w : Nat) : List Nat → Nat
  | [] => 0
  | x :: r => x % 2 ^ w + 2 ^ w * packNat w r

/-- The bytes of a row of elements, padded with zero bits. -/
def packRow (w : Nat) (xs : List Nat) : List Byte := leBytes (rowBytes xs.length w) (packNat w xs)

/-! ## Scales -/

/-- A number clamped to lo and hi. -/
def clampInt (lo hi v : Int) : Int := max lo (min hi v)

/-- The scale exponent of a tile's absolute maximum, which is an FP32 value (R37, R38); none for a maximum that is
not finite. -/
def tileScale (code : Nat) (mx : Bool) (margin : Nat) (amax : Num) : Option Int :=
  match ofF32 (toF32 amax) with
  | .fin _ m =>
    if m.m == 0 then some 0 else some (clampInt (-127) 127 (fmtEmax code mx - m.log2 - margin))
  | _ => none

/-- The scale byte of an exponent; 0xFF where there is none. -/
def scaleByte (e : Option Int) : Byte :=
  match e with
  | some e => BitVec.ofNat 8 (e + 127).toNat
  | none => 0xFF

/-- The larger of two absolute values, NaN over all (R37). -/
def maxAbs (a b : Num) : Num :=
  match a, b.abs with
  | .nan, _ => .nan
  | _, .nan => .nan
  | x, y => if x.below y then y else x

/-- The scale exponent of an MX block (R29): none where the block holds a NaN or an infinity. -/
def blockScale (code : Nat) (xs : List Num) : Option Int :=
  match xs.foldl maxAbs (.fin false ⟨0, 0⟩) with
  | .fin _ m => if m.m == 0 then some 0 else some (clampInt (-127) 127 (m.log2 - fmtEmax code true))
  | _ => none

/-- The factor of an E8M0 scale byte; none for 0xFF. -/
def scaleExp (b : Byte) : Option Int := if b = 0xFF then none else some ((b.toNat : Int) - 127)

/-! ## The counter-based generator (R42, R43; assumption 10 for the round function) -/

/-- One round of Philox-4×32 on words c0 to c3 under key words k0, k1. -/
def philoxRound (c : Nat × Nat × Nat × Nat) (k0 k1 : Nat) : Nat × Nat × Nat × Nat :=
  let p0 := 0xD2511F53 * c.1
  let p1 := 0xCD9E8D57 * c.2.2.1
  ((p1 / 2 ^ 32) ^^^ c.2.1 ^^^ k0, p1 % 2 ^ 32, (p0 / 2 ^ 32) ^^^ c.2.2.2 ^^^ k1, p0 % 2 ^ 32)

/-- The rounds that remain, the key raised by its increments after each. -/
def philoxRounds : Nat → Nat × Nat × Nat × Nat → Nat → Nat → Nat × Nat × Nat × Nat
  | 0, c, _, _ => c
  | n + 1, c, k0, k1 =>
    philoxRounds n (philoxRound c k0 k1) ((k0 + 0x9E3779B9) % 2 ^ 32) ((k1 + 0xBB67AE85) % 2 ^ 32)

/-- The 128-bit output of a block (R42, Table 2.4). -/
def philoxBlock (seed : W64) (stream gyle block : Nat) : Nat :=
  let r := philoxRounds 10
    (block % 2 ^ 32, block / 2 ^ 32 % 2 ^ 32, gyle % 2 ^ 32, gyle / 2 ^ 32 % 2 ^ 16 + 2 ^ 16 * (stream % 2 ^ 16))
    (seed.toNat % 2 ^ 32) (seed.toNat / 2 ^ 32)
  r.1 + 2 ^ 32 * r.2.1 + 2 ^ 64 * r.2.2.1 + 2 ^ 96 * r.2.2.2

/-- What a draw depends on besides its element: seed, stream and gyle number (R44). -/
structure Rng where
  seed : W64
  stream : Nat
  gyle : Nat
  deriving DecidableEq, Repr

/-- A draw of slot width w for an element index (R43). -/
def Rng.draw (g : Rng) (w i : Nat) : Nat :=
  philoxBlock g.seed g.stream g.gyle (i / (128 / w)) / 2 ^ (w * (i % (128 / w))) % 2 ^ w

/-- A uniform FP32 in [0, 1) as its 24-bit count of `2^-24` (R43). -/
def Rng.uniform24 (g : Rng) (i : Nat) : Nat := g.draw 32 i / 256

/-- A count of `2^-24` as FP32. -/
def f32OfCount (n : Nat) : Nat := toF32 (.fin false ⟨n, -24⟩)

end Sys2Proof.Machine
end

