-- ==== Sys2Proof/Machine/Flags.lean ====
section
/-! DEFINITION. Status codes, error bits, abort causes and error records. -/

namespace Sys2Proof.Machine

/-! ## Status codes (R9, R10) -/

abbrev Code.success : W16 := 0x0000
abbrev Code.cmdOpcodeInvalid : W16 := 0x0101
abbrev Code.cmdFieldInvalid : W16 := 0x0102
abbrev Code.cmdFunction : W16 := 0x0103
abbrev Code.queueConfigInvalid : W16 := 0x0104
abbrev Code.queueBusy : W16 := 0x0105
abbrev Code.hostRangeInvalid : W16 := 0x0106
abbrev Code.hostRangeBusy : W16 := 0x0107
abbrev Code.copyInvalid : W16 := 0x0108
abbrev Code.copyFault : W16 := 0x0109
abbrev Code.deviceNotReady : W16 := 0x010A
abbrev Code.doorbellInvalid : W16 := 0x010B
abbrev Code.contextInvalid : W16 := 0x0201
abbrev Code.contextState : W16 := 0x0202
abbrev Code.imageFormat : W16 := 0x0203
abbrev Code.programInvalid : W16 := 0x0204
abbrev Code.cellConfigInvalid : W16 := 0x0205
abbrev Code.placementImpossible : W16 := 0x0206
abbrev Code.cellDefect : W16 := 0x0207
abbrev Code.stallDeadlock : W16 := 0x0208
abbrev Code.preemptOverrun : W16 := 0x0209
abbrev Code.contextHalted : W16 := 0x020A
abbrev Code.contextKilled : W16 := 0x020B
abbrev Code.swapSpace : W16 := 0x020C
abbrev Code.descEngineReserved : W16 := 0x0301
abbrev Code.descFormatReserved : W16 := 0x0302
abbrev Code.descFormatUnsupported : W16 := 0x0303
abbrev Code.descFieldInvalid : W16 := 0x0304
abbrev Code.shapeM : W16 := 0x0305
abbrev Code.shapeN : W16 := 0x0306
abbrev Code.shapeK : W16 := 0x0307
abbrev Code.sparsityMode : W16 := 0x0308
abbrev Code.ticketInvalid : W16 := 0x0309
abbrev Code.spadBound : W16 := 0x030A
abbrev Code.accBound : W16 := 0x030B
abbrev Code.accSlot : W16 := 0x030C
abbrev Code.wbDemand : W16 := 0x030D
abbrev Code.tileDuration : W16 := 0x030E
abbrev Code.engineDuration : W16 := 0x030F
abbrev Code.weightMismatch : W16 := 0x0310
abbrev Code.tileMetadata : W16 := 0x0311
abbrev Code.gatherIndexRange : W16 := 0x0312
abbrev Code.queueInvalid : W16 := 0x0313
abbrev Code.semOverflow : W16 := 0x0314
abbrev Code.pcRange : W16 := 0x0315
abbrev Code.linkDown : W16 := 0x0401
abbrev Code.partnerNotAdmitted : W16 := 0x0402
abbrev Code.windowClosed : W16 := 0x0403
abbrev Code.windowStale : W16 := 0x0404
abbrev Code.windowKey : W16 := 0x0405
abbrev Code.windowBounds : W16 := 0x0406
abbrev Code.windowBusy : W16 := 0x0407
abbrev Code.windowLimit : W16 := 0x0408
abbrev Code.windowInvalid : W16 := 0x0409
abbrev Code.remoteTimeout : W16 := 0x040A
abbrev Code.sendInvalid : W16 := 0x040B
abbrev Code.channelInvalid : W16 := 0x040C
abbrev Code.collInvalid : W16 := 0x040D
abbrev Code.collDeadline : W16 := 0x040E
abbrev Code.collLate : W16 := 0x040F
abbrev Code.collOrder : W16 := 0x0410
abbrev Code.epochMismatch : W16 := 0x0411
abbrev Code.allocFlagsInvalid : W16 := 0x0501
abbrev Code.quotaExceeded : W16 := 0x0502
abbrev Code.poolExhausted : W16 := 0x0503
abbrev Code.objectUnknown : W16 := 0x0504
abbrev Code.objectAccess : W16 := 0x0505
abbrev Code.objectPinned : W16 := 0x0506
abbrev Code.hbmAddress : W16 := 0x0507
abbrev Code.hbmWriteProtect : W16 := 0x0508
abbrev Code.memUncorrected : W16 := 0x0509
abbrev Code.hostAccess : W16 := 0x050A
abbrev Code.gristStreamInvalid : W16 := 0x050B
abbrev Code.gristSequence : W16 := 0x050C
abbrev Code.gristStarved : W16 := 0x050D
abbrev Code.gristLockUnavailable : W16 := 0x050E
abbrev Code.allocEntryInvalid : W16 := 0x050F
abbrev Code.allocRange : W16 := 0x0510
abbrev Code.gyleState : W16 := 0x0601
abbrev Code.gyleNumber : W16 := 0x0602
abbrev Code.gyleAborted : W16 := 0x0603
abbrev Code.gyleReplayLimit : W16 := 0x0604
abbrev Code.gyleLogFull : W16 := 0x0605
abbrev Code.gyleAllocInvalid : W16 := 0x0606
abbrev Code.gyleSealed : W16 := 0x0607
abbrev Code.gyleJobInvalid : W16 := 0x0608
abbrev Code.gyleDecisionOverdue : W16 := 0x0609
abbrev Code.gyleResolveConflict : W16 := 0x060A
abbrev Code.caskSlotInvalid : W16 := 0x0701
abbrev Code.caskSlotSize : W16 := 0x0702
abbrev Code.caskLost : W16 := 0x0703
abbrev Code.caskMissed : W16 := 0x0704
abbrev Code.stagingInvalid : W16 := 0x0705
abbrev Code.exportInvalid : W16 := 0x0706
abbrev Code.restoreSource : W16 := 0x0707
abbrev Code.restoreFormat : W16 := 0x0708
abbrev Code.restoreDigest : W16 := 0x0709
abbrev Code.restoreJob : W16 := 0x070A
abbrev Code.restorePosition : W16 := 0x070B
abbrev Code.restoreRngSkew : W16 := 0x070C
abbrev Code.restoreObject : W16 := 0x070D
abbrev Code.restoreProof : W16 := 0x070E
abbrev Code.rackPlanInvalid : W16 := 0x070F
abbrev Code.rackSourceStale : W16 := 0x0710
abbrev Code.rackUnexpected : W16 := 0x0711
abbrev Code.rackTimeout : W16 := 0x0712
abbrev Code.rackAbandoned : W16 := 0x0713
abbrev Code.rackPolicy : W16 := 0x0714
abbrev Code.errCorrected : W16 := 0x0801
abbrev Code.errGyle : W16 := 0x0802
abbrev Code.errContext : W16 := 0x0803
abbrev Code.errDevice : W16 := 0x0804
abbrev Code.unitObserved : W16 := 0x0805
abbrev Code.unitRetired : W16 := 0x0806
abbrev Code.testFailed : W16 := 0x0807
abbrev Code.injectMiss : W16 := 0x0808
abbrev Code.trayService : W16 := 0x0809
abbrev Code.repairOverlayInvalid : W16 := 0x080A
abbrev Code.repairRefused : W16 := 0x080B
abbrev Code.historyWrite : W16 := 0x080C
abbrev Code.testUnitInvalid : W16 := 0x080D
abbrev Code.testpackInvalid : W16 := 0x080E
abbrev Code.arrayCheck : W16 := 0x080F
abbrev Code.arrayParity : W16 := 0x0810
abbrev Code.engineParity : W16 := 0x0811
abbrev Code.sigblockFormat : W16 := 0x0901
abbrev Code.imageClass : W16 := 0x0902
abbrev Code.keySlotRevoked : W16 := 0x0903
abbrev Code.sigInvalid : W16 := 0x0904
abbrev Code.rollbackRefused : W16 := 0x0905
abbrev Code.fwBusy : W16 := 0x0906
abbrev Code.fwState : W16 := 0x0907
abbrev Code.fwRange : W16 := 0x0908
abbrev Code.lifecycle : W16 := 0x0909
abbrev Code.ownerPresent : W16 := 0x090A
abbrev Code.tokenRefused : W16 := 0x090B
abbrev Code.admitFailed : W16 := 0x090C
abbrev Code.admitTimeout : W16 := 0x090D
abbrev Code.partnerRevoked : W16 := 0x090E
abbrev Code.decryptFailed : W16 := 0x090F
abbrev Code.bootFallback : W16 := 0x0910
abbrev Code.applyGenInvalid : W16 := 0x0A01
abbrev Code.applyEmpty : W16 := 0x0A02
abbrev Code.applyConflict : W16 := 0x0A03
abbrev Code.applyOwner : W16 := 0x0A04
abbrev Code.applyFieldInvalid : W16 := 0x0A05
abbrev Code.applyInconsistent : W16 := 0x0A06
abbrev Code.applyTimeout : W16 := 0x0A07
abbrev Code.stageDrainTimeout : W16 := 0x0A08
abbrev Code.applyIslandLost : W16 := 0x0A09
abbrev Code.applyQueueFull : W16 := 0x0A0A

/-! ## Error bits of a page (R442) -/

/-- The sideband alert: ALERT_N is an in-band interrupt in I3C mode (R473). -/
def Dev.alert (d : Dev) : Dev := { d with pins := { d.pins with ibi := d.pins.ibi + 1 } }

/-- The hosting island of a page named by its register-window offset. -/
def islandOfPage (base : Nat) : Nat :=
  match pageOfKey base with
  | some p => p.island
  | none => islMgmt 0

/-- A detector of the page at `base` fires: its ERR_STATUS bit, ERR_COUNT and, where nothing is captured yet,
ERR_FIRST with `first` in bits [30:0]; EVENT_SEQ takes the event's sequence. A bit that rises unmasked posts a
device event, which carries the page offset and the two words, and the status 0x0000, since the spec names no status
code for it (the model's choice, assumption 11), and raises the alert (R442). -/
def Dev.errFire (d : Dev) (base bit first : Nat) : Dev :=
  let status := d.rnat (base + 0x18)
  let captured := (d.rnat (base + 0x20)).testBit 31
  let isl := islandOfPage base
  let d := d.rsetNat (base + 0x18) (status ||| 2 ^ bit)
  let d := d.rsetNat (base + 0x24) (min (d.rnat (base + 0x24) + 1) (2 ^ 32 - 1))
  let d := if captured then d else d.rsetNat (base + 0x20) (first % 2 ^ 31 + 2 ^ 31)
  let d := d.noteEvent isl
  let d := d.rsetNat (base + 0x28) (d.seqOf isl)
  if status.testBit bit || (d.rnat (base + 0x1C)).testBit bit then d
  else
    (d.devEvent 0 (BitVec.ofNat 32 base)
      (leBytes 4 (d.rnat (base + 0x18)) ++ leBytes 4 (d.rnat (base + 0x20)))).alert

/-- A W1C write to ERR_STATUS: the named bits clear, and ERR_FIRST.valid with the last of them (R442). -/
def Dev.errClear (d : Dev) (base v : Nat) : Dev :=
  let status := d.rnat (base + 0x18)
  let left := status - (status &&& v)
  let d := d.rsetNat (base + 0x18) left
  if left == 0 then d.rsetNat (base + 0x20) (d.rnat (base + 0x20) % 2 ^ 31) else d

/-! ## Abort causes (R261, R264) -/

/-- Sources of Table 9.9. -/
def srcCore (n : Nat) : W32 := BitVec.ofNat 32 (n + 2 ^ 24)
def srcIsland (i : Nat) : W32 := BitVec.ofNat 32 (i + 2 * 2 ^ 24)
def srcPartner (p : Nat) : W32 := BitVec.ofNat 32 (p + 3 * 2 ^ 24)
def srcHost : W32 := BitVec.ofNat 32 (4 * 2 ^ 24)

/-- An abort cause is recorded for a context: the first one of a running gyle counts; a vote is final (R263). -/
def Dev.abortCause (d : Dev) (x cause : Nat) (status : W16) (source : W32) : Dev :=
  let g := (d.ctx x).gyle
  if g.st == .running then
    let d := d.noteEvent (islMgmt 0)
    if g.cause.isSome then d
    else d.modGyle x (fun g => { g with cause := some { cause := cause, status := status, source := source } })
  else d

/-- A code of an assigned class, 0x01 to 0x0A, with a low byte of 0x01 to 0xFF (R9, R10). -/
def openCode (v : Nat) : W16 := BitVec.ofNat 16 ((1 + v % 10) * 256 + 1 + v / 10 % 255)

/-- An abort cause for which the spec states no status code: the code is a free value within the classes that R10
assigns (assumption 19). -/
def Dev.abortOpen (d : Dev) (x cause : Nat) (source : W32) : Dev :=
  d.drew.abortCause x cause (openCode (Config.freeNat d.free)) source

/-- Whether a command has started a gyle that has not ended. -/
def Ctx.inGyle (c : Ctx) : Bool := c.gyle.st != .idle
/-- A gyle runs, votes or is being applied; in HELD none does (Table 9.6). -/
def Ctx.gyleRuns (c : Ctx) : Bool := c.inGyle && c.gyle.st != .held

/-- Contexts by number that have left FREE. -/
def Dev.liveCtxs (d : Dev) : List Nat :=
  (d.ctxs.filter (fun e => e.2.state != .free)).map (·.1)

/-! ## Error records (R331, R332) -/

/-- What a detection says of itself. -/
structure Detection where
  cls : Nat
  detector : Nat
  unitKind : Nat
  unit : Nat
  island : Nat
  ctx : Nat
  status : W16
  address : Nat
  /-- flags of Table 11.5 -/
  flags : Nat
  /-- the page whose ERR_FIRST the record carries, 0 for none -/
  page : Nat
  deriving DecidableEq, Repr

/-- The counter of RAS for a class. -/
def rasClassKey (cls : Nat) : Nat :=
  match cls with
  | 0 => rasKey 0x800
  | 1 => rasKey 0x808
  | 2 => rasKey 0x810
  | _ => rasKey 0x818

/-- The 64 bytes of a record (Table 11.5). -/
def ErrRec.bytes (r : ErrRec) : List Byte :=
  leBytes 2 1 ++ leBytes 1 r.cls ++ leBytes 1 r.detector ++ leBytes 1 r.unitKind ++ leBytes 1 r.flags
  ++ leBytes 2 r.island ++ leBytes 4 r.unit ++ leBytes 2 r.ctx ++ leBytes 2 r.status.toNat ++ leBytes 8 r.cycle
  ++ leBytes 8 r.sequence ++ leBytes 8 r.gyle ++ leBytes 8 r.address ++ leBytes 4 r.count
  ++ leBytes 4 r.detail.toNat ++ leBytes 4 r.hours ++ leBytes 4 0

/-- The status that a record's device event carries, by class (Table 11.14). -/
def classCode (cls : Nat) : W16 :=
  match cls with
  | 0 => Code.errCorrected
  | 1 => Code.errGyle
  | 2 => Code.errContext
  | _ => Code.errDevice

/-- A unit event of a context of a virtual function is copied to that function's event queue (Table 14.5). -/
def Dev.vfCopy (d : Dev) (r : ErrRec) : Dev :=
  let fn := if r.ctx < 1024 then (d.ctx r.ctx).field 4 2 else 0
  if fn = 0 then d else d.fnEvent fn (BitVec.ofNat 16 r.ctx) (classCode r.cls) 0 r.bytes

/-- A new record crosses from its island to the device controller and stands at the head of the ring (R331, R388). -/
def Dev.newRecord (d : Dev) (x : Detection) (now : Nat) : Dev :=
  let d := d.noteEvent x.island
  let full := decide (512 ≤ d.ras.unposted)
  let rec_ : ErrRec :=
    { cls := x.cls, detector := x.detector, unitKind := x.unitKind
      flags := x.flags + (if full then 8 else 0)
      island := x.island, unit := x.unit, ctx := x.ctx, status := x.status, cycle := d.cycleOf x.island
      sequence := d.seqOf x.island
      gyle := if x.ctx < 1024 then (d.ctx x.ctx).field 0x80 6 else 0
      address := x.address, count := 1
      detail := if x.page == 0 then 0 else d.rget (x.page + 0x20)
      hours := d.ras.hours, recorded := now }
  let d := d.carry x.island (islMgmt 0)
  let d := if full then d.count (rasKey 0x828) 1 else d
  let d := d.rsetNat (rasKey 0x100) ((d.rnat (rasKey 0x100) + 1) % 65536)
  let d := d.vfCopy rec_
  { d with ras := { d.ras with log := (rec_ :: d.ras.log).take 512, written := d.ras.written + 1
                               unposted := min (d.ras.unposted + 1) 512 } }

/-- A detection produces a record, or raises the count of the last one where that is a CORRECTED error of the
same detector and unit less than a second old (R331). The ring keeps 512; an unposted record that is overwritten
is lost, and the record that overwrites it says so (R332). -/
def Dev.errRecord (d : Dev) (x : Detection) : Dev :=
  let now := d.cycleOf (islMgmt 0)
  let d := d.count (rasClassKey x.cls) 1
  let same := fun (r : ErrRec) =>
    x.cls == 0 && r.cls == 0 && r.detector == x.detector && r.unitKind == x.unitKind && r.unit == x.unit
      && decide (now ≤ r.recorded + 500000000)
  match d.ras.log with
  | r :: rest =>
    if same r then
      ({ d with ras := { d.ras with log := { r with count := r.count + 1 } :: rest } }).count (rasKey 0x820) 1
    else d.newRecord x now
  | [] => d.newRecord x now

end Sys2Proof.Machine
end

