-- ==== Sys2Proof/Machine/Frames.lean ====
section
/-! DEFINITION. HBM frames and pools, context addresses, and reads and writes of context memory. -/

namespace Sys2Proof.Machine

/-! ## Stacks, regions and pools (R198, R199, R210, R241) -/

/-- Whether a stack is in service: STATUS.state of its HBM page reads IN_SERVICE (R197, Table 7.10). -/
def Dev.stackIn (d : Dev) (n : Nat) : Bool := d.rnat (hbmKey n 0 0x14) % 4 == 1

/-- The stacks of a die that are in service, ascending. -/
def Dev.dieStacks (d : Dev) (die : Nat) : List Nat :=
  ([0, 1, 2, 3].map (fun j => 4 * die + j)).filter d.stackIn

/-- Frames of 2 MiB of a die's region: 32 GiB a stack in service (R198). -/
def Dev.regionFrames (d : Dev) (die : Nat) : Nat := (d.dieStacks die).length * 16384

/-- The extra that dies give, in ascending order, towards a remainder. -/
def fillShares : List (Nat × Nat) → Nat → List Nat
  | [], _ => []
  | (cap, base) :: r, left => (base + min (cap - base) left) :: fillShares r (left - min (cap - base) left)

/-- A total taken in equal shares from each die; a die that cannot give its share gives what it has, and the
rest comes from the other dies in ascending order (R210, R241). -/
def shareOut (caps : List Nat) (total : Nat) : List Nat :=
  let base := caps.map (fun c => min c (total / caps.length))
  fillShares (caps.zip base) (total - base.sum)

/-- Frames of the cask reservation on each die; 512 frames are 1 GiB. -/
def Dev.caskShares (d : Dev) : List Nat :=
  shareOut ([0, 1, 2, 3].map d.regionFrames) (d.rnat (mempoolKey 0x100) * 512)

/-- Frames of the context pool on each die, the swap reserve included. -/
def Dev.poolFrames (d : Dev) : List Nat :=
  (List.zipWith (fun r c => r - c) ([0, 1, 2, 3].map d.regionFrames) d.caskShares)

/-- Frames of the swap reserve on each die, in the highest-numbered frames of its pool (R241). -/
def Dev.swapShares (d : Dev) : List Nat := shareOut d.poolFrames (d.rnat (schedKey 0x108) * 512)

/-- Frames of a die that allocations may take: its pool below the swap reserve. The pool lies below the cask
reservation (assumption 12). -/
def Dev.openFrames (d : Dev) (die : Nat) : Nat := d.poolFrames.getD die 0 - d.swapShares.getD die 0

def Dev.poolOf (d : Dev) (die : Nat) : DiePool :=
  if h : die < 4 then d.pool.get ⟨die, h⟩ else DiePool.reset
def Dev.setPool (d : Dev) (die : Nat) (p : DiePool) : Dev :=
  if h : die < 4 then { d with pool := d.pool.set die p h } else d

/-- Frames zeroed before the context pool: the partner-table store of 1 GiB on die 0 (R210, R424). -/
def storeFrames (die : Nat) : Nat := if die = 0 then 512 else 0

/-- The frames of a die that an allocation may take, ascending: in the open pool, zeroed, not in use and not waiting
to be zeroed. -/
def Dev.freeFrames (d : Dev) (die : Nat) : List Nat :=
  let p := d.poolOf die
  (List.range (min (d.openFrames die) (p.zeroed - storeFrames die))).filter (fun f =>
    !(p.used.contains f) && !(p.toZero.contains f))

/-- One frame of a die taken; which of the free ones is the device's choice (a free value, assumption 12). -/
def Dev.takeFrame (d : Dev) (die : Nat) : Option (Nat × Dev) :=
  match d.freeFrames die with
  | [] => none
  | fs =>
    let f := fs.getD (Config.freeNat d.free % fs.length) 0
    let p := d.poolOf die
    some (die * 65536 + f, (d.drew.setPool die { p with used := f :: p.used }))

/-- Frames taken one from each named die, or none of them. -/
def Dev.takeFrames (d : Dev) : List Nat → Option (List Nat × Dev)
  | [] => some ([], d)
  | die :: r =>
    match d.takeFrame die with
    | none => none
    | some (f, d) =>
      match d.takeFrames r with
      | none => none
      | some (fs, d) => some (f :: fs, d)

/-- A frame freed: no longer in use, and waiting to be zeroed behind the earlier ones (R246). -/
def Dev.freeFrame (d : Dev) (f : Nat) : Dev :=
  let die := f / 65536
  let p := d.poolOf die
  d.setPool die { p with used := p.used.filter (· != f % 65536), toZero := p.toZero ++ [f % 65536] }

def Dev.freeFrameList (d : Dev) (fs : List Nat) : Dev := fs.foldl Dev.freeFrame d

/-- The dies of n frames from number j on, by placement: 0 spread, 1 to 4 a die, 5 near on `nearDie` (R199). -/
def placeDies (placement nearDie j n : Nat) : List Nat :=
  (List.range n).map (fun i =>
    if placement = 0 then (j + i) % 4 else if placement ≤ 4 then placement - 1 else nearDie)

/-- Pages of 2 MiB that a size takes. -/
def pagesOf (size : Nat) : Nat := (size + 0x1FFFFF) / 0x200000

/-- The HBM address of a byte of a frame. -/
def frameAddr (frame off : Nat) : Nat := frame * 0x200000 + off

/-- The stack that holds a byte of a frame (R198): granules of 256 bytes over the die's stacks in service. -/
def Dev.stackAt (d : Dev) (frame off : Nat) : Nat :=
  let ss := d.dieStacks (frame / 65536)
  ss.getD (((frame % 65536) * 8192 + off / 256) % max ss.length 1) 0

/-- The pseudo-channel that holds a byte of a frame (R198). -/
def Dev.pcAt (d : Dev) (frame off : Nat) : Nat :=
  let h := ((frame % 65536) * 8192 + off / 256) / max (d.dieStacks (frame / 65536)).length 1
  (h % 64) ^^^ (h / 64 % 64)

/-! ## Page tables (R193, R254; Tables 7.4 and 9.2) -/

/-- VA_LIMIT of a context. -/
def Ctx.vaLimit (c : Ctx) : Nat := 2 ^ c.field 0x28 1
def Ctx.pte (c : Ctx) (page : Nat) : Nat := (tget c.ptab page 0).toNat
def Ctx.setPte (c : Ctx) (page v : Nat) : Ctx := { c with ptab := tset c.ptab page (BitVec.ofNat 64 v) }
/-- The page of the shadow entry of a versioned page. -/
def Ctx.shadowPage (c : Ctx) (page : Nat) : Nat := page + c.vaLimit / 0x400000

def pteValid (e : Nat) : Bool := e.testBit 0
def pteWritable (e : Nat) : Bool := e.testBit 1
def pteType (e : Nat) : Nat := bitsOf e 3 2
def pteVersioned (e : Nat) : Bool := e.testBit 6 && pteType e == 1
def pteCur (e : Nat) : Bool := e.testBit 7
def pteDirty (e : Nat) : Bool := e.testBit 8
/-- The frame of an entry, numbered die × 65,536 + frame. -/
def pteFrame (e : Nat) : Nat := bitsOf e 5 4 * 65536 + bitsOf e 36 21
/-- The host bus address of a T2 entry. -/
def pteBus (e : Nat) : Nat := e / 0x200000 * 0x200000

/-- A T1 entry for a frame: valid, writable or not, with its type (1 a page, 3 a shadow). -/
def mkPte (type frame : Nat) (writable versioned : Bool) : Nat :=
  1 + 2 * b2n writable + 4 * type + 16 * (frame / 65536) + 64 * b2n versioned + 0x200000 * (frame % 65536)
/-- A T2 entry for a bus address. -/
def mkPte2 (bus : Nat) (writable : Bool) : Nat := 1 + 2 * b2n writable + 8 + bus / 0x200000 * 0x200000

/-- Where a byte lies. -/
inductive Phys where
  | t1 (frame off : Nat)
  | t2 (bus : Nat)
  deriving DecidableEq, Repr

/-- The slot of a versioned page: the current one, or the other (R255). -/
def Ctx.slotFrame (c : Ctx) (page : Nat) (next : Bool) : Nat :=
  let e := c.pte page
  if !(pteVersioned e) then pteFrame e
  else if pteCur e == next then pteFrame e else pteFrame (c.pte (c.shadowPage page))

/-- An address translated: HBM_ADDRESS at or beyond VA_LIMIT and for an invalid or shadow page,
HBM_WRITE_PROTECT for a write to a page that is not writable (R193, R254). -/
def Ctx.translate (c : Ctx) (va : Nat) (write next : Bool) : W16 × Phys :=
  let page := va / 0x200000
  let e := c.pte page
  if c.vaLimit ≤ va ∨ !(pteValid e) ∨ pteType e = 3 then (Code.hbmAddress, .t2 0)
  else if write && !(pteWritable e) then (Code.hbmWriteProtect, .t2 0)
  else if pteType e = 2 then (0, .t2 (pteBus e + va % 0x200000))
  else (0, .t1 (c.slotFrame page next) (va % 0x200000))

/-! ## Objects -/

def Obj.isVersioned (o : Obj) : Bool := o.flags.getLsbD 5
def Obj.isLogged (o : Obj) : Bool := o.flags.getLsbD 6

/-- The address of an object in a context that holds it. -/
def Obj.addrIn (o : Obj) (x : Nat) : Option Nat := (o.holders.find? (fun h => h.1 == x)).map (·.2.2)

/-- The object of a context that an address lies in, by device object number. -/
def Dev.objAt (d : Dev) (x va : Nat) : Option (Nat × Obj) :=
  d.objs.find? (fun e => e.2.resident.isNone && (match e.2.addrIn x with
    | some a => decide (a ≤ va) && decide (va < a + e.2.size)
    | none => false))

def Dev.setObj (d : Dev) (n : Nat) (o : Obj) : Dev := { d with objs := tset d.objs n o }

/-- A context's object by local number. -/
def Dev.objOf (d : Dev) (x local_ : Nat) : Option (Nat × Obj) :=
  match (d.ctx x).objects.find? (fun e => e.1 == local_) with
  | some e => (tget? d.objs e.2).map (fun o => (e.2, o))
  | none => none

/-! ## Host memory -/

/-- A byte of host memory as the device reads it: what the device wrote there last, else a free byte of this
draw (assumption 2). -/
def Dev.hostByte (d : Dev) (bus : Nat) : Byte := (tget? d.hostMem bus).getD (Config.hostByte d.free bus)

/-- n bytes of host memory. -/
def Dev.hostReads (d : Dev) (bus : Nat) : Nat → List Byte
  | 0 => []
  | n + 1 => d.hostByte bus :: d.hostReads (bus + 1) n

/-- Bytes written to host memory: each is listed, 0 as well. -/
def hostWrites (m : Mem) (a : Nat) (bs : List Byte) : Mem :=
  match bs with
  | [] => m
  | b :: r => hostWrites (tset m a b) (a + 1) r

def Dev.hostWrite (d : Dev) (bus : Nat) (bs : List Byte) : Dev := { d with hostMem := hostWrites d.hostMem bus bs }

/-! ## Reads and writes at context addresses -/

/-- A range cut at 4 KiB borders: address and length of each piece. -/
def pieces (va n : Nat) : Nat → List (Nat × Nat)
  | 0 => []
  | k + 1 =>
    if n = 0 then []
    else
      let len := min n (0x1000 - va % 0x1000)
      (va, len) :: pieces (va + len) (n - len) k

def piecesOf (va n : Nat) : List (Nat × Nat) := pieces va n (n / 0x1000 + 2)

/-- The first status other than SUCCESS that translating a range meets. -/
def Ctx.rangeStatus (c : Ctx) (va n : Nat) (write : Bool) : W16 :=
  (piecesOf va n).foldl (fun s p => if s = 0 then (c.translate p.1 write false).1 else s) 0

/-! ## HBM, with the bytes that the spec leaves undefined (R255) -/

/-- A byte of HBM: of a range left undefined a free value, else what memory holds. -/
def Dev.hbmByte (d : Dev) (a : Nat) : Byte :=
  match d.undef.find? (fun u => decide (u.1 ≤ a) && decide (a < u.1 + u.2.1)) with
  | some u => Config.freeByte u.2.2 a
  | none => mread d.hbm a

def Dev.hbmReads (d : Dev) (a n : Nat) : List Byte :=
  if d.undef = [] then mreads d.hbm a n else (List.range n).map (fun i => d.hbmByte (a + i))

/-- Undefined ranges without the n bytes from a on. -/
def carve (us : List (Nat × Nat × Nat)) (a n : Nat) : List (Nat × Nat × Nat) :=
  us.flatMap (fun u =>
    if n = 0 ∨ a + n ≤ u.1 ∨ u.1 + u.2.1 ≤ a then [u]
    else
      (if u.1 < a then [(u.1, a - u.1, u.2.2)] else [])
      ++ (if a + n < u.1 + u.2.1 then [(a + n, u.1 + u.2.1 - (a + n), u.2.2)] else []))

def Dev.hbmWrite (d : Dev) (a : Nat) (bs : List Byte) : Dev :=
  { d with hbm := mwrites d.hbm a bs, undef := carve d.undef a bs.length }

/-- A frame cleared to zero. -/
def Dev.hbmClear (d : Dev) (frame : Nat) : Dev :=
  { d with hbm := mclear d.hbm (frameAddr frame 0) 0x200000, undef := carve d.undef (frameAddr frame 0) 0x200000 }

/-- The next slot of a versioned page at its first write of a gyle: what the gyle leaves unwritten is undefined
(R255). -/
def Dev.openSlot (d : Dev) (p : Phys) : Dev :=
  match p with
  | .t1 f _ =>
    { d.drew with undef := (frameAddr f 0, 0x200000, d.free) :: carve d.undef (frameAddr f 0) 0x200000 }
  | .t2 _ => d

/-! ## Lines cached (R201 to R203): what the caches hold, never what a read returns -/

/-- The lines of 128 bytes of a range of a place. -/
def linesOf (p : Phys) (n : Nat) : List Nat :=
  let a := match p with
    | .t1 f off => frameAddr f off
    | .t2 bus => 2 ^ 60 + bus
  (List.range ((a % 128 + n + 127) / 128)).map (fun i => a / 128 + i)

/-- A write invalidates its lines in every cluster cache but the writer's (R202); `writer` 32 or above is none. -/
def Dev.invalidateLines (d : Dev) (writer : Nat) (lines : List Nat) : Dev :=
  d.clusters.foldl (fun d e =>
    let gone := e.2.cache.filter (fun l => lines.contains l)
    if e.1 = writer ∨ gone = [] then d
    else
      (d.setCluster e.1 { e.2 with cache := e.2.cache.filter (fun l => !(lines.contains l)) }).count
        (hubKey e.1 1 0x810) gone.length) d

/-! ## Bytes of the stacks (R198, R221) -/

/-- Bytes below address a of a region that lie in granules of remainder k among n stacks. -/
def granuleBytes (a n k : Nat) : Nat := a / (256 * n) * 256 + min 256 (a % (256 * n) - 256 * k)

/-- The bytes of a range of a frame by stack, for the stacks that hold any. -/
def Dev.stackBytes (d : Dev) (frame off n : Nat) : List (Nat × Nat) :=
  let ss := d.dieStacks (frame / 65536)
  let a := frame % 65536 * 0x200000 + off
  (ss.zipIdx.map (fun s => (s.1, granuleBytes (a + n) ss.length s.2 - granuleBytes a ss.length s.2))).filter
    (fun s => decide (0 < s.2))

/-- Bytes of a frame read from its stacks are counted there. -/
def Dev.stackRead (d : Dev) (frame off n : Nat) : Dev :=
  (d.stackBytes frame off n).foldl (fun d s => d.count (hbmKey s.1 0 0x800) s.2) d
/-- Bytes of a frame written to its stacks are counted there. -/
def Dev.stackWrite (d : Dev) (frame off n : Nat) : Dev :=
  (d.stackBytes frame off n).foldl (fun d s => d.count (hbmKey s.1 0 0x808) s.2) d

/-- Bytes of a place read are counted where it is T1. -/
def Dev.placeRead (d : Dev) (p : Phys) (n : Nat) : Dev :=
  match p with
  | .t1 f off => d.stackRead f off n
  | .t2 _ => d

/-- The bytes of one place. -/
def Dev.physRead (d : Dev) (p : Phys) (n : Nat) : List Byte :=
  match p with
  | .t1 f off => d.hbmReads (frameAddr f off) n
  | .t2 bus => d.hostReads bus n

def Dev.physWrite (d : Dev) (p : Phys) (bs : List Byte) : Dev :=
  match p with
  | .t1 f off => d.hbmWrite (frameAddr f off) bs
  | .t2 bus => d.hostWrite bus bs

/-- Bytes written to a place by a unit: the stacks count them and other cluster caches lose the lines (R202, R221);
`writer` is the cluster that writes, 32 or above none. -/
def Dev.store (d : Dev) (writer : Nat) (p : Phys) (bs : List Byte) : Dev :=
  let d := (d.physWrite p bs).invalidateLines writer (linesOf p bs.length)
  match p with
  | .t1 f off => d.stackWrite f off bs.length
  | .t2 _ => d

/-- A read of n bytes of a context's memory: the status, and the bytes where it is SUCCESS. Versioned pages
give their current slot (R255). -/
def Dev.ctxRead (d : Dev) (x va n : Nat) : W16 × List Byte :=
  let c := d.ctx x
  let st := c.rangeStatus va n false
  if st = 0 then (0, (piecesOf va n).flatMap (fun p => d.physRead (c.translate p.1 false false).2 p.2))
  else (st, [])

/-- Bytes of T1 that a read of a context's memory takes from the stacks. -/
def Dev.stackReads (d : Dev) (x va n : Nat) : Dev :=
  (piecesOf va n).foldl (fun d p => d.placeRead ((d.ctx x).translate p.1 false false).2 p.2) d

/-- A read of a context's memory with its bytes counted. -/
def Dev.ctxFetch (d : Dev) (x va n : Nat) : W16 × List Byte × Dev :=
  let r := d.ctxRead x va n
  (r.1, r.2, if r.1 = 0 then d.stackReads x va n else d)

/-- A little-endian value of a context's memory; 0 where the read fails. -/
def Dev.ctxNat (d : Dev) (x va n : Nat) : Nat := leNat (d.ctxRead x va n).2

/-- Whether the gyle has voted and its decision is not yet applied (R262). -/
def Gyle.sealed (g : Gyle) : Bool := g.st == .voted || g.st == .applying

/-- Bitmap frames of the log of an object: one a 64 GiB (R257). -/
def bitmapFrames (size : Nat) : Nat := (size + 0xFFFFFFFFF) / 0x1000000000

/-- Pre-image places of a log: 511 a frame past the bitmap (R257). -/
def Obj.logCap (o : Obj) : Nat := (o.logFrames.length - bitmapFrames o.size) * 511

/-- The log frame that holds the i-th saved block of an object, past the bitmap frames (R257). -/
def Obj.logFrameOf (o : Obj) (i : Nat) : Nat := o.logFrames.getD (bitmapFrames o.size + i / 511) 0

/-- Where the touched bit of an object's block k lies: the byte. -/
def Obj.touchPlace (o : Obj) (k : Nat) : Phys := .t1 (o.logFrames.getD (k / 2 ^ 24) 0) (k % 2 ^ 24 / 8)

/-- The byte with the touched bit of block k. -/
def Dev.touchByte (d : Dev) (o : Obj) (k : Nat) : Nat := leNat (d.physRead (o.touchPlace k) 1)

/-- The saved blocks of an object in index order, as its log frames hold them: context address and contents. -/
def Dev.logEntries (d : Dev) (o : Obj) : List (Nat × List Byte) :=
  (List.range o.logged).map (fun i =>
    (leNat (d.physRead (.t1 (o.logFrameOf i) (i % 511 * 8)) 8),
      d.physRead (.t1 (o.logFrameOf i) ((1 + i % 511) * 0x1000)) 0x1000))

/-- Before the first write of a gyle to a block of a logged object, its contents go to the next log slot, its address
to the index, whose count rises, and its touched bit is set; none where no log slot is free (R257, R258). The entry
count at byte 4,088 takes the 8 bytes up to the block's end. -/
def Dev.logBlock (d : Dev) (x n : Nat) (o : Obj) (va : Nat) : Option Dev :=
  let block := va / 0x1000 * 0x1000
  let k := (block - (o.addrIn x).getD 0) / 0x1000
  if bitAt (d.touchByte o k) (k % 8) then some d
  else if o.logCap ≤ o.logged then none
  else
    let i := o.logged
    let put := fun (d : Dev) (off : Nat) (bs : List Byte) => d.store 32 (.t1 (o.logFrameOf i) off) bs
    let d := put d ((1 + i % 511) * 0x1000) (d.physRead ((d.ctx x).translate block false false).2 0x1000)
    let d := put (put d (i % 511 * 8) (leBytes 8 block)) 4088 (leBytes 8 (i % 511 + 1))
    let d := d.store 32 (o.touchPlace k) (leBytes 1 (d.touchByte o k ||| 2 ^ (k % 8)))
    some (d.setObj n { o with logged := i + 1 })

/-- The piece of a write that lies in one block, with the rules of versioned and logged objects (R255, R258, R262).
In IDLE and HELD a write goes to the current slot and is not logged (R259). -/
def Dev.ctxWritePiece (d : Dev) (writer x va : Nat) (bs : List Byte) : W16 × Dev :=
  let c := d.ctx x
  let page := va / 0x200000
  let e := c.pte page
  let obj := d.objAt x va
  let logged := match obj with
    | some o => o.2.isLogged
    | none => false
  if c.gyle.sealed && (pteVersioned e || logged) then (Code.gyleSealed, d)
  else
    let running := c.gyle.st == .running
    let next := running && pteVersioned e
    let t := c.translate va true next
    if t.1 ≠ 0 then (t.1, d)
    else
      match (if running && logged then obj.bind (fun o => d.logBlock x o.1 o.2 va) else some d) with
      | none => (Code.gyleLogFull, d)
      | some d =>
        let first := next && !(pteDirty e)
        let d := (if first then d.openSlot t.2 else d).store writer t.2 bs
        (0, if first then d.modCtx x (fun c => c.setPte page (e + 256)) else d)

/-- Pieces of a write by a unit other than a hub, in ascending order, up to the first that fails. -/
def Dev.ctxWritePieces (d : Dev) (x : Nat) (bs : List Byte) : List (Nat × Nat) → W16 × Dev
  | [] => (0, d)
  | p :: r =>
    let w := d.ctxWritePiece 32 x p.1 (bs.take p.2)
    if w.1 = 0 then w.2.ctxWritePieces x (bs.drop p.2) r else w

/-- A write to a context's memory: a range that translation refuses writes nothing (R193). -/
def Dev.ctxWrite (d : Dev) (x va : Nat) (bs : List Byte) : W16 × Dev :=
  let st := (d.ctx x).rangeStatus va bs.length true
  if st = 0 then d.ctxWritePieces x bs (piecesOf va bs.length) else (st, d)

/-! ## Translations cached (R194) -/

/-- Every hub drops its translations of a context (R194, R271). -/
def Dev.dropXlate (d : Dev) (x : Nat) : Dev :=
  { d with clusters := d.clusters.map (fun e => (e.1, { e.2 with xlate := e.2.xlate.filter (fun t => t.1 != x) })) }

end Sys2Proof.Machine
end

