-- ==== Sys2Proof/Machine/Operands.lean ====
section
/-! DEFINITION. Descriptor fields, operand addresses and grants (R84 to R86), the issue checks of Table 5.1,
masks and durations, and reads and writes of operands. -/

namespace Sys2Proof.Machine

/-! ## Descriptor fields (Tables 4.4 to 4.9) -/

/-- The n bytes at an offset of a descriptor, as a value. -/
def dN (b : List Byte) (off n : Nat) : Nat := leNat ((b.drop off).take n)

def dEngine (b : List Byte) : Nat := dN b 0 1 % 16
def dOp (b : List Byte) : Nat := dN b 1 1
def dInFmt (b : List Byte) : Nat := dN b 2 1 % 16
def dInMx (b : List Byte) : Bool := bitAt (dN b 2 1) 4
def dOutFmt (b : List Byte) : Nat := dN b 3 1 % 16
def dOutMx (b : List Byte) : Bool := bitAt (dN b 3 1) 4
def dRnd (b : List Byte) : Nat := bitsOf (dN b 3 1) 6 5
def dOvf (b : List Byte) : Bool := bitAt (dN b 3 1) 7
def dStream (b : List Byte) : Nat := dN b 4 2
def dMasks (b : List Byte) : Nat := dN b 6 2
def dSeed (b : List Byte) : Nat := bitsOf (dMasks b) 13 12
def dMargin (b : List Byte) : Nat := bitsOf (dMasks b) 15 14
def dIndexBase (b : List Byte) : Nat := dN b 8 4
/-- The signed byte at an offset. -/
def dSigned8 (b : List Byte) (off : Nat) : Int := signedField (dN b off 1) 8
/-- A stride field, in bytes. -/
def dStride (b : List Byte) (off : Nat) : Nat := dN b off 2 * 16

/-- The LEN index of a mask field (0 rows, 1 columns, 2 K), none where it is not enabled. -/
def dMask (b : List Byte) (which : Nat) : Option Nat :=
  if bitAt (dMasks b) (4 * which + 3) then some (bitsOf (dMasks b) (4 * which + 2) (4 * which)) else none

/-- Matrix tile body (Table 4.5). -/
def dM (b : List Byte) : Nat := dN b 0x18 2
def dTileN (b : List Byte) : Nat := dN b 0x1A 2
def dK (b : List Byte) : Nat := dN b 0x1C 2
def dCtl (b : List Byte) : Nat := dN b 0x36 2
def dSparsity (b : List Byte) : Nat := bitsOf (dCtl b) 1 0
def dAccAdd (b : List Byte) : Bool := bitAt (dCtl b) 2
def dOutEn (b : List Byte) : Bool := bitAt (dCtl b) 3
def dAmaxEn (b : List Byte) : Bool := bitAt (dCtl b) 4
def dTileScale (b : List Byte) : Nat := bitsOf (dCtl b) 7 6

/-! ## Operand addresses (R84) -/

/-- The value that means "absent" in an optional address field. -/
def absent : Nat := 0xFFFFFFFF
def opTarget (a : Nat) : Nat := a / 2 ^ 29 % 8
def opOffset (a : Nat) : Nat := a % 2 ^ 22

/-- An address field of a descriptor: where it stands, whether target 5 may stand in it, whether it is the
accumulator or the weight field, and whether it may not be absent. -/
structure AddrField where
  off : Nat
  acc : Bool
  /-- 0 plain, 1 acc_off, 2 w_addr -/
  role : Nat
  need : Bool
  deriving DecidableEq, Repr

/-- The table field of a gather descriptor names HBM, not an operand address (R109). -/
def tableHbm (b : List Byte) : Bool := bitAt (dN b 0x18 8) 63

/-- The address fields of a descriptor. A field that the operation does not use may be absent (assumption 13). -/
def addrFields (b : List Byte) : List AddrField :=
  match dEngine b with
  | 0 =>
    [⟨0x10, false, 0, true⟩, ⟨0x14, false, 2, true⟩, ⟨0x20, true, 1, true⟩, ⟨0x28, false, 0, false⟩,
      ⟨0x2C, false, 0, false⟩, ⟨0x30, false, 0, dOutEn b⟩, ⟨0x38, false, 0, dAmaxEn b⟩,
      ⟨0x3C, false, 0, dOutEn b && dTileScale b != 0⟩]
  | 1 =>
    [⟨0x10, true, 0, true⟩, ⟨0x14, false, 0, true⟩, ⟨0x18, false, 0, dN b 0x28 1 != 0⟩, ⟨0x1C, false, 0, false⟩]
  | 2 =>
    [⟨0x10, true, 0, false⟩, ⟨0x14, true, 0, false⟩, ⟨0x18, true, 0, false⟩, ⟨0x1C, false, 0, true⟩,
      ⟨0x20, false, 0, false⟩, ⟨0x30, false, 0, true⟩]
  | 3 =>
    [⟨0x10, true, 0, true⟩, ⟨0x14, false, 0, true⟩, ⟨0x18, false, 0, dOp b != 4⟩, ⟨0x1C, false, 0, decide (2 ≤ dOp b)⟩,
      ⟨0x20, false, 0, dOp b == 1 || dOp b == 2⟩]
  | 4 =>
    [⟨0x10, false, 0, true⟩, ⟨0x14, false, 0, true⟩]
    ++ (if tableHbm b then [] else [⟨0x18, false, 0, dOp b != 3⟩])
    ++ [⟨0x30, false, 0, dOp b == 3 || dOp b == 4⟩, ⟨0x34, false, 0, dOp b == 4⟩]
  | 6 => [⟨0x10, false, 0, true⟩, ⟨0x14, false, 0, true⟩]
  | 7 => [⟨0x10, false, 0, true⟩, ⟨0x14, false, 0, dOp b == 0⟩, ⟨0x18, false, 0, true⟩]
  | 8 => [⟨0x10, false, 0, true⟩]
  | 9 => [⟨0x10, false, 0, true⟩, ⟨0x14, false, 0, true⟩]
  | _ => []

/-- Whether an address field breaks R84. -/
def addrBad (b : List Byte) (f : AddrField) : Bool :=
  let a := dN b f.off 4
  if a == absent then f.need
  else
    bitsOf a 28 22 != 0
    || (match f.role with
      | 1 => opTarget a != 5
      | 2 => opTarget a != 0 && opTarget a != 7
      | _ => opTarget a == 6 || opTarget a == 7 || (opTarget a == 5 && !f.acc))

/-! ## Check 1: header and body fields (R96, R491) -/

/-- Reserved format codes and pairings of code and MX bit. -/
def fmtReserved (code : Nat) (mx : Bool) : Bool :=
  decide (10 ≤ code) || (mx && (code == 0 || code == 1 || code == 2 || code == 9))
  || (!mx && (code == 5 || code == 6))

/-- Formats without MX that a list names. -/
def oneOf (code : Nat) (mx : Bool) (codes : List Nat) : Bool := !mx && codes.contains code

/-- in_fmt is accepted by the engine (Table 4.15). -/
def inFmtOk (b : List Byte) : Bool :=
  let c := dInFmt b
  let mx := dInMx b
  match dEngine b with
  | 0 => c != 9
  | 1 => oneOf c mx [0, 1, 2, 3, 4, 8, 9, 7]
  | 2 => oneOf c mx [0, 1, 2, 3, 4, 8, 9, 7]
  | 3 => oneOf c mx [0, 1, 2]
  | 4 => dOp b != 2 || oneOf c mx [0, 1, 2, 3, 4]
  | 6 => oneOf c mx [0, 1, 2, 3, 4, 8, 9, 7]
  | 7 => oneOf c mx [0, 1, 2, 3, 4, 8]
  | _ => true

/-- out_fmt is accepted by the engine (Table 4.15). -/
def outFmtOk (b : List Byte) : Bool :=
  let c := dOutFmt b
  let mx := dOutMx b
  match dEngine b with
  | 0 => !(dOutEn b) || c != 9
  | 1 => c != 9
  | 2 => oneOf c mx [0, 1, 2, 3, 4, 8, 7]
  | 3 => oneOf c mx [0, 1, 2, 3, 4]
  | 4 => dOp b != 2 || oneOf c mx [0, 1, 2]
  | 7 => oneOf c mx [0, 1, 2, 3, 4, 8]
  | 8 => (dOp b != 3 && dOp b != 5) || oneOf c mx [0, 1, 2, 3, 4]
  | _ => true

/-- Whether every byte from an offset up to the end of the descriptor is zero. -/
def zeroFrom (b : List Byte) (off : Nat) : Bool := (b.drop off).all (· == 0)

/-- The elements of a table row of SCATTER_ADD, and the bytes of a dense row (R109). -/
def scatterElems (b : List Byte) : Nat := dN b 0x28 2 * 8 / fmtBits (dOutFmt b)
def densePitch (b : List Byte) : Nat :=
  if dOp b = 2 then scatterElems b * fmtBits (dInFmt b) / 8 else dN b 0x28 2

/-- A reserved op, a value outside the range of its field, or a non-zero reserved position in the body. -/
def bodyBad (b : List Byte) : Bool :=
  match dEngine b with
  | 0 =>
    dOp b != 0 || dN b 0x24 4 != absent || dSparsity b == 3 || bitAt (dCtl b) 5 || bitsOf (dCtl b) 15 8 != 0
    || (if dTileScale b == 3 then dN b 0x0C 1 == 0x80 else dN b 0x0C 1 != 0)
    || (dOutEn b && ((dTileScale b == 2) != dOutMx b))
  | 1 =>
    dOp b != 0 || dN b 0x20 2 == 0 || dN b 0x22 2 == 0 || decide (3 < dN b 0x28 1) || dN b 0x29 1 == 0x80
    || ((dN b 0x28 1 == 2) != dOutMx b) || (dN b 0x28 1 == 2 && dN b 0x22 2 % 32 != 0) || !(zeroFrom b 0x2A)
  | 2 =>
    dOp b != 0 || dN b 0x24 2 == 0 || dN b 0x26 2 == 0 || bitAt (dN b 0x2C 1) 7
    || dN b 0x2D 1 == 0 || decide (16 < dN b 0x2D 1) || decide (2 < dN b 0x2E 1) || dN b 0x2F 1 != 0
  | 3 =>
    decide (4 < dOp b) || dN b 0x24 2 == 0 || dN b 0x26 2 == 0 || decide (1 < dN b 0x34 1) || !(zeroFrom b 0x35)
  | 4 =>
    decide (5 < dOp b) || dN b 0x28 2 % 16 != 0
    || (dOp b == 4 && (dN b 0x2A 2 == 0 || decide (256 < dN b 0x2A 2)))
    || (dOp b == 2 && densePitch b % 16 != 0)
    || (if tableHbm b then bitsOf (dN b 0x18 8) 62 48 != 0 else dN b 0x1C 4 != 0)
    || decide (1 < dN b 0x38 1) || !(zeroFrom b 0x39)
  | 6 => dOp b != 0 || dN b 0x18 2 == 0 || dN b 0x1A 2 == 0 || !(zeroFrom b 0x20)
  | 7 =>
    decide (1 < dOp b) || dN b 0x1C 2 == 0 || dN b 0x1E 2 == 0 || dN b 0x22 2 == 0 || decide (64 < dN b 0x22 2)
    || !(zeroFrom b 0x2C)
  | 8 => decide (5 < dOp b) || !(zeroFrom b 0x1C)
  | 9 =>
    dOp b != 0 || dN b 0x18 2 == 0 || dN b 0x1A 2 == 0 || dN b 0x1A 2 % 16 != 0 || !(zeroFrom b 0x20)
  | _ => true

/-- A mask enabled on an engine with no such dimension (R493). -/
def maskBad (b : List Byte) : Bool :=
  ((dMask b 2).isSome && dEngine b != 0)
  || ((dMask b 1).isSome && !([0, 1, 2, 3, 6, 7].contains (dEngine b)))

/-- Reserved positions of the header (Table 4.4). -/
def headerBad (b : List Byte) : Bool :=
  bitsOf (dN b 0 1) 7 4 != 0 || bitsOf (dN b 2 1) 7 5 != 0 || dN b 0x0D 1 != 0
  || (dEngine b != 0 && dN b 0x0C 1 != 0)

/-- Check 1 of Table 5.1; `named` is the engine of the ISSUE, none at program load where the ISSUE names an
offset that is not known. -/
def check1 (b : List Byte) (named : Option Nat) : W16 :=
  if dEngine b = 5 ∨ 10 ≤ dEngine b then Code.descEngineReserved
  else if fmtReserved (dInFmt b) (dInMx b) || fmtReserved (dOutFmt b) (dOutMx b) || dRnd b == 3 then
    Code.descFormatReserved
  else if !(inFmtOk b) || !(outFmtOk b) then Code.descFormatUnsupported
  else if headerBad b || bodyBad b || maskBad b || (addrFields b).any (addrBad b)
      || (named.isSome && named != some (dEngine b)) then Code.descFieldInvalid
  else 0

/-! ## Checks 2 to 5, 8 and 9 (R127, R130, R94) -/

/-- Activation rows per stream step (Table 3.2). -/
def rpc (code : Nat) : Nat :=
  match code with
  | 3 => 2 | 4 => 2 | 8 => 2 | 5 => 2 | 6 => 2 | 7 => 4 | _ => 1

/-- K rows that a pass covers. -/
def passK (sparsity : Nat) : Nat := if sparsity = 1 then 128 else 64

/-- Fold width: 64 on a whole array, 32 on a half (R78). -/
def foldWidth (kind : Nat) : Nat := if kind = 0 then 64 else 32

def checkShape (b : List Byte) : W16 :=
  if dM b = 0 ∨ 8192 < dM b then Code.shapeM
  else if dTileN b < 64 ∨ 512 < dTileN b ∨ dTileN b % 64 ≠ 0 then Code.shapeN
  else if dK b < 64 ∨ 4096 < dK b ∨ dK b % passK (dSparsity b) ≠ 0 then Code.shapeK
  else if dSparsity b = 1 && !([3, 4, 8, 7].contains (dInFmt b)) then Code.sparsityMode
  else 0

/-- Bytes of the accumulator grant in force. -/
def accGrant (kind : Nat) : Nat := if kind = 0 then 0x80000 else 0x40000
/-- Bytes of an accumulator row of the grant. -/
def accRow (kind : Nat) : Nat := if kind = 0 then 256 else 128

/-- Slot size of R130. -/
def accSlotSize (kind accSlots : Nat) : Nat := accGrant kind / max accSlots 1 / accRow kind * accRow kind

/-- Check 8: acc_off at a slot start, and the footprint within the slot size (R130). -/
def checkAccSlot (b : List Byte) (kind accSlots : Nat) : W16 :=
  let size := accSlotSize kind accSlots
  let off := opOffset (dN b 0x20 4)
  if off % max size 1 = 0 ∧ off / max size 1 < accSlots ∧ dM b * dTileN b * 4 ≤ size then 0 else Code.accSlot

/-- Bytes of the weight block of a pass, with its side data, in a fold of the given width (Table 3.2, R94, R219). -/
def blockBytes (b : List Byte) (width : Nat) : Nat :=
  (if dInFmt b = 0 then 2 * 64 * width * 2 else 64 * width * fmtBits (dInFmt b) / 8)
  + (if dSparsity b = 1 then 16 * width else 0)
  + (if dInMx b then (if dSparsity b = 2 then 8 else if dSparsity b = 1 then 4 else 2) * width else 0)
  + (if dSparsity b = 2 then 64 else 0)

/-- Bytes of a weight-buffer plane (R93). -/
def planeSize (kind : Nat) : Nat := if kind = 0 then 0x8000 else 0x4000

/-- Check 9: weight demand of a pass within one plane. -/
def checkDemand (b : List Byte) (kind : Nat) : W16 :=
  if blockBytes b (foldWidth kind) ≤ planeSize kind then 0 else Code.wbDemand

/-! ## Masks (R134, R493) and durations (R98, R131) -/

/-- A count limited by a length register, row origin o. -/
def limited (len : Vector W32 8) (mask : Option Nat) (origin count : Nat) : Nat :=
  match mask with
  | none => count
  | some i => min (((len.toList.getD i 0).toInt - origin).toNat) count

/-- Rows and columns of a descriptor of another engine than 0 before masks; `count` where it has one
dimension. -/
def shapeOf (b : List Byte) : Nat × Nat :=
  match dEngine b with
  | 1 => (dN b 0x20 2, dN b 0x22 2)
  | 2 => (dN b 0x24 2, dN b 0x26 2)
  | 3 => (dN b 0x24 2, dN b 0x26 2)
  | 4 => (dN b 0x20 4, 1)
  | 6 => (dN b 0x18 2, dN b 0x1A 2)
  | 7 => (dN b 0x1C 2, dN b 0x1E 2)
  | 8 => (dN b 0x14 4, 1)
  | 9 => (dN b 0x18 2, 1)
  | _ => (dM b, dTileN b)

/-- Valid rows, columns and K (R134, R493). -/
def extents (b : List Byte) (len : Vector W32 8) (origin : Nat) : Nat × Nat × Nat :=
  (limited len (dMask b 0) origin (shapeOf b).1, limited len (dMask b 1) 0 (shapeOf b).2,
    limited len (dMask b 2) 0 (dK b))

def ceilDiv (a b : Nat) : Nat := (a + b - 1) / b

/-- D of R131. -/
def tileEstimate (b : List Byte) (kind : Nat) (emuOne : Bool) (rv cv kv : Nat) : Nat :=
  (if dInFmt b = 0 && !emuOne then 3 else 1) * ceilDiv cv (foldWidth kind) * ceilDiv kv (passK (dSparsity b))
    * max (ceilDiv rv (rpc (dInFmt b))) 64

/-- Work units of a descriptor of another engine over its unmasked shape (R98). -/
def workOf (b : List Byte) (rv cv : Nat) : Nat :=
  match dEngine b with
  | 1 => rv * cv * (if dN b 0x28 1 = 1 ∧ dN b 0x1C 4 = absent then 2 else 1)
  | 2 => rv * ceilDiv cv 64 * dN b 0x2D 1 * 64
  | 3 => rv * cv
  | 4 => if dOp b = 3 then 4 * rv else if dOp b = 2 then 2 * dN b 0x28 2 * rv else dN b 0x28 2 * rv
  | 6 => rv * rowBytes cv (fmtBits (dInFmt b))
  | 7 => rv * cv
  | 8 =>
    (match dOp b with
      | 0 => ceilDiv rv 16
      | 1 => ceilDiv rv 8
      | 5 => ceilDiv rv 2
      | _ => ceilDiv rv 4)
  | 9 => rv * dN b 0x1A 2
  | _ => 0

/-- Work units per cycle (Table 4.3). -/
def throughput (engine : Nat) : Nat :=
  match engine with
  | 4 => 128 | 6 => 128 | 9 => 128 | 8 => 4 | _ => 64

/-- The duration of R98, in cycles. -/
def durationOf (b : List Byte) (rv cv : Nat) : Nat := ceilDiv (workOf b rv cv) (throughput (dEngine b))

/-- Check 10. -/
def checkDuration (b : List Byte) (kind : Nat) (emuOne : Bool) (rv cv kv : Nat) : W16 :=
  if dEngine b = 0 then (if tileEstimate b kind emuOne rv cv kv ≤ 16384 then 0 else Code.tileDuration)
  else if durationOf b rv cv ≤ 16384 then 0 else Code.engineDuration

/-- The estimate of R237. -/
def estimateOf (b : List Byte) (kind : Nat) (emuOne : Bool) (rv cv kv : Nat) : Nat :=
  if dEngine b = 0 then
    tileEstimate b kind emuOne rv cv kv + (if dOutEn b then ceilDiv (rv * cv) 64 else 0)
  else durationOf b rv cv

/-- The first of some statuses that is not SUCCESS. -/
def firstFail : List W16 → W16
  | [] => 0
  | s :: r => if s = 0 then firstFail r else s

/-- The checks of Table 5.1 that program load applies too (R129), lengths ignored. -/
def loadChecks (b : List Byte) (named : Option Nat) (kind accSlots : Nat) (emuOne : Bool) : W16 :=
  let c1 := check1 b named
  if c1 ≠ 0 then c1
  else
    let anyLen := (dMask b 0).isSome || (dMask b 1).isSome || (dMask b 2).isSome
    let e := shapeOf b
    if dEngine b = 0 then
      firstFail [checkShape b, checkAccSlot b kind accSlots, checkDemand b kind,
        if anyLen then 0 else checkDuration b kind emuOne e.1 e.2 (dK b)]
    else if anyLen then 0 else checkDuration b kind emuOne e.1 e.2 0

/-! ## Check 7: operand spans (R85, R494) -/

/-- An operand of a descriptor: its address field, rows, pitch and bytes of a row, and whether it is written. -/
structure Span where
  field : Nat
  rows : Nat
  pitch : Nat
  bytes : Nat
  write : Bool
  deriving DecidableEq, Repr

/-- The span in bytes of a 2-D operand. -/
def Span.len (s : Span) : Nat := if s.rows = 0 ∨ s.bytes = 0 then 0 else (s.rows - 1) * s.pitch + s.bytes

/-- Slot width of a generator operation in bits of its destination. -/
def genBits (b : List Byte) : Nat :=
  match dOp b with
  | 0 => 8 | 1 => 16 | 2 => 32 | 4 => 1 | _ => fmtBits (dOutFmt b)

/-- The operands of a descriptor, at its full shape (R494; assumption 13 for the engines that R494 does not
name). Fields that the operation does not use, or that hold the absent value, have no span. -/
def spansOf (b : List Byte) : List Span :=
  let ib := fmtBits (dInFmt b)
  let ob := fmtBits (dOutFmt b)
  let all : List Span := match dEngine b with
    | 0 =>
      [⟨0x10, dM b, dStride b 0x1E, rowBytes (dK b) ib, false⟩,
        ⟨0x28, 1, 0, if dInMx b then dM b * (dK b / 32) else dK b / 64, false⟩,
        ⟨0x2C, 1, 0, ceilDiv (dM b) 8, false⟩]
      ++ (if dOutEn b then
            [⟨0x30, dM b, dStride b 0x34, rowBytes (dTileN b) ob, true⟩]
            ++ (if dTileScale b = 0 then [] else [⟨0x3C, 1, 0, if dTileScale b = 2 then dM b * (dTileN b / 32) else 1, true⟩])
          else [])
      ++ (if dAmaxEn b then [⟨0x38, 1, 0, 4, true⟩] else [])
      ++ [⟨0x20, 1, 0, dM b * dTileN b * 4, true⟩]
    | 1 =>
      let r := dN b 0x20 2
      let c := dN b 0x22 2
      [⟨0x10, r, dStride b 0x24, rowBytes c ib, false⟩, ⟨0x14, r, dStride b 0x26, rowBytes c ob, true⟩]
      ++ (if dN b 0x28 1 = 0 then [] else [⟨0x18, 1, 0, if dN b 0x28 1 = 2 then r * (c / 32) else 1, true⟩])
      ++ (if dN b 0x28 1 = 1 then [⟨0x1C, 1, 0, 4, false⟩] else [])
    | 2 =>
      let r := dN b 0x24 2
      let c := dN b 0x26 2
      let out0 := if dN b 0x2E 1 = 0 then c else 1
      [⟨0x10, r, dStride b 0x28, rowBytes c ib, false⟩, ⟨0x14, r, dStride b 0x28, rowBytes c ib, false⟩,
        ⟨0x18, r, dStride b 0x28, rowBytes c ib, false⟩, ⟨0x1C, r, dStride b 0x2A, rowBytes out0 ob, true⟩]
      ++ (if bitAt (dN b 0x2C 1) 6 then [⟨0x20, r, dStride b 0x2A, rowBytes c ob, true⟩] else [])
      ++ [⟨0x30, 1, 0, dN b 0x2D 1 * 2, false⟩]
    | 3 =>
      let r := dN b 0x24 2
      let c := dN b 0x26 2
      [⟨0x10, r, dStride b 0x28, rowBytes c ib, false⟩, ⟨0x14, r, dStride b 0x2A, rowBytes c ob, true⟩]
      ++ (if dOp b = 4 then [] else [⟨0x18, 1, 0, 8 * r, true⟩])
      ++ (if 2 ≤ dOp b then [⟨0x1C, 1, 0, 4 * r, dOp b != 4⟩] else [])
      ++ (if dOp b = 1 ∨ dOp b = 2 then [⟨0x20, 1, 0, 4 * r, true⟩] else [])
    | 4 =>
      let n := dN b 0x20 4
      let rb := dN b 0x28 2
      if dOp b = 3 then
        [⟨0x14, 1, 0, ceilDiv n 8, false⟩, ⟨0x10, 1, 0, 4 * n, true⟩, ⟨0x30, 1, 0, 4, true⟩]
      else
        [⟨0x14, 1, 0, 4 * n, false⟩, ⟨0x10, 1, 0, n * densePitch b, dOp b == 0 || dOp b == 5⟩]
        ++ (if tableHbm b then []
            else [⟨0x18, 1, 0, (if dOp b = 4 then n else dN b 0x24 4) * rb, dOp b != 0 && dOp b != 5⟩])
        ++ (if dOp b = 4 then [⟨0x30, 1, 0, 4 * dN b 0x2A 2, true⟩, ⟨0x34, 1, 0, 4 * n, true⟩] else [])
    | 6 =>
      let r := dN b 0x18 2
      let c := dN b 0x1A 2
      [⟨0x10, r, dStride b 0x1C, rowBytes c ib, false⟩, ⟨0x14, c, dStride b 0x1E, rowBytes r ib, true⟩]
    | 7 =>
      let r := dN b 0x1C 2
      let k := dN b 0x22 2
      [⟨0x10, r, dStride b 0x20, rowBytes (dN b 0x1E 2) ib, false⟩]
      ++ (if dOp b = 0 then [⟨0x14, 1, 0, r * rowBytes k ob, true⟩, ⟨0x18, 1, 0, r * k * 4, true⟩]
          else [⟨0x18, 1, 0, r * 4, true⟩])
    | 8 => [⟨0x10, 1, 0, rowBytes (dN b 0x14 4) (genBits b), true⟩]
    | 9 =>
      let r := dN b 0x18 2
      let n := dN b 0x1A 2
      [⟨0x10, r, dStride b 0x1C, n, false⟩, ⟨0x14, r, dStride b 0x1E, n, true⟩]
    | _ => []
  all.filter (fun s => dN b s.field 4 != absent)

/-! ## Grants (R85, R86, R90) -/

/-- The mesh neighbour of a core in a direction, 1 north, 2 east, 3 south, 4 west (R86). -/
def neighbour (core dir : Nat) : Option Nat :=
  let k := core % 16
  match dir with
  | 1 => if 4 ≤ k then some (core - 4) else none
  | 2 => if k % 4 ≠ 3 then some (core + 1) else none
  | 3 => if k ≤ 11 then some (core + 4) else none
  | 4 => if k % 4 ≠ 0 then some (core - 1) else none
  | _ => none

/-- The size of the range that a target names for a slot. -/
def Slot.grantOf (s : Slot) (target : Nat) : Nat :=
  match target with
  | 0 => s.bound
  | 5 => accGrant s.kind
  | t => s.nbound.toList.getD (t - 1) 0

/-- The status of an offset and span at a target: legal where the span ends within the grant, an empty one too (R85). -/
def Slot.boundStatus (s : Slot) (target : Nat) (off : Int) (len : Nat) : W16 :=
  if 0 ≤ off ∧ off < 2 ^ 22 ∧ off + len ≤ s.grantOf target then 0
  else if target = 5 then Code.accBound else Code.spadBound

/-- Where a byte of a slot's accumulator grant lies: a half holds its 32 columns of every row (R90). -/
def accPhys (kind off : Nat) : Nat :=
  if kind = 0 then off else off / 128 * 256 + (kind - 1) * 128 + off % 128

/-- The scratchpad that a target names: core and physical address. -/
def spadAt (n : Nat) (s : Slot) (target off : Nat) : Nat × Nat :=
  if target = 0 then (n, s.base + off)
  else ((neighbour n target).getD n, s.nbase.toList.getD (target - 1) 0 + off)

/-- n bytes of an operand of a slot. -/
def Dev.opRead (d : Dev) (core : Nat) (t : SlotIx) (target off n : Nat) : List Byte :=
  let s := d.slot core t
  if target = 5 then (List.range n).map (fun i => mread (d.core core).acc (accPhys s.kind (off + i)))
  else
    let p := spadAt core s target off
    mreads (d.core p.1).spad p.2 n

/-- Bytes written to the accumulator grant of a kind. -/
def accWrite (kind : Nat) (m : Mem) (off : Nat) : List Byte → Mem
  | [] => m
  | b :: r => accWrite kind (mwrite m (accPhys kind off) b) (off + 1) r

/-- Bytes written to an operand of a slot. -/
def Dev.opWrite (d : Dev) (core : Nat) (t : SlotIx) (target off : Nat) (bs : List Byte) : Dev :=
  let s := d.slot core t
  if target = 5 then d.modCore core (fun c => { c with acc := accWrite s.kind c.acc off bs })
  else
    let p := spadAt core s target off
    d.modCore p.1 (fun c => { c with spad := mwrites c.spad p.2 bs })

/-- Granules of 64 bytes that a range of a neighbour's scratchpad covers are counted there (Table 4.13). -/
def Dev.countNbr (d : Dev) (core : Nat) (t : SlotIx) (target off len : Nat) : Dev :=
  if len = 0 ∨ target = 0 ∨ 5 ≤ target then d
  else
    let p := spadAt core (d.slot core t) target off
    d.count (coreKey p.1 4 0x808) ((p.2 % 64 + len + 63) / 64)

/-- The neighbour granules of a descriptor's operands, each operand once (assumption 14). -/
def Dev.countNbrs (d : Dev) (core : Nat) (t : SlotIx) (b : List Byte) : Dev :=
  (spansOf b).foldl (fun d s =>
    let a := dN b s.field 4
    (List.range s.rows).foldl (fun d i => d.countNbr core t (opTarget a) (opOffset a + i * s.pitch) s.bytes)
      d) d

/-- A descriptor's operand row: the target and offset of row i. -/
def rowAt (b : List Byte) (field pitch i : Nat) : Nat × Nat :=
  (opTarget (dN b field 4), opOffset (dN b field 4) + i * pitch)

def Dev.fieldRead (d : Dev) (core : Nat) (t : SlotIx) (b : List Byte) (field off n : Nat) : List Byte :=
  d.opRead core t (opTarget (dN b field 4)) (opOffset (dN b field 4) + off) n
def Dev.fieldWrite (d : Dev) (core : Nat) (t : SlotIx) (b : List Byte) (field off : Nat) (bs : List Byte) : Dev :=
  d.opWrite core t (opTarget (dN b field 4)) (opOffset (dN b field 4) + off) bs

/-- The elements of a row of an operand. -/
def Dev.rowElems (d : Dev) (core : Nat) (t : SlotIx) (b : List Byte) (field off w n : Nat) : List Nat :=
  let row := d.fieldRead core t b field off (rowBytes n w)
  (List.range n).map (unpackElem row w)

/-- The first elements of a row of `full` elements written. A whole row pads its last byte with zero bits (R27);
of a row that a mask cuts short, the bits beyond its elements keep their contents (R493). -/
def Dev.rowStore (d : Dev) (core : Nat) (t : SlotIx) (b : List Byte) (field off w full : Nat) (xs : List Nat) : Dev :=
  let n := xs.length
  let used := n * w % 8
  let bs := packRow w xs
  if used = 0 ∨ n = full then d.fieldWrite core t b field off bs
  else
    let last := rowBytes n w - 1
    let old := leNat (d.fieldRead core t b field (off + last) 1)
    let new := leNat (bs.drop last)
    d.fieldWrite core t b field off (bs.take last ++ [BitVec.ofNat 8 (new % 2 ^ used + old / 2 ^ used * 2 ^ used)])

/-- What a descriptor that failed in its engine has written to its destinations is not specified: every byte of
its written operands in the core is a free byte (R69; assumption 2). -/
def Dev.spoil (d : Dev) (core : Nat) (t : SlotIx) (b : List Byte) : Dev :=
  ((spansOf b).filter (·.write)).foldl (fun d s =>
    (List.range s.rows).foldl (fun d i =>
      (d.fieldWrite core t b s.field (i * s.pitch) (freeBytes d.free 0 s.bytes)).drew) d) d

/-! ## Offsets added by the sequencer or a ticket (R85, R140) -/

/-- The four bytes at an offset of a descriptor replaced. -/
def setWord (b : List Byte) (off v : Nat) : List Byte := b.take off ++ leBytes 4 v ++ b.drop (off + 4)

/-- An address field moved by delta: the descriptor with the new field, or the bound code where the sum leaves
the 22-bit range. An absent field stays absent. -/
def shiftField (b : List Byte) (off : Nat) (delta : Int) : W16 × List Byte :=
  let a := dN b off 4
  if a = absent then (0, b)
  else
    let o : Int := opOffset a + delta
    if 0 ≤ o ∧ o < 2 ^ 22 then (0, setWord b off (a / 2 ^ 22 * 2 ^ 22 + o.toNat))
    else (if opTarget a = 5 then Code.accBound else Code.spadBound, b)

/-- Several fields moved; the first bound code met, if any. -/
def shiftFields : List Byte → List (Nat × Int) → W16 × List Byte
  | b, [] => (0, b)
  | b, f :: r =>
    let x := shiftField b f.1 f.2
    let y := shiftFields x.2 r
    (if x.1 = 0 then y.1 else x.1, y.2)

/-- A target-0 address named through the owner's direction (R140). -/
def redirect (b : List Byte) (owner off : Nat) : List Byte :=
  let a := dN b off 4
  if a = absent ∨ opTarget a ≠ 0 then b else setWord b off (a % 2 ^ 29 + owner * 2 ^ 29)

def redirects (b : List Byte) (owner : Nat) (offs : List Nat) : List Byte :=
  offs.foldl (fun b o => redirect b owner o) b

end Sys2Proof.Machine
end

