-- ==== Sys2Proof/Machine/Staging.lean ====
section
/-! DEFINITION. Stage generations, staged values and apply requests (R449 to R451), the repair map and its
merge with the user overlay (R71, R341). -/

namespace Sys2Proof.Machine

/-! ## Pages under a generation (R450) -/

def Dev.pageGen (d : Dev) (base : Nat) : Nat := d.rnat (base + 0x30)
/-- 0 IDLE, 1 STAGED, 2 LOCKED. -/
def Dev.pageState (d : Dev) (base : Nat) : Nat := d.rnat (base + 0x34) % 4
def Dev.setPageState (d : Dev) (base st : Nat) : Dev :=
  d.rsetNat (base + 0x34) (d.rnat (base + 0x34) / 4 * 4 + st)

/-- EVENT_SEQ takes the sequence of an event recorded in STAGE_STATE. -/
def Dev.stageEvent (d : Dev) (base : Nat) : Dev :=
  let isl := islandOfPage base
  let d := d.noteEvent isl
  d.rsetNat (base + 0x28) (d.seqOf isl)

/-- A write of STAGE_GEN as the block takes it. -/
def Dev.openGen (d : Dev) (base g : Nat) : Dev :=
  if g = 0 then d
  else if d.pageState base = 0 then d.rsetNat (base + 0x30) g
  else if d.pageState base = 1 && d.pageGen base == g then d
  else
    let old := d.pageGen base
    let d := d.rsetNat (base + 0x34) (d.rnat (base + 0x34) ||| 4)
    let d := { d with apply := { d.apply with conflicted := old :: g :: d.apply.conflicted } }
    (d.count (applyKey 0x820) 1).stageEvent base

/-- Whether a page keeps a staged value now. -/
def Dev.stageOpen (d : Dev) (base : Nat) : Bool := d.pageGen base != 0 && d.pageState base != 2

/-- A value staged for the register whose live key is given; an ignored write is counted. -/
def Dev.stageValue (d : Dev) (base key : Nat) (v : W32) : Dev :=
  if d.stageOpen base then
    let d := { d with apply := { d.apply with shadows := tset d.apply.shadows key v } }
    if d.pageState base = 1 then d else (d.setPageState base 1).stageEvent base
  else d.count (applyKey 0x818) 1

/-! ## Requests (R451) -/

/-- The completion event of an apply and APPLY.RESULT (R453, R463). -/
def Dev.applyResult (d : Dev) (gen : Nat) (status : W16) : Dev :=
  let d := d.rsetNat (applyKey 0x108) (gen + 2 ^ 16 * status.toNat)
  d.devEvent status (BitVec.ofNat 32 gen) []

/-- A request joins the queue; beyond 16 it completes at once with APPLY_QUEUE_FULL. -/
def Dev.requestApply (d : Dev) (gen : Nat) (who : Requester) : Dev :=
  let d := d.noteEvent (islMgmt 0)
  if 16 ≤ d.apply.queue.length then d.applyResult gen Code.applyQueueFull
  else { d with apply := { d.apply with queue := d.apply.queue ++ [(gen, who)] } }

/-- A generation of the device's own range, 0x8000 to 0xFFFF. -/
def Dev.ownGen (d : Dev) : Nat × Dev :=
  (0x8000 + d.apply.nextSupGen % 0x8000,
    { d with apply := { d.apply with nextSupGen := (d.apply.nextSupGen + 1) % 0x8000 } })

/-! ## The repair map (R71, R341, Tables 3.6 and 11.9) -/

/-- The failed rows of a REPAIR value, ascending. -/
def repairRows (v : Nat) : List Nat :=
  (if bitAt v 6 then [bitsOf v 5 0] else []) ++ (if bitAt v 14 then [bitsOf v 13 8] else [])

/-- The factory REPAIR value of a core. -/
def Dev.factoryRepair (d : Dev) (core : Nat) : Nat := (tget d.fuses.repair core 0x30000).toNat

/-- Fields of an overlay entry. -/
def ovType (e : W128) : Nat := bitsOf e.toNat 7 0
def ovOrigin (e : W128) : Nat := bitsOf e.toNat 15 8
def ovTarget (e : W128) : Nat := bitsOf e.toNat 63 32
def ovValue (e : W128) : Nat := bitsOf e.toNat 95 64

/-- Values of the overlay entries of a type for a target. -/
def Dev.ovValues (d : Dev) (type target : Nat) : List Nat :=
  (d.ras.overlay.filter (fun e => ovType e == type && ovTarget e == target)).map ovValue

/-- A list of row numbers below 64, ascending without repeats. -/
def sortedRows (rows : List Nat) : List Nat := (List.range 64).filter (fun r => rows.contains r)

/-- The union of factory and overlay rows. -/
def Dev.mergedRows (d : Dev) (core : Nat) : List Nat :=
  sortedRows (repairRows (d.factoryRepair core) ++ d.ovValues 1 core)

/-- Whether spare 64 or 65 is usable by both maps. -/
def Dev.spareOk (d : Dev) (core spare : Nat) : Bool :=
  bitAt (d.factoryRepair core) (spare - 48) && !((d.ovValues 2 core).contains spare)

/-- A core with more failed rows than usable spares is unrepairable (R71). -/
def Dev.unrepairable (d : Dev) (core : Nat) : Bool :=
  decide (b2n (d.spareOk core 64) + b2n (d.spareOk core 65) < (d.mergedRows core).length)

/-- The merged REPAIR value of a core. -/
def Dev.mergedRepair (d : Dev) (core : Nat) : Nat :=
  let rows := d.mergedRows core
  let user := !(d.ovValues 1 core).isEmpty || !(d.ovValues 2 core).isEmpty
  (match rows with
    | [] => 0
    | [a] => a + 64
    | a :: b :: _ => a + 64 + 256 * (b + 64))
  + 2 ^ 16 * b2n (d.spareOk core 64) + 2 ^ 17 * b2n (d.spareOk core 65) + 2 ^ 18 * b2n user

/-- The repair-map digest of a core's REPAIR value: the first 8 bytes of the SHA-512 of its bits [17:0] (R343).
The first byte of the hash is the lowest byte of `Config.sha512`'s value. -/
def repairDigest (v : Nat) : W64 := (Config.sha512 (leBytes 4 (v % 2 ^ 18))).setWidth 64

end Sys2Proof.Machine
end

