-- ==== Sys2Proof/Machine/Errors.lean ====
section
/-! DEFINITION. Unit fault history, service states and retirement (R333 to R336), tray service (R344), device
errors (R329), and what a detection does (R323 to R331). -/

namespace Sys2Proof.Machine

/-! ## Unit kinds of Table 11.5 -/

abbrev Unit.core : Nat := 1
abbrev Unit.row : Nat := 2
abbrev Unit.cell : Nat := 3
abbrev Unit.pc : Nat := 4
abbrev Unit.port : Nat := 5
abbrev Unit.hub : Nat := 6
abbrev Unit.island : Nat := 7
abbrev Unit.dieLink : Nat := 8
abbrev Unit.controller : Nat := 9

def histKey (kind unit : Nat) : Nat := kind * 2 ^ 32 + unit

def UnitHist.none_ : UnitHist :=
  { state := .normal, lastDetector := 0, repaired := false, transients := 0, recent := [], confirmed := 0, confHours := [],
    since := 0, lastDetection := 0, quietSince := 0, pending := none, ceHour := 0, ceCount := 0 }

def Dev.hist (d : Dev) (kind unit : Nat) : UnitHist := tget d.ras.hist (histKey kind unit) UnitHist.none_
def Dev.setHist (d : Dev) (kind unit : Nat) (h : UnitHist) : Dev :=
  { d with ras := { d.ras with hist := tset d.ras.hist (histKey kind unit) h } }

def Dev.retired (d : Dev) (kind unit : Nat) : Bool := (d.hist kind unit).state == .retired

/-- The core that a core, row or cell belongs to. -/
def coreOfUnit (kind unit : Nat) : Option Nat :=
  match kind with
  | 1 => some unit
  | 2 => some (unit / 128)
  | 3 => some (unit / 16)
  | _ => none

/-! ## Flash copies (R336, R341) -/

/-- The index of the copy with the lower sequence number. -/
def lowerCopy (a b : Nat) : Fin 2 := if a ≤ b then 0 else 1

/-- The flash as a write leaves it: after a thermal trip the device writes nothing there (R479). -/
def Dev.toFlash (d : Dev) (f : Flash) : Dev := if d.pins.thermtrip then d else { d with flash := f }

/-- A write to the history or calibration region. One that the flash does not take leaves both copies as they were
and is reported (Table 11.13, HISTORY_WRITE). -/
def Dev.toRegion (d : Dev) (f : Flash) : Dev :=
  if d.flash.stuck then (d.errFire (rasKey 0) 0 0).devEvent Code.historyWrite 0 [] else d.toFlash f

/-- The codes of Table 11.8 for a service state. -/
def Service.code : Service → Nat
  | .normal => 0
  | .observed => 1
  | .retired => 2

def serviceOf (n : Nat) : Service := if n = 1 then .observed else if n = 2 then .retired else .normal

/-- The 32 bytes of a history entry (Table 11.8). -/
def histEntry (key : Nat) (h : UnitHist) : List Byte :=
  leBytes 1 (key / 2 ^ 32) ++ leBytes 1 (Service.code h.state) ++ leBytes 1 h.lastDetector ++ leBytes 1 (b2n h.repaired)
  ++ leBytes 4 (key % 2 ^ 32) ++ leBytes 2 (min h.transients 65535) ++ leBytes 2 (min h.confirmed 65535) ++ leBytes 4 0
  ++ leBytes 4 (h.confHours.getD 2 0) ++ leBytes 4 (h.confHours.getD 1 0) ++ leBytes 4 (h.confHours.getD 0 0)
  ++ leBytes 4 h.lastDetection

/-- A unit has history: something of it has been detected, or its state has changed. -/
def UnitHist.kept (h : UnitHist) : Bool := h.lastDetector != 0 || h.state != .normal

/-- The unit that an entry's bytes describe. The hours of its transients are not kept, and of an OBSERVED unit every
confirmed fault whose hour is kept counts to its period (assumption 130). -/
def histUnit (b : List Byte) : Nat × UnitHist :=
  let n := min (fieldAt b 0x0A 2) 3
  (fieldAt b 0 1 * 2 ^ 32 + fieldAt b 4 4,
    { state := serviceOf (fieldAt b 1 1), lastDetector := fieldAt b 2 1, repaired := fieldAt b 3 1 % 2 == 1
      transients := fieldAt b 8 2, recent := [], confirmed := fieldAt b 0x0A 2
      confHours := ([fieldAt b 0x18 4, fieldAt b 0x14 4, fieldAt b 0x10 4]).take n
      since := if fieldAt b 1 1 = 1 then n else 0
      lastDetection := fieldAt b 0x1C 4, quietSince := fieldAt b 0x1C 4, pending := none, ceHour := 0, ceCount := 0 })

/-- The units of a copy of the history. -/
def histUnits (bs : List Byte) : Table UnitHist :=
  (List.range (fieldAt bs 2 2)).foldl (fun m i =>
    let u := histUnit ((bs.drop (64 + 32 * i)).take 32)
    tset m u.1 u.2) []

/-- The sequence of a copy; an unreadable one counts as the lowest. -/
def histSeq (bs : List Byte) : Nat := if histGood bs then fieldAt bs 8 8 else 0

/-- The history and the hours written to flash, over the copy with the lower sequence number. -/
def Dev.histWrite (d : Dev) : Dev :=
  let a := histSeq (d.flash.hist.get 0)
  let b := histSeq (d.flash.hist.get 1)
  let c := histImage d.ras.hours (max a b + 1) (b2n d.ras.trayReported) d.ras.trayReason
    ((d.ras.hist.filter (fun e => e.2.kept)).map (fun e => histEntry e.1 e.2))
  let i := lowerCopy a b
  d.toRegion { d.flash with hist := d.flash.hist.set i.1 c i.2 }

/-- A count of the history has changed: written at most once in an operating hour. -/
def Dev.histCount (d : Dev) : Dev :=
  let hour := d.ras.hours / 10 + 1
  if d.ras.countHour = hour then d else ({ d with ras := { d.ras with countHour := hour } } : Dev).histWrite

/-- The overlay written to the user calibration region, over the copy with the lower sequence number. -/
def Dev.calWrite (d : Dev) : Dev :=
  let a := d.flash.cal.get 0
  let b := d.flash.cal.get 1
  let c : CalCopy := { seq := max a.seq b.seq + 1, good := true, entries := d.ras.overlay }
  let i := lowerCopy a.seq b.seq
  d.toRegion { d.flash with cal := d.flash.cal.set i.1 c i.2 }

/-! ## Tray service (R344, Table 11.11) -/

/-- Cores of the device that are RETIRED. -/
def Dev.retiredCores (d : Dev) : List Nat := (List.range 512).filter (d.retired Unit.core)

/-- Stacks that trained are in service; after start-up the others are out of service. -/
def Dev.stacksOut (d : Dev) : Nat :=
  if 9 ≤ d.sec.bootStep then ((List.range 16).filter (fun n => !(d.stackIn n))).length else 0

/-- A die link, management, host or HBM island (Tables 11.7 and 11.11). -/
def deviceIsland (isl : Nat) : Bool := islKind isl == 3 || decide (5 ≤ islKind isl)

/-- The criteria of Table 11.11 met now, bits 0 to 5; bit 6 stays as it was set. -/
def Dev.trayBits (d : Dev) : Nat :=
  let rc := d.retiredCores
  let perCluster := (List.range 32).any (fun j => decide (4 < (rc.filter (fun c => c / 16 == j)).length))
  let recent := d.ras.devErrors.filter (fun h => decide (d.ras.hours ≤ h + 240))
  b2n (decide (16 < rc.length) || perCluster)
  ||| 2 * b2n ((List.range 32).any (d.retired Unit.hub))
  ||| 4 * b2n (decide (2 ≤ d.stacksOut))
  ||| 8 * b2n (decide (2 < ((List.range 12).filter (d.retired Unit.port)).length))
  ||| 16 * b2n ((List.range 16).any (d.retired Unit.dieLink)
      || allIslands.any (fun i => deviceIsland i && d.retired Unit.island i))
  ||| 32 * b2n (decide (2 ≤ recent.length))

/-- Criteria newly met are reported: RAS.STATUS, RAS.TRAY_REASON and the history header record them, an event
is posted and the alert raised. -/
def Dev.trayReport (d : Dev) (bits : Nat) : Dev :=
  let reason := d.ras.trayReason ||| bits
  if reason = d.ras.trayReason then d
  else
    let d := { d with ras := { d.ras with trayReason := reason, trayReported := true } }
    let d := d.rsetNat (rasKey 0x14) (d.rnat (rasKey 0x14) ||| 1)
    let d := (d.rsetNat (rasKey 0x18C) reason).histWrite
    (d.devEvent Code.trayService (BitVec.ofNat 32 reason) []).alert

def Dev.trayCheck (d : Dev) : Dev := d.trayReport d.trayBits

/-! ## Device errors (R329) -/

/-- Every window closes without draining. -/
def closeWindows (w : Table Window) : Table Window :=
  w.map (fun e => (e.1, { e.2 with state := WinState.free }))

/-- A DEVICE-class error: the record, ABORT cause 10 for every RUNNING gyle, the windows closed, the history
written, the alert, and the error state of Table 15.7, which only a device reset leaves. -/
def Dev.deviceError (d : Dev) (x : Detection) : Dev :=
  let d := d.errRecord { x with cls := 3, status := Code.errDevice }
  let d := (d.ctxs.map (·.1)).foldl (fun d c => d.abortCause c 10 Code.errDevice (srcIsland x.island)) d
  let d := { d with windows := closeWindows d.windows, sec := { d.sec with devState := .error } }
  let d := { d with ras := { d.ras with devErrors := d.ras.hours :: d.ras.devErrors } }
  let d := d.rsetNat (rasKey 0x14) (d.rnat (rasKey 0x14) ||| 2)
  (d.trayCheck.histWrite).alert

/-! ## Retirement (R335, Table 11.7) -/

/-- A pre-emption of a context: its requests are out until its tasks have yielded (R234, R235). -/
def Dev.preemptCtx (d : Dev) (x : Nat) : Dev :=
  let c := d.ctx x
  if c.preempting || (c.state != .running && c.state != .blocked) then d
  else
    let now := d.cycleOf (islMgmt 0)
    (d.modCtx x (fun c => { c with preempting := true, preemptAt := now })).count (schedKey 0x800) 1

/-- Contexts with a task slot of a core. -/
def Dev.ctxsOn (d : Dev) (core : Nat) : List Nat :=
  let c := d.core core
  (if c.slots[0].valid then [c.slots[0].ctx] else []) ++ (if c.slots[1].valid then [c.slots[1].ctx] else [])

/-- The most severe state among a core, its rows and its cells. -/
def Dev.coreWorst (d : Dev) (core : Nat) : Service :=
  let states := d.ras.hist.filterMap (fun e =>
    if coreOfUnit (e.1 / 2 ^ 32) (e.1 % 2 ^ 32) = some core then some e.2.state else none)
  if states.contains .retired then .retired else if states.contains .observed then .observed else .normal

/-- TEST.INTERVAL and CORE_CTL.STATUS.service follow the states of a core (R337). That a core is RETIRED shows there
once neither of its slots holds a tile (R335): see `Dev.statusWord`. -/
def Dev.coreService (d : Dev) (core : Nat) : Dev :=
  let d := match (d.hist Unit.core core).state with
    | .normal => d.rsetNat (coreKey core 0 0x14) (d.rnat (coreKey core 0 0x14) / 4 * 4)
    | .observed => d.rsetNat (coreKey core 0 0x14) (d.rnat (coreKey core 0 0x14) / 4 * 4 + 1)
    | .retired => d
  d.rsetNat (coreKey core 14 0x100) (if d.coreWorst core = .normal then 600 else 30)

/-- The event of a unit that changes its service state: the unit in info, its kind in the payload
(assumption 11). -/
def Dev.unitEvent (d : Dev) (status : W16) (kind unit : Nat) : Dev :=
  (d.noteEvent (islMgmt 0)).devEvent status (BitVec.ofNat 32 unit) (leBytes 1 kind)

/-- A core is RETIRED: its tasks are pre-empted, and it is reported, recorded and held against Table 11.11. -/
def Dev.retireCore (d : Dev) (core : Nat) : Dev :=
  if d.retired Unit.core core then d
  else
    let d := d.setHist Unit.core core { d.hist Unit.core core with state := .retired }
    let d := (d.ctxsOn core).foldl Dev.preemptCtx d
    (((d.unitEvent Code.unitRetired Unit.core core).coreService core).histWrite).trayCheck

/-- A port held down: TAP.CTL.enable and STATUS.state read 0. -/
def Dev.holdPort (d : Dev) (port : Nat) : Dev :=
  (d.rsetNat (tapKey port 0x10) (d.rnat (tapKey port 0x10) / 2 * 2)).rsetNat (tapKey port 0x14)
    (d.rnat (tapKey port 0x14) / 4 * 4)

/-- An overlay entry of device origin (R335). -/
def deviceEntry (type target value : Nat) : W128 :=
  BitVec.ofNat 128 (type + 256 + target * 2 ^ 32 + value * 2 ^ 64)

def Dev.addEntry (d : Dev) (e : W128) : Dev :=
  if d.ras.overlay.contains e then d
  else ({ d with ras := { d.ras with overlay := d.ras.overlay ++ [e] } }).calWrite

/-- A core whose merged map names more failed rows than usable spares: both unrepairable bits are set and the
core is RETIRED (R76). -/
def Dev.setUnrepairable (d : Dev) (core : Nat) : Dev :=
  let base := coreKey core 2 0
  let d := d.rsetNat (base + 0x14) (d.rnat (base + 0x14) ||| 0x40)
  let d := if (d.rnat (base + 0x18)).testBit 9 then d else d.errFire base 9 (9 + 0x7F * 2 ^ 8)
  d.retireCore core

/-- The merged map of one core staged under a generation, where it differs from the one in force (R73, R341). -/
def Dev.stageRepair (d : Dev) (gen core : Nat) : Bool × Dev :=
  let base := coreKey core 2 0
  if d.unrepairable core then (false, d.setUnrepairable core)
  else
    let v := d.mergedRepair core
    if v = d.rnat (base + 0x104) then (false, d)
    else
      let d := d.openGen base gen
      (true, d.stageValue base (base + 0x104) (BitVec.ofNat 32 v))

/-- The merged maps of some cores of a die staged and an apply requested by its supervisor (R341). -/
def Dev.mergeCores (d : Dev) (die : Nat) (cores : List Nat) : Dev :=
  let g := d.ownGen
  let r := cores.foldl (fun (p : Bool × Dev) c =>
    let q := p.2.stageRepair g.1 c
    (p.1 || q.1, q.2)) (false, g.2)
  if r.1 then (r.2.requestApply g.1 (.supervisor die)).count (dieKey die 0x808) 1 else r.2

/-- A row retired: an overlay entry of device origin, and the merge of its core's map; a data row that a spare
takes over is noted in the history. -/
def Dev.retireRow (d : Dev) (core row : Nat) : Dev :=
  let d := d.addEntry (if row < 64 then deviceEntry 1 core row else deviceEntry 2 core row)
  let d :=
    if 64 ≤ row ∨ d.unrepairable core then d
    else d.setHist Unit.row (core * 128 + row) { d.hist Unit.row (core * 128 + row) with repaired := true }
  d.mergeCores (core / 128) [core]

/-- The device error of a retired unit that the device cannot do without. -/
def Dev.unitLost (d : Dev) (kind unit : Nat) : Dev :=
  d.deviceError
    { cls := 3, detector := (d.hist kind unit).lastDetector, unitKind := kind, unit := unit
      island := if kind = Unit.island then unit else islMgmt 0, ctx := 0xFFFF, status := Code.errDevice, address := 0
      flags := 0, page := 0 }

/-- What the retirement of a unit other than a core does beside the state itself (Table 11.7); that of an HBM
pseudo-channel comes with the next start-up (R197), and for the islands that Table 11.7 does not name nothing follows. -/
def Dev.retireEffect (d : Dev) (kind unit : Nat) : Dev :=
  match kind with
  | 2 => d.retireRow (unit / 128) (unit % 128)
  | 3 => d.retireCore (unit / 16)
  | 5 => d.holdPort unit
  | 6 => ((List.range 16).map (· + 16 * unit)).foldl Dev.retireCore d
  | 7 => if deviceIsland unit then d.unitLost kind unit else d
  | 8 => d.unitLost kind unit
  | _ => d

/-! ## Service states (R334) -/

/-- A unit enters a service state. -/
def Dev.setService (d : Dev) (kind unit : Nat) (s : Service) : Dev :=
  if s = .retired ∧ kind = Unit.core then d.retireCore unit
  else
    let h := d.hist kind unit
    let d := match s with
      | .normal => d.setHist kind unit { h with state := s, since := 0, recent := [] }
      | .observed => (d.setHist kind unit { h with state := s, quietSince := d.ras.hours }).unitEvent Code.unitObserved kind unit
      | .retired =>
        ((d.setHist kind unit { h with state := s }).retireEffect kind unit).unitEvent Code.unitRetired kind unit
    let d := match coreOfUnit kind unit with
      | some c => d.coreService c
      | none => d
    d.histWrite.trayCheck

/-- The windows of RAS in units of 0.1 h. -/
def Dev.obsWindow (d : Dev) : Nat := d.rnat (rasKey 0x184) * 10
def Dev.retireWindow (d : Dev) : Nat := d.rnat (rasKey 0x188) * 10

/-- Entries of a list of hours that lie within a window of now. -/
def within (now window : Nat) (hs : List Nat) : Nat := (hs.filter (fun h => decide (now ≤ h + window))).length

/-- A detection of a unit noted in its history. -/
def UnitHist.note (h : UnitHist) (now detector : Nat) : UnitHist :=
  { h with lastDetector := detector, lastDetection := now, quietSince := now }

/-- A confirmed fault noted. -/
def UnitHist.confirm (h : UnitHist) (now detector : Nat) : UnitHist :=
  { h.note now detector with
    confirmed := h.confirmed + 1, confHours := (now :: h.confHours).take 3, since := h.since + 1, pending := none }

/-- A transient fault noted. -/
def UnitHist.transient (h : UnitHist) (now detector : Nat) : UnitHist :=
  { h.note now detector with transients := h.transients + 1, recent := now :: h.recent, pending := none }

/-- A confirmed fault of a unit: of an OBSERVED one the third of its period within RETIRE_WINDOW retires it. -/
def Dev.confirmFault (d : Dev) (kind unit detector : Nat) : Dev :=
  let now := d.ras.hours
  let h := (d.hist kind unit).confirm now detector
  let d := d.setHist kind unit h
  match h.state with
  | .normal => d.setService kind unit .observed
  | .observed =>
    if 3 ≤ h.since ∧ 3 ≤ within now d.retireWindow h.confHours then d.setService kind unit .retired else d.histCount
  | .retired => d.histCount

/-- A transient fault of a unit. -/
def Dev.transientFault (d : Dev) (kind unit detector : Nat) : Dev :=
  let now := d.ras.hours
  let h := (d.hist kind unit).transient now detector
  let d := d.setHist kind unit h
  if h.state = .normal ∧ 4 ≤ within now d.obsWindow h.recent then d.setService kind unit .observed else d.histCount

/-- The latest record of a detection takes a flag of Table 11.5, once it is known to be transient or confirmed. -/
def Dev.markRecord (d : Dev) (kind unit detector flag : Nat) : Dev :=
  let mine := fun (r : ErrRec) => r.unitKind == kind && r.unit == unit && r.detector == detector
  let log := modFirst mine (fun (r : ErrRec) => { r with flags := r.flags ||| flag }) d.ras.log
  { d with ras := { d.ras with log := log } }

/-- A detection that its retest did not reproduce: its record is marked transient, and the fault counted. -/
def Dev.settleTransient (d : Dev) (kind unit detector : Nat) : Dev :=
  (d.markRecord kind unit detector 1).transientFault kind unit detector

/-- A detection that is not CORRECTED schedules a retest of its unit, due at once (R333, R337). -/
def Dev.scheduleRetest (d : Dev) (kind unit detector : Nat) : Dev :=
  let h := d.hist kind unit
  let d := d.setHist kind unit { h.note d.ras.hours detector with pending := some detector }
  match coreOfUnit kind unit with
  | some c =>
    d.modCore c (fun x => { x with retestPending := true, test := if x.test = .idle then .due else x.test })
  | none => d

/-- A corrected error of a unit. Of SRAM_CE and HBM_CE 16 within one operating hour count as one transient (R333). -/
def Dev.correctedFault (d : Dev) (kind unit detector : Nat) : Dev :=
  let h := (d.hist kind unit).note d.ras.hours detector
  let hour := d.ras.hours / 10
  let n := if h.ceHour = hour then h.ceCount + 1 else 1
  if detector ≠ 3 ∧ detector ≠ 5 then d.setHist kind unit h
  else if n = 16 then
    ((d.setHist kind unit { h with ceHour := hour, ceCount := 0 }).markRecord kind unit detector 1).transientFault kind unit
      detector
  else d.setHist kind unit { h with ceHour := hour, ceCount := n }

/-- Whether the history keeps a unit of this kind (R333). -/
def keptKind (kind : Nat) : Bool := decide (1 ≤ kind ∧ kind ≤ 7)

/-- What a unit's history takes of a detection. -/
def Dev.noteUnit (d : Dev) (x : Detection) : Dev :=
  if !(keptKind x.unitKind) then d
  else if x.cls = 0 then d.correctedFault x.unitKind x.unit x.detector
  else d.scheduleRetest x.unitKind x.unit x.detector

/-- A detection outside a test: its record, and what the unit's history takes of it. -/
def Dev.detect (d : Dev) (x : Detection) : Dev :=
  if x.cls = 3 then (d.noteUnit x).deviceError x else (d.errRecord x).noteUnit x

/-- A detection to which Tables 11.2 and 11.4 give no class: its record's class byte is a free value (assumption 39). -/
def Dev.detectUnclassed (d : Dev) (x : Detection) : Dev :=
  let cls := Config.freeNat d.free % 256
  (d.drew.newRecord { x with cls := cls } (d.cycleOf (islMgmt 0))).noteUnit { x with cls := 1 }

/-- A detection on a core's unit. -/
def coreDetection (core cls detector kind unit ctx : Nat) (status : W16) (page : Nat) : Detection :=
  { cls := cls, detector := detector, unitKind := kind, unit := unit, island := islOfCore core, ctx := ctx,
    status := status, address := 0, flags := 0, page := page }

end Sys2Proof.Machine
end

