-- ==== Sys2Proof/Machine/Tasks.lean ====
section
/-! DEFINITION. Records in a context's rings (R279), and what the sequencer of a task slot does for every
engine: semaphores (R118), completions (R99), task stop (R121). -/

namespace Sys2Proof.Machine

/-! ## Records in rings (R49, R181, R278, R279) -/

/-- Bytes put at a context address by the device itself: only translation and write protection refuse them. -/
def Dev.ctxPoke (d : Dev) (x va : Nat) (bs : List Byte) : W16 × Dev :=
  let st := (d.ctx x).rangeStatus va bs.length true
  if st ≠ 0 then (st, d)
  else
    (0, ((piecesOf va bs.length).foldl (fun (p : Dev × List Byte) (q : Nat × Nat) =>
      let t := ((p.1.ctx x).translate q.1 true false).2
      let bytes := p.2.take q.2
      (p.1.store 32 t bytes, p.2.drop q.2)) (d, bs)).1)

/-- A record for slot `pos` of a ring: whether it was written. A ring without slots receives none; a slot that
cannot be written is counted, and the first such failure of the ring in a gyle posts a context event (R279). -/
def Dev.ringPut (d : Dev) (x ring base slots size pos : Nat) (bs : List Byte) : Bool × Dev :=
  if slots = 0 then (false, d.count (gyleKey 0x860) 1)
  else
    let w := d.ctxPoke x (base + pos % slots * size) bs
    if w.1 = 0 then (true, w.2)
    else
      let d := d.count (gyleKey 0x860) 1
      if (d.ctx x).ringFailed.contains ring then (false, d)
      else
        (false, (d.modCtx x (fun c => { c with ringFailed := ring :: c.ringFailed })).ctxEvent x w.1
          (BitVec.ofNat 32 ring) [])

/-- Performance mode of a context: 0 OFF, 1 SAMPLE, 2 EXACT. -/
def Ctx.perfMode (c : Ctx) : Nat := bitsOf (c.field 7 1) 3 2

/-- The EXACT figures of a slot's task are marked stale (R185). -/
def Dev.exactStale (d : Dev) (core : Nat) (t : SlotIx) : Bool :=
  let s := d.slot core t
  s.valid && (d.ctx s.ctx).stale.contains s.task

/-- A task's EXACT figures are marked stale where the repair-map digest that its image carries is not the one in force
on its core. Nothing but the load of another image takes the mark back (R74, R185). -/
def Ctx.noteDigest (c : Ctx) (task : Nat) (carried force : W64) : Ctx :=
  if carried = force ∨ c.stale.contains task then c else { c with stale := task :: c.stale }

/-- A performance record (Table 6.8) from island isl, body from 0x20 up; `page` is the PERF page that counts an
overwritten record. -/
def Dev.perfRecord (d : Dev) (x isl type page : Nat) (body : List Byte) : Bool × Dev :=
  let c := d.ctx x
  let slots := c.field 0x58 4
  let d := d.noteEvent isl
  let bs := leBytes 1 type ++ leBytes 1 1 ++ leBytes 2 x ++ leBytes 2 isl ++ leBytes 2 (b2n c.perfLost)
    ++ leBytes 8 (d.cycleOf isl) ++ leBytes 8 (d.seqOf isl) ++ leBytes 8 (c.field 0x80 6) ++ body
  let r := d.ringPut x 2 (c.field 0x50 8) slots 64 c.perfPos bs
  let full_ := decide (slots ≤ c.perfUnread) && slots != 0
  let d := if full_ then r.2.count (page + 0x818) 1 else r.2
  (r.1, d.modCtx x (fun c => { c with
    perfPos := if slots = 0 then 0 else (c.perfPos + 1) % slots
    perfLost := full_
    perfUnread := min (c.perfUnread + 1) slots }))

/-! ## Sequencer registers -/

def Slot.sem (s : Slot) (i : Nat) : Nat := (s.seq.sem.toList.getD i 0).toNat
def Slot.setSem (s : Slot) (i v : Nat) : Slot :=
  if h : i < 8 then { s with seq := { s.seq with sem := s.seq.sem.set i (BitVec.ofNat 16 v) h } } else s
def Slot.g (s : Slot) (i : Nat) : W32 := s.seq.g.toList.getD i 0
def Slot.setG (s : Slot) (i : Nat) (v : W32) : Slot :=
  if h : i < 8 then { s with seq := { s.seq with g := s.seq.g.set i v h } } else s
def Slot.setLen (s : Slot) (i : Nat) (v : W32) : Slot :=
  if h : i < 8 then { s with seq := { s.seq with len := s.seq.len.set i v h } } else s
def Slot.setPc (s : Slot) (v : Nat) : Slot := { s with seq := { s.seq with pc := v } }

/-! ## Task stop (R121) -/

/-- Descriptors of the slot that are queued or running; a finished one still awaits its completion. -/
def Slot.busy (s : Slot) : Bool := !s.descs.isEmpty

/-- LOADW sequences whose last byte is not yet in the weight buffer (R495). -/
def Slot.loading (s : Slot) : Bool := s.loadws.any (fun l => !l.done)

/-- A stopped task with nothing queued or running posts its tile program's completion as failed. -/
def Slot.settle (s : Slot) : Slot :=
  if s.stopped && !s.busy && s.ended.isNone then
    { s with ended := some s.faultStatus, state := .faulted, stall := .none }
  else s

/-- The cause of Table 9.3 that a failing completion status is. -/
def causeOf (status : W16) : Nat :=
  if status = Code.arrayCheck ∨ status = Code.arrayParity then 2 else 1

/-- A descriptor or instruction fails: the sequencer stops issuing, records the first failing status and
descriptor offset, and the gyle takes its abort cause (R121, R261). -/
def Dev.taskFail (d : Dev) (core : Nat) (t : SlotIx) (status : W16) (desc : Nat) : Dev :=
  let s := d.slot core t
  let d := d.abortCause s.ctx (causeOf status) status (srcCore core)
  let d := d.modSlot core t (fun s =>
    (if s.stopped then s else { s with stopped := true, faultStatus := status, faultDesc := desc }).settle)
  d.errFire (coreKey core 1 0) 0 0

/-- An instruction of a slot has been executed and the next is at `pc`; a pc that has passed the tile program's
last instruction stops the task with PC_RANGE (R118). -/
def Dev.goTo (d : Dev) (core : Nat) (t : SlotIx) (pc : Nat) : Dev :=
  let d := (d.modSlot core t (fun s => { (s.setPc pc) with
    stall := .none, state := if s.ended.isSome then s.state else .running, starved := false })).count
    (coreKey core 1 0x800) 1
  if (d.slot core t).program.length ≤ pc then d.taskFail core t Code.pcRange 0 else d

/-- A slot may start work: it holds a task, and its context is not KILLED (R245). -/
def Dev.startsWork (d : Dev) (core : Nat) (t : SlotIx) : Bool :=
  (d.slot core t).valid && (d.ctx (d.slot core t).ctx).state != .killed

/-! ## Semaphores (R118) -/

/-- A semaphore incremented by n; one that would exceed 65,535 saturates, sets sem_overflow and stops the
task with SEM_OVERFLOW. -/
def Dev.semUp (d : Dev) (core : Nat) (t : SlotIx) (sem n : Nat) : Dev :=
  let v := (d.slot core t).sem sem + n
  if v ≤ 65535 then d.modSlot core t (fun s => s.setSem sem v)
  else
    let d := d.modSlot core t (fun s => s.setSem sem 65535)
    (d.errFire (coreKey core 1 0) 1 0).taskFail core t Code.semOverflow 0

/-! ## Engine pages (Table 4.14) -/

/-- Core page index of an engine's page, none for the array, the copy engine and the cells. -/
def enginePage (engine : Nat) : Option Nat :=
  match engine with
  | 1 => some 10 | 2 => some 5 | 3 => some 7 | 4 => some 8 | 6 => some 6 | 7 => some 9 | 8 => some 11 | _ => none

/-- ERR_FIRST of an engine page. -/
def engineFirst (status : W16) (t : SlotIx) (ctx : Nat) : Nat := status.toNat + 2 ^ 16 * t.1 + 2 ^ 17 * ctx

/-- An error bit of an engine's page, where it has one. -/
def Dev.engineError (d : Dev) (core : Nat) (t : SlotIx) (engine bit : Nat) (status : W16) : Dev :=
  match enginePage engine with
  | some ix => d.errFire (coreKey core ix 0) bit (engineFirst status t (d.slot core t).ctx)
  | none => d

/-- A counter of an engine's page, where it has one. -/
def Dev.engineCount (d : Dev) (core engine off n : Nat) : Dev :=
  match enginePage engine with
  | some ix => d.count (coreKey core ix off) n
  | none => d

/-! ## SECDED words and engine upsets (R89, R324) -/

/-- The page that owns a memory of a core, for an engine that reads it (R89, Table 11.2). -/
def memPage (core engine : Nat) (m : CoreMem) : Nat :=
  match m with
  | .scratchpad => coreKey core 4 0
  | .accumulator => coreKey core 3 0
  | .weightBuffer => coreKey core 2 0
  | .instruction => coreKey core 1 0
  | .engine => (match enginePage engine with
    | some ix => coreKey core ix 0
    | none => coreKey core 0 0)

/-- A corrected word of a core's memory: counted in CORE_CTL, for an engine memory on the engine's page too. -/
def Dev.wordCorrected (d : Dev) (core : Nat) (t : SlotIx) (engine : Nat) (m : CoreMem) : Dev :=
  let d := d.count (coreKey core 0 0x800) 1
  let d := if m = .engine then d.engineCount core engine 0x818 1 else d
  d.detect (coreDetection core 0 3 Unit.core core (d.slot core t).ctx 0 (memPage core engine m))

/-- An uncorrected word of a core's memory: the bit of the page that owns it, and the record. The weight buffer's bit
is the loader's, which the array raises itself (Table 3.5). -/
def Dev.wordUncorrected (d : Dev) (core : Nat) (t : SlotIx) (engine : Nat) (m : CoreMem) : Dev :=
  let x := (d.slot core t).ctx
  let d := match m with
    | .scratchpad => d.errFire (coreKey core 4 0) 0 0
    | .accumulator => d.errFire (coreKey core 3 0) 0 0
    | .weightBuffer => d
    | .instruction => d.errFire (coreKey core 1 0) 2 0
    | .engine => d.engineError core t engine 1 Code.memUncorrected
  d.detect (coreDetection core 1 4 Unit.core core x Code.memUncorrected (memPage core engine m))

/-- An engine's upset as a status: parity fails the descriptor with ENGINE_PARITY (R324), an uncorrected word
with MEM_UNCORRECTED (R89, assumption 16); what an access to T1 or T2 meets comes with the access itself. -/
def upsetStatus (u : Upset) : W16 :=
  match u with
  | .parity => Code.engineParity
  | .uncorrected _ => Code.memUncorrected
  | _ => 0

/-- The records and counters of an upset on an engine of a core. -/
def Dev.upsetNote (d : Dev) (core : Nat) (t : SlotIx) (engine : Nat) (u : Upset) : Dev :=
  match u with
  | .none => d
  | .memory _ => d
  | .parity =>
    (d.engineError core t engine 2 Code.engineParity).detect
      (coreDetection core 1 8 Unit.core core (d.slot core t).ctx Code.engineParity (memPage core engine .engine))
  | .uncorrected m => d.wordUncorrected core t engine m
  | .corrected m => d.wordCorrected core t engine m

/-- A word of the instruction memory is fetched: a corrected one is counted, an uncorrected one stops the task with
MEM_UNCORRECTED (assumption 16). `f` is what the instruction does. -/
def Dev.withWord (d : Dev) (core : Nat) (t : SlotIx) (u : WordEcc) (f : Dev → Dev) : Dev :=
  match u with
  | .clean => f d
  | .corrected => f (d.wordCorrected core t 0 .instruction)
  | .uncorrected => (d.wordUncorrected core t 0 .instruction).taskFail core t Code.memUncorrected 0

/-! ## Completions (R99, R143, R146) -/

/-- Counts of a completion: a ticket holds its own until the counter answers, others join the context's (R48). -/
def Dev.addHealth (d : Dev) (core : Nat) (t : SlotIx) (ticket : Option W32) (h : Health) : Dev :=
  match ticket with
  | none => d.modCtx (d.slot core t).ctx (fun c => { c with health := c.health.join h })
  | some k =>
    d.modSlot core t (fun s => { s with
      tickets := s.tickets.map (fun o => if o.ticket = k then { o with health := o.health.join h } else o) })

/-- The open ticket of a tile loses one running tile, and fails with it. -/
def Slot.ticketDone (s : Slot) (ticket : Option W32) (status : W16) : Slot :=
  match ticket with
  | none => s
  | some k =>
    { s with tickets := s.tickets.map (fun o =>
        if o.ticket = k then { o with running := o.running - 1, failed := o.failed || status != 0 } else o) }

/-- The tag of a descriptor (Table 4.4). -/
def dTag (b : List Byte) : W16 := BitVec.ofNat 16 (dN b 0x0E 2)

/-- A completion is posted with the descriptor's tag: the named semaphore is incremented; any status but SUCCESS stops
the task (R99, R121). -/
def Dev.postStatus (d : Dev) (core : Nat) (t : SlotIx) (sem : Option (Fin 8)) (tag : Option W16) (status : W16)
    (desc : Nat) : Dev :=
  let d := d.modSlot core t (fun s => { s with posted := some { tag := tag, status := status } })
  let d := match sem with
    | some i => d.semUp core t i.1 1
    | none => d
  if status = 0 then d.modSlot core t Slot.settle else d.taskFail core t status desc

/-- The first descriptor of an engine that has finished. -/
def Slot.finishedOn (s : Slot) (engine : Nat) : Option QDesc :=
  s.descs.find? (fun q => q.engine == engine && (match q.st with
    | .finished _ => true
    | _ => false))

/-- The first element that a test accepts is removed. -/
def dropFirst {α : Type} (p : α → Bool) : List α → List α
  | [] => []
  | x :: r => if p x then r else x :: dropFirst p r

def QDesc.isFinished (q : QDesc) : Bool :=
  match q.st with
  | .finished _ => true
  | _ => false

/-- The oldest LOADW sequence not yet consumed (R495). -/
def Slot.nextSeq (s : Slot) : Option LoadwRec := s.loadws.find? (fun l => !l.consumed)

/-- A source that its tile has ended: its planes are returned, and a LOADW of it is consumed; the record stays
until its last byte has been copied. -/
def Slot.endSource (s : Slot) (src : WSource) : Slot :=
  { s with
    planes := s.planes.filter (fun p => p.source != src)
    loadws := (s.loadws.map (fun l => if WSource.loadw l.id = src then { l with consumed := true } else l)).filter
      (fun l => !(l.consumed && l.done)) }

end Sys2Proof.Machine
end

