-- ==== Sys2Proof/Machine/Array.lean ====
section
/-! DEFINITION. The matrix array: weight-buffer planes (R93, R219, R220), tiles and their passes (R53 to R66),
errors of the array (R69, R80) and the chained conversion (R101). -/

namespace Sys2Proof.Machine

/-! ## Block sequences (R219, Table 7.9) -/

/-- Bytes of one pass entry: metadata, scales and weights. -/
def entryBytes (fmt : Nat) (mx : Bool) (sparsity width : Nat) : Nat :=
  (if sparsity = 1 then 16 * width else 0)
  + (if mx then (if sparsity = 2 then 8 else if sparsity = 1 then 4 else 2) * width else 0)
  + (if fmt = 0 then 256 * width else 8 * width * fmtBits fmt)

/-- Offsets of the parts of a pass entry: scales and weights. -/
def scalesAt (sparsity width : Nat) : Nat := if sparsity = 1 then 16 * width else 0
def weightsAt (mx : Bool) (sparsity width : Nat) : Nat :=
  scalesAt sparsity width + (if mx then (if sparsity = 2 then 8 else if sparsity = 1 then 4 else 2) * width else 0)

/-- Passes of an N-pass as the header gives them. -/
def hdrPasses (hdr : List Byte) (i : Nat) : Nat := dN hdr (0x10 + i) 1

/-- The byte of a sequence at which an N-pass begins. -/
def npassStart (b hdr : List Byte) (width i : Nat) : Nat :=
  (List.range i).foldl (fun a j =>
    a + (if dSparsity b = 2 then 64 else 0) + hdrPasses hdr j * entryBytes (dInFmt b) (dInMx b) (dSparsity b) width) 64

/-- The byte of a sequence at which pass j of N-pass i begins. -/
def passStart (b hdr : List Byte) (width i j : Nat) : Nat :=
  npassStart b hdr width i + (if dSparsity b = 2 then 64 else 0)
    + j * entryBytes (dInFmt b) (dInMx b) (dSparsity b) width

/-- The header of a sequence agrees with the tile and with itself (R132, R220). -/
def headerOk (b hdr : List Byte) (width : Nat) : Bool :=
  let np := dTileN b / width
  let entry := entryBytes (dInFmt b) (dInMx b) (dSparsity b) width
  let counts := (List.range 16).map (hdrPasses hdr)
  let used := counts.take np
  dN hdr 0 2 == 1
  && dN hdr 2 1 == dInFmt b + (if dInMx b then 16 else 0)
  && dN hdr 3 1 == dSparsity b + (if width = 32 then 4 else 0)
  && dN hdr 4 2 == dTileN b && dN hdr 6 2 == dK b
  && dN hdr 0x0E 2 == 0 && (hdr.drop 0x24).all (· == 0)
  && used.sum == dN hdr 0x0C 2 && (counts.drop np).all (· == 0)
  && used.all (fun c => if dSparsity b = 2 then decide (c ≤ dK b / 64) else c == dK b / passK (dSparsity b))
  && dN hdr 8 4 == 64 + (if dSparsity b = 2 then 64 * np else 0) + used.sum * entry

/-! ## The tile at the head of the array's queue -/

/-- The tile that runs, or is next to run, on the slot's array or half. -/
def Slot.tileDesc (s : Slot) : Option QDesc := s.descs.find? (fun q => q.engine == 0 && !q.isFinished)

/-- That tile's record changed. -/
def Slot.modTileDesc (s : Slot) (f : QDesc → QDesc) : Slot :=
  { s with descs := modFirst (fun q => q.engine == 0 && !q.isFinished) f s.descs }

/-- The tile ends with a status: no further pass is run. -/
def Slot.endTile (s : Slot) (status : W16) : Slot :=
  let s := match s.tile with
    | some r => (s.modTileDesc (fun q => { q with st := .finished status, cycles := r.cycles })).endSource r.source
    | none => s.modTileDesc (fun q => { q with st := .finished status })
  { s with tile := none }

/-- A tile that fails while it runs: its destinations are unspecified (R69). -/
def Dev.failTile (d : Dev) (core : Nat) (t : SlotIx) (status : W16) : Dev :=
  let d := match (d.slot core t).tileDesc with
    | some q => d.spoil core t q.bytes
    | none => d
  d.modSlot core t (fun s => s.endTile status)

/-! ## Weight-buffer planes -/

/-- The bytes of a source from p on, where the planes hold all of them. -/
def Slot.planeRead (s : Slot) (src : WSource) (p n : Nat) : Option (List Byte) :=
  match s.planes.filter (fun q => q.source == src) with
  | [] => none
  | q :: r =>
    let all := q.bytes ++ r.flatMap (·.bytes)
    if q.start ≤ p ∧ p + n ≤ q.start + all.length then some ((all.drop (p - q.start)).take n) else none

/-- Planes that the loader has read whole are returned to the filler. -/
def Slot.reap (s : Slot) : Slot :=
  match s.tile with
  | none => s
  | some r =>
    { s with planes := s.planes.filter (fun q => q.source != r.source || decide (r.wpos < q.start + q.bytes.length)) }

/-- The source that a matrix tile names: a grist sequence, or the oldest LOADW not yet consumed and not taken by
a tile before it. -/
def tileSource (b : List Byte) (l : Option LoadwRec) : Option WSource :=
  let a := dN b 0x14 4
  if opTarget a = 7 then some (.grist (opOffset a % 8) (opOffset a / 8))
  else l.map (fun l => .loadw l.id)

/-- Sources in the order in which tiles will need them: those of the queued tiles, then the LOADW sequences that
no queued tile takes. -/
def fillOrder : List QDesc → List LoadwRec → List WSource
  | [], ls => ls.map (fun l => .loadw l.id)
  | q :: r, ls =>
    if q.engine = 0 ∧ !q.isFinished then
      if opTarget (dN q.bytes 0x14 4) = 7 then
        (match tileSource q.bytes none with
          | some s => [s]
          | none => []) ++ fillOrder r ls
      else
        match ls with
        | l :: rest => .loadw l.id :: fillOrder r rest
        | [] => fillOrder r []
    else fillOrder r ls

/-- The stream of a context on a cluster. -/
def Cluster.stream (c : Cluster) (ctx num : Nat) : Option GStream :=
  c.streams.find? (fun g => g.ctx == ctx && g.num == num)

/-- The next bytes to be copied into a plane from a source: their position and contents; none where the source
has been copied whole or is not there. -/
def Dev.fillBytes (d : Dev) (core : Nat) (t : SlotIx) (src : WSource) : Option (Nat × List Byte) :=
  let s := d.slot core t
  let size := planeSize s.kind
  match src with
  | .loadw id =>
    match s.loadws.find? (fun l => l.id == id) with
    | none => none
    | some l =>
      if l.length ≤ l.copied then none
      else some (l.copied, d.opRead core t 0 (l.offset + l.copied) (min size (l.length - l.copied)))
  | .grist st sq =>
    match (d.cluster (core / 16)).stream s.ctx st with
    | none => none
    | some g =>
      match g.held.find? (fun h => h.num == sq) with
      | none => none
      | some h =>
        let from_ := match (s.planes.filter (fun q => q.source == src)).getLast? with
          | some q => q.start + q.bytes.length
          | none => (match s.tile with
            | some r => if r.source = src then r.wpos else 0
            | none => 0)
        if h.len ≤ from_ then none else some (from_, (d.ctxRead s.ctx (h.va + from_) (min size (h.len - from_))).2)

/-- The scratchpad bytes of a fill held an uncorrected word: the tile that is to use them fails, or where none is
queued the task stops, with MEM_UNCORRECTED (R89; assumption 16). -/
def Dev.fillBad (d : Dev) (core : Nat) (t : SlotIx) : Dev :=
  let d := d.wordUncorrected core t 0 .scratchpad
  if (d.slot core t).tileDesc.isSome then d.failTile core t Code.memUncorrected
  else d.taskFail core t Code.memUncorrected 0

/-- A free plane takes the next bytes of the first source that has any (R93, R495). A LOADW reads them from the
scratchpad, whose code finds `u`. -/
def Dev.fillPlane (d : Dev) (core : Nat) (t : SlotIx) (u : WordEcc) : Dev :=
  let d := d.modSlot core t Slot.reap
  let s := d.slot core t
  if !s.valid || decide (2 ≤ s.planes.length) then d
  else
    let srcs := (s.loadws.filter (fun l => l.consumed && !l.done)).map (fun l => WSource.loadw l.id)
      ++ fillOrder s.descs (s.loadws.filter (fun l => !l.consumed))
    match srcs.findSome? (fun src => (d.fillBytes core t src).map (fun x => (src, x))) with
    | none => d
    | some (src, pos, bs) =>
      let fromPad := (match src with
        | .loadw _ => true
        | .grist _ _ => false)
      let d := if fromPad && u == .corrected then d.wordCorrected core t 0 .scratchpad else d
      if fromPad && u == .uncorrected then d.fillBad core t
      else d.modSlot core t (fun s =>
        let gone := s.loadws.any (fun l => WSource.loadw l.id == src && l.consumed)
        { s with
          planes := if gone then s.planes else s.planes ++ [{ source := src, start := pos, bytes := bs }]
          loadws := s.loadws.map (fun l =>
            if WSource.loadw l.id = src then { l with copied := pos + bs.length } else l) })

def weightPlaneFillEff (core : Nat) (t : SlotIx) (u : WordEcc) (d : Dev) : Dev := d.fillPlane core t u

def modTile (f : TileRun → TileRun) (s : Slot) : Slot := { s with tile := s.tile.map f }

/-- Whether a context runs its FP32 tiles as one pass (R41). -/
def Dev.emuOne (d : Dev) (x : Nat) : Bool := (d.ctx x).gyle.emuOne

/-! ## Opening N-passes (R56, R61, R135) -/

/-- Set strips of a bitmap whose first row lies below kv, ascending. -/
def setStrips (bitmap : Nat) (kv : Nat) : List Nat :=
  (List.range 512).filter (fun j => bitAt bitmap j && decide (8 * j < kv))

def popcount (v : Nat) : Nat := ((List.range 512).filter (bitAt v)).length

/-- Passes of an N-pass that are run. -/
def passesRun (q : QDesc) (strips : List Nat) : Nat :=
  if dSparsity q.bytes = 2 then ceilDiv strips.length 8 else ceilDiv q.kv (passK (dSparsity q.bytes))

/-- What opening found. -/
inductive Opened where
  /-- the bitmap is not yet in the buffer -/
  | waits
  /-- a pass is ready to be run, or every pass has run -/
  | ready (r : TileRun) (skipped : Nat)
  /-- a bitmap that breaks R61 -/
  | metadata
  deriving DecidableEq, Repr

/-- The next N-pass with a pass to run, or the end of the tile. `skipped` counts zero strips not loaded. The maximum of
a tile that runs no pass stays at +0 (assumption 115). -/
def Slot.openNpass (s : Slot) (q : QDesc) : Nat → TileRun → Nat → Opened
  | 0, r, k => .ready { r with drained := true } k
  | n + 1, r, k =>
    let w := foldWidth s.kind
    if r.opened then .ready r k
    else if q.cv ≤ r.npass * w then .ready { r with drained := true, wpos := dN r.hdr 8 4 } k
    else if dSparsity q.bytes = 2 then
      let at_ := npassStart q.bytes r.hdr w r.npass
      match s.planeRead r.source at_ 64 with
      | none => .waits
      | some bm =>
        let v := leNat bm
        if v / 2 ^ (dK q.bytes / 8) ≠ 0 ∨ ceilDiv (popcount v) 8 ≠ hdrPasses r.hdr r.npass then .metadata
        else
          let strips := setStrips v q.kv
          let k := k + (dK q.bytes / 8 - popcount v)
          if strips.isEmpty then s.openNpass q n { r with npass := r.npass + 1 } k
          else
            .ready { r with opened := true, pass := 0, sub := 0, strips := strips
                            wpos := passStart q.bytes r.hdr w r.npass 0 } k
    else if q.kv = 0 then .ready { r with drained := true, wpos := dN r.hdr 8 4 } k
    else
      .ready { r with opened := true, pass := 0, sub := 0, strips := []
                      wpos := passStart q.bytes r.hdr w r.npass 0 } k

/-! ## Operands of a pass (R59, R63, R64) -/

/-- A number times the power of two of a scale byte, or its inverse; a byte of 0xFF makes it NaN (R28, R39). -/
def scaleNum (x : Num) (byte : Byte) (inverse : Bool) : Num :=
  match scaleExp byte with
  | none => .nan
  | some e => x.scale (if inverse then -e else e)

/-- hi and lo of R40. -/
def bf16Hi (x : Num) : Num := decodeElem 1 false (convertElem 1 false 0 true x 0).1
def bf16Lo (x : Num) : Num := bf16Hi (x.plus (bf16Hi x).neg)

/-- Which half of the activation and of the weight a sub-pass multiplies: (lo_a, lo_b) (R40). -/
def subHalves (one : Bool) (sub : Nat) : Bool × Bool :=
  if one then (false, false) else if sub = 0 then (true, false) else if sub = 1 then (false, true) else (false, false)

/-- Sub-passes of a pass. -/
def subsOf (b : List Byte) (one : Bool) : Nat := if dInFmt b = 0 ∧ !one then 3 else 1

/-- Rows of a tile that are flagged zero (R63). -/
def Dev.zeroRows (d : Dev) (core : Nat) (t : SlotIx) (b : List Byte) : Nat :=
  if dN b 0x2C 4 = absent then 0 else leNat (d.fieldRead core t b 0x2C 0 (ceilDiv (dM b) 8))

/-- The K row that data row r of a pass carries in column c, given the pass's metadata; none for an empty
strip slot (R59, R61). -/
def kRow (b : List Byte) (r : TileRun) (width : Nat) (meta_ : List Byte) (row c : Nat) : Option Nat :=
  match dSparsity b with
  | 1 =>
    let j := width * row + c
    some (128 * r.pass + 4 * (row / 2) + leNat ((meta_.drop (j / 4)).take 1) / 4 ^ (j % 4) % 4)
  | 2 => (r.strips[8 * r.pass + row / 8]?).map (fun st => 8 * st + row % 8)
  | _ => some (64 * r.pass + row)

/-- The logical K rows of a pass: 64 in a dense pass, 128 in a 2:4 pass, those of the packed strips in a compacted
pass (R66), each below kv (R135). -/
def passRows (b : List Byte) (r : TileRun) (kv : Nat) : List Nat :=
  let rows := match dSparsity b with
    | 1 => (List.range 128).map (fun i => 128 * r.pass + i)
    | 2 => ((r.strips.drop (8 * r.pass)).take 8).flatMap (fun st => (List.range 8).map (fun i => 8 * st + i))
    | _ => (List.range 64).map (fun i => 64 * r.pass + i)
  rows.filter (fun k => decide (k < kv))

/-- The scale byte of a weight within its pass entry. -/
def weightScale (b : List Byte) (width : Nat) (entry : List Byte) (r : TileRun) (k row c : Nat) : Byte :=
  let i := match dSparsity b with
    | 1 => (k - 128 * r.pass) / 32
    | 2 => row / 8
    | _ => row / 32
  entry.getD (scalesAt (dSparsity b) width + i * width + c) 0

/-- The weight of data row `row` and column c of a pass entry, scaled. R64 names a per-tile scale of the weights too,
but no descriptor and no sequence holds one, so only MX scales apply (assumption 114). -/
def weightAt (b : List Byte) (width : Nat) (entry : List Byte) (r : TileRun) (loB : Bool) (k row c : Nat) : Num :=
  let w := weightsAt (dInMx b) (dSparsity b) width
  if dInFmt b = 0 then
    decodeElem 1 false (leNat ((entry.drop (w + (if loB then 128 * width else 0) + (row * width + c) * 2)).take 2))
  else
    let bits := fmtBits (dInFmt b)
    let line := (entry.drop (w + row * (width * bits / 8))).take (width * bits / 8)
    let x := decodeElem (dInFmt b) (dInMx b) (unpackElem line bits c)
    if dInMx b then scaleNum x (weightScale b width entry r k row c) false else x

/-- The weights of column c of a pass: the K row and the scaled weight of each data row that multiplies (R135). -/
def colWeights (b : List Byte) (kv width : Nat) (entry : List Byte) (r : TileRun) (loB : Bool) (c : Nat) :
    List (Nat × Num) :=
  (List.range 64).filterMap (fun row =>
    match kRow b r width entry row c with
    | none => none
    | some k => if k < kv then some (k, weightAt b width entry r loB k row c) else none)

/-- The scaled activation of row m at K row k, from the row's bytes and the tile's scales (R64). An FP32 element is
split first, and its half takes the scale as an exact factor (R39, R40). -/
def actAt (b row scales : List Byte) (loA : Bool) (m k : Nat) : Num :=
  let x := decodeElem (dInFmt b) (dInMx b) (unpackElem row (fmtBits (dInFmt b)) k)
  let x := if dInFmt b = 0 then (if loA then bf16Lo x else bf16Hi x) else x
  if scales.isEmpty then x
  else if dInMx b then scaleNum x (scales.getD (m * (dK b / 32) + k / 32) 0) false
  else scaleNum x (scales.getD (k / 64) 0) true

/-- The exact sum of the products of a row and a column (R30). -/
def passValue (act : Nat → Num) (ws : List (Nat × Num)) : Num :=
  ws.foldl (fun s w => s.plus ((act w.1).times w.2)) (.fin false ⟨0, 0⟩)

/-! ## The accumulator (R30, R32, R90) -/

/-- Whether a tile accumulates in INT32. -/
def isInt (b : List Byte) : Bool := dInFmt b == 8 && !(dInMx b)

/-- Byte offset of an output element in the accumulator grant. -/
def accElem (b : List Byte) (kind m n : Nat) : Nat :=
  let w := foldWidth kind
  opOffset (dN b 0x20 4) + ((n / w) * dM b + m) * (w * 4) + (n % w) * 4

/-- An accumulator value with a pass value added, and whether it saturated. A sum of an INT32 tile that is not
an integer has no stated value: it is the free word `free` (assumption 15). -/
def accumulate (int : Bool) (old : Nat) (v : Num) (free : Nat) : Nat × Bool :=
  if int then
    match (Num.ofDyadic ⟨signedField old 32, 0⟩).plus v with
    | .fin neg x =>
      let i := signed neg x
      if 0 ≤ i.e ∨ i.m % 2 ^ (-i.e).toNat = 0 then
        let n := if 0 ≤ i.e then i.m * 2 ^ i.e.toNat else i.m / 2 ^ (-i.e).toNat
        if 2 ^ 31 ≤ n then (0x7FFFFFFF, true)
        else if n < -2 ^ 31 then (0x80000000, true)
        else ((n % 2 ^ 32).toNat, false)
      else (free, false)
    | _ => (free, false)
  else (toF32 ((ofF32 old).plus v), false)

/-- The number an accumulator element holds. -/
def accNum (int : Bool) (v : Nat) : Num := if int then Num.ofDyadic ⟨signedField v 32, 0⟩ else ofF32 v

/-! ## The fining check (R65 to R67) -/

/-- A sum rounded to 24 significant bits, to nearest even or toward +∞. -/
def round24 (up : Bool) (x : Dyadic) : Dyadic :=
  if x.m = 0 then x
  else
    let l := Nat.log2 x.m.natAbs
    if l < 24 then x
    else
      let s := l - 23
      let q := x.m.natAbs / 2 ^ s
      let rem := x.m.natAbs % 2 ^ s
      let q :=
        if up then (if rem ≠ 0 ∧ 0 < x.m then q + 1 else q)
        else if 2 ^ s < 2 * rem ∨ (2 * rem = 2 ^ s ∧ q % 2 = 1) then q + 1 else q
      ⟨if x.m < 0 then -(q : Int) else q, x.e + s⟩

/-- The exact value of a finite number, 0 for another. -/
def Num.value : Num → Dyadic
  | .fin n x => signed n x
  | _ => ⟨0, 0⟩

def Dyadic.absd (x : Dyadic) : Dyadic := ⟨x.m.natAbs, x.e⟩

/-- The columns of a half, as (K row, weight) lists. -/
abbrev HalfCols := List (List (Nat × Num))

/-- The K rows that the columns of a half multiply. -/
def halfRows (cols : HalfCols) : List Nat := (cols.flatMap (fun c => c.map (·.1))).dedup

/-- The weights of a K row over the columns of a half. -/
def rowWeights (cols : HalfCols) (k : Nat) : List Num :=
  cols.flatMap (fun c => (c.filter (fun w => w.1 == k)).map (·.2))

/-- F and G of R66 for one activation row. -/
def finingFG (int : Bool) (act : Nat → Num) (cols : HalfCols) : Dyadic × Dyadic :=
  (halfRows cols).foldl (fun fg k =>
    let ws := (rowWeights cols k).map Num.value
    let s := ws.foldl Dyadic.add ⟨0, 0⟩
    let a := (ws.map Dyadic.absd).foldl Dyadic.add ⟨0, 0⟩
    let s := if int then s else round24 false s
    let a := if int then a else round24 true a
    let x := (act k).value
    (fg.1.add (x.mul s), fg.2.add (x.absd.mul a))) (⟨0, 0⟩, ⟨0, 0⟩)

/-- Whether a row is unchecked for a half (R67), given the logical K rows of the pass. -/
def uncheckedRow (act : Nat → Num) (ks : List Nat) (cols : HalfCols) : Bool :=
  cols.any (fun c => c.any (fun w => !w.2.finite)) || ks.any (fun k => !(act k).finite)

/-- Whether the check of a row fails for a half, given the half's pass values as drained. -/
def finingFails (int : Bool) (act : Nat → Num) (cols : HalfCols) (drained : List Num) : Bool :=
  let fg := finingFG int act cols
  let dsum := (drained.map Num.value).foldl Dyadic.add ⟨0, 0⟩
  let diff := (fg.1.add dsum.neg).absd
  if int then diff.m != 0 else Dyadic.lt (fg.2.scale (-22)) diff

/-! ## One pass (R53 to R58) -/

/-- What a pass leaves, beside the accumulator. -/
structure PassOut where
  acc : Mem
  health : Health
  amax : Num
  checked : Nat
  unchecked : Nat
  fails : List Nat
  deriving DecidableEq, Repr

/-- What a pass works with. -/
structure PassIn where
  b : List Byte
  kind : Nat
  /-- first column, and the columns the pass writes -/
  n0 : Nat
  cols : List (List (Nat × Num))
  /-- logical K rows of the pass -/
  ks : List Nat
  first : Bool
  last : Bool
  upset : ArrayUpset
  deriving DecidableEq, Repr

/-- Offsets that the upset adds to a pass value (physical column, R77). -/
def PassIn.offset (p : PassIn) (m c : Nat) : Num :=
  let phys := c + (if p.kind = 2 then 32 else 0)
  p.upset.offsets.foldl (fun s o => if o.1 = m ∧ o.2.1 = phys then s.plus (Num.ofDyadic ⟨o.2.2.1, o.2.2.2⟩) else s)
    (.fin false ⟨0, 0⟩)

/-- The halves that the columns of a pass belong to: 0 lo, 1 hi. -/
def PassIn.halves (p : PassIn) : List (Nat × Nat) :=
  if p.kind = 0 then [(0, 0), (1, 32)] else [(p.kind - 1, 0)]

/-- One element: accumulated and written. -/
def PassIn.elem (p : PassIn) (m : Nat) (free : Nat) (o : PassOut) (cv : Nat × Num) : PassOut :=
  let at_ := accElem p.b p.kind m (p.n0 + cv.1)
  let old := if p.first then 0 else leNat ((List.range 4).map (fun i => mread o.acc (accPhys p.kind (at_ + i))))
  let r := accumulate (isInt p.b) old cv.2 free
  { o with
    acc := accWrite p.kind o.acc at_ (leBytes 4 r.1)
    health := if r.2 then o.health.saturate else o.health
    amax := if p.last then maxAbs o.amax (accNum (isInt p.b) r.1) else o.amax }

/-- One activation row of a pass: its values drained into the accumulator and checked. A row that is not
streamed adds exact zero (R63). -/
def PassIn.row (p : PassIn) (act : Nat → Num) (streamed : Bool) (m free : Nat) (o : PassOut) : PassOut :=
  let zero : Num := .fin false ⟨0, 0⟩
  let vals := p.cols.zipIdx.map (fun cw =>
    (cw.2, if streamed then (passValue act cw.1).plus (p.offset m cw.2) else zero))
  let o := vals.foldl (p.elem m free) o
  if !streamed then o
  else
    p.halves.foldl (fun o h =>
      let cols := (p.cols.drop h.2).take 32
      if uncheckedRow act p.ks cols then { o with unchecked := o.unchecked + 1 }
      else
        let o := { o with checked := o.checked + 1 }
        let touched := p.upset.offsets.any (fun x => x.1 == m)
        if touched && finingFails (isInt p.b) act cols (((vals.drop h.2).take 32).map (·.2)) then
          { o with fails := o.fails ++ [h.1] }
        else o) o

/-! ## Attribution of array errors (R80, Table 3.5) -/

/-- Whether a set of detector bits is shared between the halves of a split array. -/
def sharedBits (bits : List Nat) : Bool :=
  bits.any (fun x => decide (2 ≤ x ∧ x ≤ 5)) || (bits.contains 0 && bits.contains 1)

/-- The status a tile fails with. Where a fining mismatch and another detector fire in one pass the spec names no
status; the model gives ARRAY_CHECK (assumption 116). -/
def arrayStatus (bits : List Nat) : W16 :=
  if bits.any (fun x => decide (x ≤ 1)) then Code.arrayCheck else Code.arrayParity

/-- The detector code of an ERR_STATUS bit: FINING or ARRAY_PARITY (Table 11.2). -/
def arrayCode (bit : Nat) : Nat := if bit ≤ 1 then 1 else 2

/-- The half that a bit names (Table 3.5). -/
def bitHalf (bit : Nat) : Option SlotIx :=
  if bit = 0 ∨ bit = 6 then some 0 else if bit = 1 ∨ bit = 7 then some 1 else none

/-- ERR_FIRST of the ARRAY page; row 0x7F is one not located (R80). -/
def arrayFirst (bit half : Nat) (shared : Bool) (row ctx : Nat) : Nat :=
  bit + 16 * half + 32 * b2n shared + row % 128 * 2 ^ 8 + ctx % 1024 * 2 ^ 16

/-- The slot whose tile a bit concerns in a pass of slot t: that of the half it names on a split array, else t. -/
def Dev.bitSlot (d : Dev) (core : Nat) (t : SlotIx) (bit : Nat) : SlotIx :=
  if (d.slot core t).kind = 0 then t else (bitHalf bit).getD t

/-- The context that a firing bit captures: that of half lo for a shared error. Where half lo holds no task the spec
names none, and the model writes what the empty slot holds, 0 (assumption 117). -/
def Dev.bitOwner (d : Dev) (core : Nat) (t : SlotIx) (shared : Bool) (bit : Nat) : Nat :=
  (d.slot core (if shared then 0 else d.bitSlot core t bit)).ctx

/-- A detector of the array fires in a pass of slot t: its page bit, with the row that it locates. -/
def Dev.arrayDetect (d : Dev) (core : Nat) (t : SlotIx) (shared : Bool) (det : Nat × Nat) : Dev :=
  let half := if (d.slot core t).kind = 0 then 0 else (d.bitSlot core t det.1).1
  d.errFire (coreKey core 2 0) det.1 (arrayFirst det.1 half shared det.2 (d.bitOwner core t shared det.1))

/-- The one record of a detector code for the bits of it that fired in a pass (R330). -/
def Dev.arrayRecord (d : Dev) (core : Nat) (t : SlotIx) (shared : Bool) (dets : List (Nat × Nat)) (code : Nat) : Dev :=
  match dets.find? (fun x => arrayCode x.1 == code) with
  | none => d
  | some x =>
    let unit := if x.2 < 66 then (Unit.row, core * 128 + x.2) else (Unit.core, core)
    d.detect (coreDetection core 1 code unit.1 unit.2 (d.bitOwner core t shared x.1)
      (if code = 1 then Code.arrayCheck else Code.arrayParity) (coreKey core 2 0))

/-- The tile in flight of a slot fails with the array's status for some bits. -/
def Dev.failHalf (d : Dev) (core : Nat) (bits : List Nat) (h : SlotIx) : Dev :=
  if bits.isEmpty || (d.slot core h).tile.isNone then d else d.failTile core h (arrayStatus bits)

/-- Detectors have fired in a pass of slot t, as (bit, row) in ascending bit order: a shared error of a split array
fails the tile in flight on each half, a private one that of its own half (R69, R80). -/
def Dev.arrayFail (d : Dev) (core : Nat) (t : SlotIx) (dets : List (Nat × Nat)) : Dev :=
  let bits := dets.map (·.1)
  let split := (d.slot core t).kind != 0
  let shared := sharedBits bits && split
  let d := dets.foldl (fun d x => d.arrayDetect core t shared x) d
  let d := [1, 2].foldl (fun d c => d.arrayRecord core t shared dets c) d
  if !split then d.failHalf core bits t
  else if shared then (d.failHalf core bits 0).failHalf core bits 1
  else
    let own := fun (h : SlotIx) => bits.filter (fun b => bitHalf b == some h)
    (d.failHalf core (own 0) 0).failHalf core (own 1) 1

/-- A metadata fault fails the tile with TILE_METADATA; no unit history records it (R60, R61, R69). -/
def Dev.metadataFail (d : Dev) (core : Nat) (t : SlotIx) : Dev :=
  (d.arrayDetect core t false (8, 0x7F)).failTile core t Code.tileMetadata

/-- The 2:4 index order of a block (R60). -/
def indexOrderOk (width : Nat) (meta_ : List Byte) : Bool :=
  let ix := fun j => leNat ((meta_.drop (j / 4)).take 1) / 4 ^ (j % 4) % 4
  (List.range 32).all (fun g => (List.range width).all (fun c =>
    decide (ix (width * (2 * g) + c) < ix (width * (2 * g + 1) + c))))

/-! ## MATRIX_TILE and ARRAY_PASS -/

/-- The pass that a tile runs next done: the next sub-pass, pass or N-pass. -/
def TileRun.advance (r : TileRun) (q : QDesc) (width subs interval : Nat) : TileRun :=
  let r := { r with cycles := r.cycles + interval }
  if r.sub + 1 < subs then { r with sub := r.sub + 1 }
  else if r.pass + 1 < passesRun q r.strips then
    { r with sub := 0, pass := r.pass + 1, wpos := passStart q.bytes r.hdr width r.npass (r.pass + 1) }
  else
    { r with sub := 0, pass := 0, npass := r.npass + 1, opened := false
             wpos := if q.cv ≤ (r.npass + 1) * width then dN r.hdr 8 4 else npassStart q.bytes r.hdr width (r.npass + 1) }

/-- The maximum is final: a tile counted, a non-finite one too, with cause 6 where the context asks for it
(R37, R50), the maximum written where the descriptor asks. -/
def Dev.tileDrained (d : Dev) (core : Nat) (t : SlotIx) (q : QDesc) (r : TileRun) : Dev :=
  let x := (d.slot core t).ctx
  let bad := !r.amax.finite
  let d := d.modSlot core t (fun s => (s.modTileDesc (fun q => { q with
    health := { q.health with
      tiles := satAdd 64 q.health.tiles 1
      nonfiniteTiles := satAdd 32 q.health.nonfiniteTiles (b2n bad) } })))
  let d := if bad && bitAt ((d.ctx x).field 7 1) 0 then d.abortOpen x 6 (srcCore core) else d
  let d := if dAmaxEn q.bytes then d.fieldWrite core t q.bytes 0x38 0 (leBytes 4 (toF32 r.amax)) else d
  if dOutEn q.bytes then d else d.modSlot core t (fun s => s.endTile 0)

/-- The next N-pass opened, as far as the buffer allows; a tile with no pass left is drained. -/
def Dev.openTile (d : Dev) (core : Nat) (t : SlotIx) (q : QDesc) (r : TileRun) : Dev :=
  if r.drained then d
  else
    match (d.slot core t).openNpass q 17 r 0 with
    | .waits => d
    | .metadata => d.metadataFail core t
    | .ready r k =>
      let d := d.modSlot core t (fun s => (modTile (fun _ => r) s).reap)
      let d := d.count (coreKey core 2 0x838) k
      if r.drained then d.tileDrained core t q r else d

/-- A tile starts once its block sequence's header is in the weight buffer and agrees with it (R100, R132, R220,
R495). -/
def matrixTileEff (core : Nat) (t : SlotIx) (d : Dev) : Dev :=
  let s := d.slot core t
  match s.tileDesc with
  | none => d
  | some q =>
    if s.tile.isSome || !(d.startsWork core t) || d.unrepairable core then d
    else
      let l := s.nextSeq
      let fail := d.modSlot core t (fun s => s.endTile Code.weightMismatch)
      let bad := opTarget (dN q.bytes 0x14 4) != 7 && (match l with
        | none => true
        | some l => l.offset != opOffset (dN q.bytes 0x14 4) || decide (l.length < 64))
      if bad then fail
      else
        match tileSource q.bytes l with
        | none => fail
        | some src =>
          match s.planeRead src 0 64 with
          | none => d
          | some hdr =>
            if headerOk q.bytes hdr (foldWidth s.kind) then
              let r : TileRun :=
                { npass := 0, pass := 0, hdr := hdr, wpos := npassStart q.bytes hdr (foldWidth s.kind) 0, source := src,
                  sub := 0, strips := [], opened := false, amax := .fin false ⟨0, 0⟩, drained := false,
                  converted := false, cycles := 0 }
              let d := d.countNbrs core t q.bytes
              let d := d.modSlot core t (fun s =>
                { (s.modTileDesc (fun q => { q with st := .running })) with tile := some r })
              d.openTile core t q r
            else fail

/-- The word that a pass finds faulty, as an upset. -/
def passWord (u : ArrayUpset) : Upset :=
  match u.ecc with
  | none => .none
  | some (m, true) => .uncorrected m
  | some (m, false) => .corrected m

/-- What fires in a pass, as (bit, row), each bit once in ascending order: the checks that failed, the detectors of
the upset, and the loader where a weight-buffer word is uncorrected (Table 3.5). -/
def passFired (u : ArrayUpset) (fails : List Nat) : List (Nat × Nat) :=
  let all := u.detectors ++ fails.map (fun h => (h, 0x7F))
    ++ (if u.ecc = some (.weightBuffer, true) then [(5, 0x7F)] else [])
  (List.range 8).filterMap (fun b => all.find? (fun x => x.1 == b))

/-- The rows of a tile and whether each is streamed (R63, R134). -/
def rowList (rv zmask : Nat) : List (Nat × Bool) := (List.range rv).map (fun m => (m, !(bitAt zmask m)))

/-- One pass of the array on the block that is in the buffer. -/
def Dev.runPass (d : Dev) (core : Nat) (t : SlotIx) (q : QDesc) (r : TileRun) (entry : List Byte) (u : ArrayUpset) :
    Dev :=
  let d := d.upsetNote core t 0 (passWord u)
  let s := d.slot core t
  let b := q.bytes
  let w := foldWidth s.kind
  let one := d.emuOne s.ctx
  let subs := subsOf b one
  let halves := subHalves one r.sub
  let rows := rowList q.rv (d.zeroRows core t b)
  let active := (rows.filter (·.2)).length
  let scales := if dN b 0x28 4 = absent then [] else
    d.fieldRead core t b 0x28 0 (if dInMx b then dM b * (dK b / 32) else dK b / 64)
  let n0 := r.npass * w
  let p : PassIn :=
    { b := b, kind := s.kind, n0 := n0
      cols := (List.range (min w (q.cv - n0))).map (colWeights b q.kv w entry r halves.2)
      ks := passRows b r q.kv
      first := r.pass == 0 && r.sub == 0 && !(dAccAdd b)
      last := r.sub + 1 == subs && r.pass + 1 == passesRun q r.strips
      upset := u }
  let o0 : PassOut :=
    { acc := (d.core core).acc, health := q.health, amax := r.amax, checked := 0, unchecked := 0, fails := [] }
  let free := (Config.freeWord d.free).toNat
  let o := rows.foldl (fun o m =>
    let line := d.fieldRead core t b 0x10 (m.1 * dStride b 0x1E) (rowBytes (dK b) (fmtBits (dInFmt b)))
    p.row (actAt b line scales halves.1 m.1) m.2 m.1 free o) o0
  let interval := max (ceilDiv active (rpc (dInFmt b))) 64
  let d := d.drew.modCore core (fun c => { c with acc := o.acc })
  let r2 := { (r.advance q w subs interval) with amax := o.amax }
  let d := d.modSlot core t (fun s =>
    (modTile (fun _ => r2) (s.modTileDesc (fun q => { q with health := o.health }))).reap)
  let base := coreKey core 2 0
  let d := ((d.count (base + 0x800) 1).count (base + 0x808) (ceilDiv active (rpc (dInFmt b)))).count (base + 0x820)
    o.checked
  let d := ((d.count (base + 0x828) o.unchecked).count (base + 0x830) o.fails.length).count (base + 0x840)
    (dM b - active)
  let d := if dSparsity b = 1 then d.count (base + 0x848) 1 else d
  let dets := passFired u o.fails
  let word := upsetStatus (passWord u)
  if !dets.isEmpty then d.arrayFail core t dets
  else if word ≠ 0 then d.failTile core t word
  else if r2.opened then d
  else if q.cv ≤ r2.npass * w then
    let r3 := { r2 with drained := true }
    (d.modSlot core t (modTile (fun _ => r3))).tileDrained core t q r3
  else d

/-- One pass of the array, where its N-pass is open and its block is in the weight buffer (R53, R93); a detector
that the upset names fires whether or not a pass could run. -/
def arrayPassEff (core : Nat) (t : SlotIx) (u : ArrayUpset) (d : Dev) : Dev :=
  let s := d.slot core t
  match s.tileDesc, s.tile with
  | some q, some r =>
    if r.drained then d
    else
      let d := d.openTile core t q r
      let s := d.slot core t
      match s.tile with
      | none => d
      | some r =>
        if r.drained || !r.opened then d
        else
          let w := foldWidth s.kind
          let len := entryBytes (dInFmt q.bytes) (dInMx q.bytes) (dSparsity q.bytes) w
          match s.planeRead r.source (passStart q.bytes r.hdr w r.npass r.pass) len with
          | none => d
          | some entry =>
            if dSparsity q.bytes = 1 && !(indexOrderOk w entry) then d.metadataFail core t
            else d.runPass core t q r entry u
  | _, _ => d

/-! ## Conversions of a block of values (R29, R34 to R38, R101, R114) -/

/-- What a conversion needs besides its values. -/
structure Conv where
  fmt : Nat
  mx : Bool
  rnd : Nat
  inf : Bool
  rng : Rng
  deriving DecidableEq, Repr

/-- 16 random bits of an element (R36). -/
def Conv.r16 (c : Conv) (index : Nat) : Nat := if c.rnd = 1 then c.rng.draw 16 index else 0

/-- The conversion settings of a descriptor for a context's gyle. -/
def Dev.convOf (d : Dev) (x : Nat) (b : List Byte) : Conv :=
  let c := d.ctx x
  { fmt := dOutFmt b, mx := dOutMx b, rnd := dRnd b, inf := dOvf b
    rng := { seed := c.gyle.seeds.toList.getD (dSeed b) 0, stream := dStream b, gyle := c.field 0x80 6 } }

/-- One value under an optional exponent; none is a scale of 0xFF. -/
def Conv.one (c : Conv) (e : Option Int) (x : Num) (index : Nat) : Nat × Tally :=
  match e with
  | none => if c.mx then convertVoidBlock c.fmt c.inf x else convertVoid c.fmt x
  | some e => convertElem c.fmt c.mx c.rnd c.inf (x.scale e) (c.r16 index)

/-- A row of values converted under one exponent, the elements' indices from `index` up, counted under an
engine code. -/
def Conv.values (c : Conv) (engine : Nat) (e : Option Int) (h : Health) (index : Nat) :
    List Num → List Nat × Health
  | [] => ([], h)
  | x :: r =>
    let y := c.one e x index
    let z := c.values engine e (h.tally c.fmt engine y.2) (index + 1) r
    (y.1 :: z.1, z.2)

/-- A row converted to MX: each block of 32 columns under its own scale (R29); the scale bytes come too. -/
def Conv.blocks (c : Conv) (engine : Nat) (h : Health) (index : Nat) : Nat → List Num → List Nat × List Byte × Health
  | 0, _ => ([], [], h)
  | n + 1, xs =>
    if xs.isEmpty then ([], [], h)
    else
      let blk := xs.take 32
      let e := blockScale c.fmt blk
      let y := c.values engine (e.map (fun e => -e)) h index blk
      let z := c.blocks engine y.2 (index + 32) n (xs.drop 32)
      (y.1 ++ z.1, scaleByte e :: z.2.1, z.2.2)

/-- Health counts and the device, threaded through rows. -/
structure ConvOut where
  d : Dev
  h : Health

/-- One row converted under a scale mode: values written to `dst`, MX scale bytes to `scales` at `blocks` bytes a
row. -/
def ConvOut.row (o : ConvOut) (c : Conv) (engine core : Nat) (t : SlotIx) (b : List Byte) (e : Option Int)
    (dst dstOff full scales scaleOff index : Nat) (xs : List Num) : ConvOut :=
  if c.mx then
    let y := c.blocks engine o.h index (xs.length / 32 + 1) xs
    { d := (o.d.rowStore core t b dst dstOff (fmtBits c.fmt) full y.1).fieldWrite core t b scales scaleOff y.2.1
      h := y.2.2 }
  else
    let y := c.values engine e o.h index xs
    { d := o.d.rowStore core t b dst dstOff (fmtBits c.fmt) full y.1, h := y.2 }

/-- The exponent of a scale mode and the scale byte it writes: mode 1 from a maximum, 3 fixed, else none. -/
def modeScale (mode fmt : Nat) (mx : Bool) (margin : Nat) (amax : Num) (fixed : Int) : Option Int × Option Byte :=
  if mode = 1 then
    let e := tileScale fmt mx margin amax
    (e, some (scaleByte e))
  else if mode = 3 then (some fixed, some (BitVec.ofNat 8 (fixed + 127).toNat))
  else (some 0, none)

/-- The chained conversion of a drained tile (R101, R135): rows and columns within the tile's lengths. -/
def Dev.chain (d : Dev) (core : Nat) (t : SlotIx) (q : QDesc) (r : TileRun) : Dev × Health :=
  let s := d.slot core t
  let b := q.bytes
  let c := d.convOf s.ctx b
  let mode := dTileScale b
  let sc := modeScale mode c.fmt c.mx (dMargin b) r.amax (dSigned8 b 0x0C)
  let o := (List.range q.rv).foldl (fun (o : ConvOut) m =>
    let xs := (List.range q.cv).map (fun n =>
      accNum (isInt b) (leNat (o.d.opRead core t 5 (accElem b s.kind m n) 4)))
    o.row c 0 core t b sc.1 0x30 (m * dStride b 0x34) (dTileN b) 0x3C (m * (dTileN b / 32))
      ((q.origin + m) * dTileN b + dIndexBase b) xs) { d := d, h := q.health }
  let d := match sc.2 with
    | some byte => o.d.fieldWrite core t b 0x3C 0 [byte]
    | none => o.d
  (d, o.h)

def chainedConversionEff (core : Nat) (t : SlotIx) (u : Upset) (d : Dev) : Dev :=
  let s := d.slot core t
  match s.tileDesc, s.tile with
  | some q, some r =>
    if !r.drained || r.converted || !(dOutEn q.bytes) then d
    else
      let d := d.upsetNote core t 1 u
      let st := upsetStatus u
      if st ≠ 0 then d.failTile core t st
      else
        let x := d.chain core t q r
        let d := x.1.engineCount core 1 0x820 1
        d.modSlot core t (fun s => (s.modTileDesc (fun q => { q with health := x.2 })).endTile 0)
  | _, _ => d

def execWeightPlaneFill (core : CoreId) (slot : Meeting SlotIx WordEcc) (s : State) : Host.Outcome State Fault Refusal :=
  onCore s core.1 (weightPlaneFillEff core.1 slot.at_ slot.fault)
def execMatrixTile (core : CoreId) (slot : SlotIx) (s : State) : Host.Outcome State Fault Refusal :=
  onCore s core.1 (matrixTileEff core.1 slot)
def execArrayPass (core : CoreId) (slot : SlotIx) (u : ArrayUpset) (s : State) : Host.Outcome State Fault Refusal :=
  onCore s core.1 (arrayPassEff core.1 slot u)
def execChainedConversion (core : CoreId) (slot : SlotIx) (u : Upset) (s : State) :
    Host.Outcome State Fault Refusal :=
  onCore s core.1 (chainedConversionEff core.1 slot u)

end Sys2Proof.Machine
end

