-- ==== Sys2Proof/Machine/Work.lean ====
section
/-! DEFINITION. The cluster work counter: queues, slices and tickets (R138 to R149), and the release of grist
sequences (R213). -/

namespace Sys2Proof.Machine

/-! ## Semaphores of a task wherever it is -/

/-- The task that a context has placed in a slot of a core. -/
def Ctx.taskAt (c : Ctx) (core slot : Nat) : Option Nat :=
  (c.places.find? (fun p => p.core == core && p.slot == slot)).map (·.task)

/-- A semaphore of a saved sequencer state raised, saturating (R118). -/
def Seq.semUp (s : Seq) (sem n : Nat) : Seq :=
  if h : sem < 8 then { s with sem := s.sem.set sem (BitVec.ofNat 16 (min 65535 ((s.sem.get ⟨sem, h⟩).toNat + n))) h }
  else s

/-- A semaphore of a task that is away raised by n: one that would exceed 65,535 saturates and stops the task with
SEM_OVERFLOW, as it does in a slot (R118, R152). The source is the core where the task is placed, else the controller. -/
def Dev.savedSem (d : Dev) (x task sem n : Nat) : Dev :=
  match (d.ctx x).saved.find? (fun v => v.task == task) with
  | none => d
  | some v =>
    let high := decide (sem < 8 ∧ 65535 < (v.seq.sem.toList.getD sem 0).toNat + n)
    let w := { v with seq := v.seq.semUp sem n }
    let w := if high && w.ended.isNone then
        { w with ended := some Code.semOverflow, faultStatus := Code.semOverflow, faultDesc := 0 }
      else w
    let d := d.modCtx x (fun c => { c with saved := c.saved.map (fun u => if u.task = task then w else u) })
    if !high then d
    else
      match (d.ctx x).places.find? (fun p => p.task == task) with
      | some p => (d.errFire (coreKey p.core 1 0) 1 0).abortCause x 1 Code.semOverflow (srcCore p.core)
      | none => d.abortCause x 1 Code.semOverflow (srcIsland (islMgmt 0))

/-- A semaphore of the task of a context in a slot of a core: in the slot, or in the task's saved state while the
task is away. -/
def Dev.taskSem (d : Dev) (x core : Nat) (t : SlotIx) (sem n : Nat) : Dev :=
  let s := d.slot core t
  if s.valid && s.ctx == x then d.semUp core t sem n
  else
    match (d.ctx x).taskAt core t.1 with
    | none => d
    | some k => d.savedSem x k sem n

/-! ## Queues -/

def Cluster.queueOf (c : Cluster) (ctx num : Nat) : Option WQueue :=
  c.queues.find? (fun q => q.ctx == ctx && q.num == num)
def Cluster.modQueue (c : Cluster) (ctx num : Nat) (f : WQueue → WQueue) : Cluster :=
  { c with queues := c.queues.map (fun q => if q.ctx = ctx ∧ q.num = num then f q else q) }
def WQueue.modSlice (q : WQueue) (i : Nat) (f : Slice → Slice) : WQueue := { q with slices := q.slices.modify i f }
def WQueue.slice (q : WQueue) (i : Nat) : Slice := q.slices.getD i { state := .free, gen := 0, tickets := [] }

/-- The hub cycle in which the counter records an event of a queue that reaches it now: one event a cycle (R147). -/
def WQueue.recordAt (q : WQueue) (now : Nat) : Nat := max now q.nextAt
/-- A queue that has recorded an event. -/
def WQueue.recorded (q : WQueue) (now : Nat) : WQueue := { q with nextAt := q.recordAt now + 1 }

/-- The participating cores of a queue within their cluster, ascending. -/
def WQueue.members (q : WQueue) : List Nat := (List.range 16).filter (fun k => q.rec_.participants.getLsbD k)

/-- First slice and number of slices of the portion of a core of the cluster (R139). -/
def WQueue.portion (q : WQueue) (k : Nat) : Nat × Nat :=
  let ms := q.members
  let n := q.rec_.slices
  let j := (ms.takeWhile (· != k)).length
  let p := max ms.length 1
  (j * n / p, (j + 1) * n / p - j * n / p)

/-- Slices of a core's portion that pass a test, ascending. -/
def WQueue.pick (q : WQueue) (k : Nat) (test : Slice → Bool) : List Nat :=
  let r := q.portion k
  ((List.range r.2).map (· + r.1)).filter (fun i => test (q.slice i))

/-- The participating mesh neighbours of a core in the order north, east, south, west: direction and core. -/
def WQueue.near (q : WQueue) (core : Nat) : List (Nat × Nat) :=
  [1, 2, 3, 4].filterMap (fun dir => (neighbour core dir).bind (fun n =>
    if q.members.contains (n % 16) then some (dir, n % 16) else none))

def Slice.isFree (s : Slice) : Bool := s.state == .free

/-- A slice that may be taken from its ticket's holder at a hub cycle (R142). -/
def Slice.aged (s : Slice) (now wait : Nat) : Bool :=
  s.state == .claimed && (match s.tickets with
    | [o] => o.gen == s.gen && decide (o.at_ + wait ≤ now)
    | _ => false)

/-- How a claim is answered. -/
inductive Grant where
  | none
  /-- owner direction, owner core in the cluster, slice, and whether it is an aged steal -/
  | slice (dir owner slice : Nat) (aged : Bool)
  deriving DecidableEq, Repr

/-- The slice a claim takes (R141, R142). -/
def WQueue.grant (q : WQueue) (core now : Nat) : Grant :=
  if q.failed || q.resetPending then .none
  else
    match (if q.members.contains (core % 16) then q.pick (core % 16) Slice.isFree else []) with
    | i :: _ => .slice 0 (core % 16) i false
    | [] =>
      match (q.near core).findSome? (fun n => ((q.pick n.2 Slice.isFree).getLast?).map (fun i => (n, i))) with
      | some (n, i) => .slice n.1 n.2 i false
      | none =>
        if q.rec_.stealAge = 0 then .none
        else
          let wait := q.rec_.stealAge * 256
          match (q.near core).findSome? (fun n =>
            ((q.pick n.2 (fun s => s.aged now wait)).getLast?).map (fun i => (n, i))) with
          | some (n, i) => .slice n.1 n.2 i true
          | none => .none

/-- A ticket (Table 5.3). -/
def ticketOf (gen owner queue slice : Nat) : W32 :=
  BitVec.ofNat 32 (2 ^ 31 + gen % 128 * 2 ^ 24 + owner * 2 ^ 21 + queue * 2 ^ 16 + slice % 2 ^ 16)

def ticketGen (k : W32) : Nat := bitsOf k.toNat 30 24
def ticketOwner (k : W32) : Nat := bitsOf k.toNat 23 21
def ticketQueue (k : W32) : Nat := bitsOf k.toNat 20 16
def ticketSlice (k : W32) : Nat := bitsOf k.toNat 15 0

/-! ## Release of grist sequences (R213) -/

/-- The first number from n on that a list does not hold, within as many steps as it has elements. -/
def firstOutside (xs : List Nat) : Nat → Nat → Nat
  | 0, n => n
  | k + 1, n => if xs.contains n then firstOutside xs k (n + 1) else n

/-- A stream with some held sequences released; r is the lowest unreleased one (R213, R214). -/
def GStream.release (g : GStream) (test : GristSeq → Bool) : GStream :=
  let gone := (g.held.filter test).map (·.num) ++ g.released
  let low := firstOutside gone gone.length g.low
  { g with held := g.held.filter (fun h => !(test h)), low := low, released := gone.filter (fun n => decide (low ≤ n)) }

/-- The next sequence to fetch: those released meanwhile are passed over. -/
def GStream.due (g : GStream) : Nat := firstOutside g.released g.released.length g.next

/-- A schedule entry (R213). -/
def Dev.scheduleAt (d : Dev) (g : GStream) (j : Nat) : Nat := d.ctxNat g.ctx (g.rec_.schedule + 8 * j) 8

/-- A stream put back on its cluster. -/
def Cluster.setStream (c : Cluster) (g : GStream) : Cluster :=
  { c with streams := c.streams.map (fun h => if h.ctx = g.ctx ∧ h.num = g.num then g else h) }

/-- Sequences of a stream released, and counted. -/
def Dev.releaseSeqs (d : Dev) (j : Nat) (g : GStream) (test : GristSeq → Bool) : Dev :=
  let n := (g.held.filter test).length
  if n = 0 then d
  else (d.modCluster j (fun c => c.setStream (g.release test))).count (hubKey j 3 0x810) n

/-- Sequences that a round end of a queue releases. -/
def Dev.roundRelease (d : Dev) (j ctx queue : Nat) : Dev :=
  ((d.cluster j).streams.filter (fun g => g.ctx == ctx)).foldl (fun d g =>
    d.releaseSeqs j g (fun h =>
      let e := d.scheduleAt g h.num
      bitAt e 53 && bitsOf e 52 48 == queue)) d

/-- Sequences that every consumer core has passed, released. -/
def Dev.passRelease (d : Dev) (j : Nat) (g : GStream) : Dev :=
  let cores := (List.range 16).filter (fun k => g.rec_.consumers.getLsbD k)
  d.releaseSeqs j g (fun h =>
    !(bitAt (d.scheduleAt g h.num) 53) && cores.all (fun k => decide (h.num + 1 < tget g.named k 0)))

/-! ## Rounds (R148) -/

/-- Whether a queue's round is over. -/
def WQueue.roundOver (q : WQueue) : Bool :=
  !q.failed && !q.resetPending && q.slices.all (fun s => s.state == .done && s.tickets.isEmpty)
    && q.members.all (fun k => q.zeroed.any (fun z => z / 2 % 16 == k))

/-- Every slice FREE under the next generation. -/
def WQueue.fresh (q : WQueue) : WQueue :=
  { q with slices := q.slices.map (fun s => { state := .free, gen := s.gen + 1, tickets := s.tickets }), zeroed := [] }

/-- The end of a round, where it is over: the done semaphore of every participant's claiming slot is incremented
and the next round starts. -/
def Dev.roundEnd (d : Dev) (j ctx num : Nat) : Dev :=
  match (d.cluster j).queueOf ctx num with
  | none => d
  | some q =>
    if !q.roundOver then d
    else
      let d := q.zeroed.foldl (fun d z => d.taskSem ctx (z / 2) (if z % 2 = 0 then 0 else 1) (q.rec_.doneSem % 8) 1) d
      let d := (d.modCluster j (fun c => c.modQueue ctx num WQueue.fresh)).count (hubKey j 2 0x840) 1
      d.roundRelease j ctx num

/-! ## Closings and returns (R143 to R146) -/

/-- What a closing or a return of a ticket meets: the slice's outstanding ticket of that slot and generation. -/
def Slice.match_ (s : Slice) (core slot gen : Nat) : Option Outstanding :=
  s.tickets.find? (fun o => o.core == core && o.slot == slot && o.gen % 128 == gen)

/-- A slice after a closing of one of its tickets, and whether the closing is accepted. -/
def Slice.close (s : Slice) (o : Outstanding) (success : Bool) : Slice × Bool :=
  let s1 := { s with tickets := s.tickets.filter (· != o) }
  if s.state == .claimed && o.gen == s.gen && success then ({ s1 with state := .done }, true) else (s1, false)

/-- A slice after a return of one of its tickets. -/
def Slice.giveBack (s : Slice) (o : Outstanding) : Slice :=
  let s1 := { s with tickets := s.tickets.filter (· != o) }
  if s.state == .claimed && o.gen == s.gen then { s1 with state := .free, gen := s.gen + 1 } else s1

/-- The counter records a closing: accepted, or not (Table 5.4). -/
def Dev.recordClose (d : Dev) (core : Nat) (t : SlotIx) (o : OpenTicket) : Bool × Dev :=
  let j := core / 16
  let x := (d.slot core t).ctx
  let staleOne := d.count (hubKey j 2 0x828) 1
  match (d.cluster j).queueOf x o.queue with
  | none => (false, staleOne)
  | some q =>
    let i := ticketSlice o.ticket
    let s := q.slice i
    match s.match_ core t.1 (ticketGen o.ticket) with
    | none => (false, staleOne)
    | some w =>
      let r := s.close w (!o.failed)
      let fails := s.state == .claimed && w.gen == s.gen && o.failed
      let now := d.cycleOf (islOfHub j)
      let d := d.modCluster j (fun c => c.modQueue x o.queue (fun q =>
        { ((q.modSlice i (fun _ => r.1)).recorded now) with failed := q.failed || fails }))
      let d := if r.2 || fails then d else d.count (hubKey j 2 0x828) 1
      (r.2, d.roundEnd j x o.queue)

/-- A ticket whose closing is due: its tiles have completed and a later CLAIM or END has been reached. -/
def OpenTicket.due (o : OpenTicket) : Bool := o.reached && o.running == 0

/-- Tickets still open in a slot. -/
def Slot.openCount (s : Slot) : Nat := (s.tickets.filter (fun o => !o.due)).length

/-- A closing recorded and answered: the ticket's health counts join the context's where it is accepted. -/
def Dev.closeTicket (d : Dev) (core : Nat) (t : SlotIx) (o : OpenTicket) : Dev :=
  let r := d.recordClose core t o
  let d := r.2.modSlot core t (fun s => { s with tickets := dropFirst (· == o) s.tickets })
  if r.1 then d.modCtx (d.slot core t).ctx (fun c => { c with health := c.health.join o.health }) else d

/-- Every due closing of a slot. -/
def Dev.closeDue (d : Dev) (core : Nat) (t : SlotIx) : Dev :=
  ((d.slot core t).tickets.filter OpenTicket.due).foldl (fun d o => d.closeTicket core t o) d

/-- The counter records a returned ticket; one that matches none is ignored. -/
def Dev.returnTicket (d : Dev) (core : Nat) (t : SlotIx) (o : OpenTicket) : Dev :=
  let j := core / 16
  let x := (d.slot core t).ctx
  let d := match (d.cluster j).queueOf x o.queue with
    | none => d
    | some q =>
      let i := ticketSlice o.ticket
      match (q.slice i).match_ core t.1 (ticketGen o.ticket) with
      | none => d
      | some w =>
        let now := d.cycleOf (islOfHub j)
        (((d.modCluster j (fun c => c.modQueue x o.queue (fun q =>
          (q.modSlice i (fun s => s.giveBack w)).recorded now))).count
          (hubKey j 2 0x820) 1).roundEnd j x o.queue)
  d.modSlot core t (fun s => { s with tickets := dropFirst (· == o) s.tickets })

/-- A slot returns its open tickets, those due for closing being closed (R144). -/
def Dev.returnAll (d : Dev) (core : Nat) (t : SlotIx) : Dev :=
  let d := d.closeDue core t
  (d.slot core t).tickets.foldl (fun d o => d.returnTicket core t o) d

/-! ## The commands -/

/-- Queue, destination and readiness of a slot's claim on its way to the counter. -/
def Slot.claimOut (s : Slot) : Option (Nat × Nat) :=
  match s.stall with
  | .claimSent g q => some (g, q)
  | .claimFull g q => if s.openCount < 2 then some (g, q) else none
  | _ => none

/-- A parity error in the state of a queue: state_parity, a GYLE-class record, and cause 10 for the context (R151,
R326). The event that met it is not recorded, and the queue's record is loaded again at the gyle's replay (R328). -/
def Dev.queueParity (d : Dev) (core : Nat) (t : SlotIx) : Dev :=
  let j := core / 16
  let x := (d.slot core t).ctx
  let d := d.errFire (hubKey j 2 0) 1 (1 + core % 16 * 2 ^ 8 + x * 2 ^ 16)
  let d := d.detect
    { cls := 1, detector := 0x0A, unitKind := Unit.hub, unit := j, island := islOfHub j, ctx := x, status := Code.errGyle
      address := 0, flags := 0, page := hubKey j 2 0 }
  d.abortCause x 10 Code.errGyle (srcIsland (islOfHub j))

/-- The counter records a slot's claim; the closings that the slot sent before it are recorded first, each in a hub
cycle of its own (R147; events of one cycle come in the order of their commands, assumption 122). -/
def claimRecordEff (core : Nat) (t : SlotIx) (parityBad : Bool) (d : Dev) : Dev :=
  let s := d.slot core t
  match s.claimOut with
  | none => d
  | some (g, num) =>
    let j := core / 16
    let d := d.carry (islOfCore core) (islOfHub j)
    if parityBad then d.queueParity core t
    else
    let d := d.closeDue core t
    let k := core % 16
    let reply := fun (ticket : W32) (origin ix : Nat) (failed : Bool) (d : Dev) =>
      d.modSlot core t (fun s => { s with stall := .claimReply g num ticket origin ix failed })
    match (d.cluster j).queueOf s.ctx num with
    | none => reply 0 0 0 true (d.errFire (hubKey j 2 0) 0 (k * 2 ^ 8 + s.ctx * 2 ^ 16))
    | some q =>
      if !(q.rec_.participants.getLsbD k) then
        reply 0 0 0 true (d.errFire (hubKey j 2 0) 0 (k * 2 ^ 8 + s.ctx * 2 ^ 16))
      else
        let hub := d.cycleOf (islOfHub j)
        let now := q.recordAt hub
        match q.grant core now with
        | .none =>
          let d := d.modCluster j (fun c => c.modQueue s.ctx num (fun q =>
            { (q.recorded hub) with zeroed := if q.zeroed.contains (core * 2 + t.1) then q.zeroed else q.zeroed ++ [core * 2 + t.1] }))
          (reply 0 0 0 false (d.count (hubKey j 2 0x818) 1)).roundEnd j s.ctx num
        | .slice dir owner i aged =>
          let gen := (q.slice i).gen + b2n aged
          let d := d.modCluster j (fun c => c.modQueue s.ctx num (fun q => (q.recorded hub).modSlice i (fun x =>
            { state := .claimed, gen := gen
              tickets := x.tickets ++ [{ gen := gen, core := core, slot := t.1, at_ := now }] })))
          let d := d.count (hubKey j 2 (if aged then 0x810 else if dir = 0 then 0x800 else 0x808)) 1
          reply (ticketOf gen dir num i) (i * q.rec_.sliceRows) (i - (q.portion owner).1) false d

/-- The reply reaches the core: the ticket or 0 goes to G and the program goes on; QUEUE_INVALID stops the task. -/
def claimReplyEff (core : Nat) (t : SlotIx) (d : Dev) : Dev :=
  let s := d.slot core t
  match s.stall with
  | .claimReply g num ticket origin ix failed =>
    let d := d.carry (islOfHub (core / 16)) (islOfCore core)
    if failed then (d.modSlot core t (fun s => { s with stall := .none })).taskFail core t Code.queueInvalid 0
    else
      (d.modSlot core t (fun s =>
        { (s.setG g ticket) with
          tickets := if ticket = 0 then s.tickets else s.tickets ++
            [{ ticket := ticket, queue := num, origin := origin, localIx := ix, running := 0, failed := false,
               reached := false, health := Health.zero }] })).goTo core t (s.seq.pc + 1)
  | _ => d

def ticketCloseEff (core : Nat) (t : SlotIx) (parityBad : Bool) (d : Dev) : Dev :=
  match (d.slot core t).tickets.find? OpenTicket.due with
  | none => d
  | some o =>
    let d := d.carry (islOfCore core) (islOfHub (core / 16))
    if parityBad then d.queueParity core t else d.closeTicket core t o

/-- The engine of the ISSUE at a slot's pc, none where another instruction or none stands there. -/
def Slot.issueEngine (s : Slot) : Option Nat :=
  match s.program[s.seq.pc]? with
  | none => none
  | some w => if w.toNat / 2 ^ 56 = 1 then some (bitsOf w.toNat 55 52) else none

/-- The instruction at a slot's pc is END. -/
def Slot.atEnd (s : Slot) : Bool :=
  match s.program[s.seq.pc]? with
  | none => false
  | some w => w.toNat / 2 ^ 56 == 15

/-- A tile boundary (R120): before an ISSUE to engine 0, or at END, with no descriptor queued or running. A
stopped task is at one when it has settled. -/
def Slot.atBoundary (s : Slot) : Bool := !s.busy && (s.issueEngine == some 0 || s.atEnd || s.ended.isSome)

/-- A slot executes instructions: its context runs in a gyle whose start is done, and neither R121, R239 nor its END
has stopped it. While an ABORT is applied it goes on up to its next ISSUE to engine 0 or its END (R235, R272). -/
def Dev.executes (d : Dev) (core : Nat) (t : SlotIx) : Bool :=
  let s := d.slot core t
  let c := d.ctx s.ctx
  let stopping := c.gyle.st == .applying && (match c.gyle.decision with
      | some k => !k.commit
      | none => false)
    && s.issueEngine != some 0 && !s.atEnd
  s.valid && !s.stopped && s.ended.isNone && !s.overrun && c.state == .running && !c.gyle.startPending
    && (c.gyle.st == .running || c.gyle.st == .voted || stopping)

/-- A slot that yields returns its first open ticket. -/
def ticketReturnEff (core : Nat) (t : SlotIx) (parityBad : Bool) (d : Dev) : Dev :=
  let s := d.slot core t
  if s.preempt && s.atBoundary then
    match s.tickets with
    | o :: _ =>
      let d := d.carry (islOfCore core) (islOfHub (core / 16))
      if parityBad then d.queueParity core t else if o.due then d.closeTicket core t o else d.returnTicket core t o
    | [] => d
  else d

/-- A reset that waits takes effect once the queue has no outstanding ticket (R149). -/
def queueResetEff (j ctx num : Nat) (d : Dev) : Dev :=
  match (d.cluster j).queueOf ctx num with
  | none => d
  | some q =>
    if q.resetPending && q.slices.all (fun s => s.tickets.isEmpty) then
      d.modCluster j (fun c => c.modQueue ctx num (fun q => { q.fresh with failed := false, resetPending := false }))
    else d

def execClaimReply (core : CoreId) (slot : SlotIx) (s : State) : Host.Outcome State Fault Refusal :=
  onCore s core.1 (claimReplyEff core.1 slot)
def execQueueReset (cluster : ClusterId) (ctx : CtxId) (queue : Fin 32) (s : State) :
    Host.Outcome State Fault Refusal := onHub s cluster.1 (queueResetEff cluster.1 ctx.1 queue.1)

end Sys2Proof.Machine
end

