-- ==== Sys2Proof/Machine/Cells.lean ====
section
/-! DEFINITION. The cell grid: tokens, links and credits (R155 to R159), fires (R160 to R163, R171), core-port
bindings (R165 to R170), cell events (R172), the stall probe (R173 to R175) and samples (R182). -/

namespace Sys2Proof.Machine

/-! ## Owners and links (R16, R17, R153, R154) -/

/-- CTL.split of a core's array. -/
def Dev.split (d : Dev) (core : Nat) : Bool := d.rnat (coreKey core 2 0x10) % 2 == 1

/-- The task slot that a cell belongs to. -/
def Dev.cellSlot (d : Dev) (core i : Nat) : SlotIx := if d.split core && decide (8 ≤ i) then 1 else 0

/-- The context that owns a cell. -/
def Dev.cellOwner (d : Dev) (core i : Nat) : Option Nat :=
  let s := d.slot core (d.cellSlot core i)
  if s.valid then some s.ctx else none

/-- Grid coordinates of a cell (R16). -/
def cellX (core i : Nat) : Nat := 64 * (core / 128 % 2) + 16 * (core / 16 % 4) + 4 * (core % 4) + i % 4
def cellY (core i : Nat) : Nat := 32 * (core / 256) + 16 * (core / 64 % 2) + 4 * (core / 4 % 4) + i / 4

/-- The cell at grid coordinates: core and cell index. -/
def cellAt (x y : Nat) : Nat × Nat :=
  (128 * (2 * (y / 32) + x / 64) + 16 * (4 * (y / 16 % 2) + x / 16 % 4) + 4 * (y / 4 % 4) + x / 4 % 4,
    4 * (y % 4) + x % 4)

/-- The neighbour of a cell behind a port: 1 north, 2 east, 3 south, 4 west. -/
def cellNear (core i port : Nat) : Option (Nat × Nat) :=
  let x := cellX core i
  let y := cellY core i
  match port with
  | 1 => if 0 < y then some (cellAt x (y - 1)) else none
  | 2 => if x < 127 then some (cellAt (x + 1) y) else none
  | 3 => if y < 63 then some (cellAt x (y + 1)) else none
  | 4 => if 0 < x then some (cellAt (x - 1) y) else none
  | _ => none

/-- The port of the other cell of a link. -/
def farPort (port : Nat) : Nat :=
  match port with
  | 1 => 3 | 2 => 4 | 3 => 1 | 4 => 2 | _ => 0

/-- A link is open where both its cells belong to one context (R154). -/
def Dev.linkOpen (d : Dev) (core i port : Nat) : Bool :=
  match cellNear core i port, d.cellOwner core i with
  | some n, some x => d.cellOwner n.1 n.2 == some x
  | _, _ => false

/-- Credit pool of the link between two cores' cells (Table 6.3). -/
def linkPool (a b : Nat) : Nat :=
  if islOfCore a = islOfCore b then 8 else if a / 128 = b / 128 then 24 else 72

/-! ## Table entries (Tables 6.2, 6.4, 6.6, 6.12) -/

abbrev Kind.data : Nat := 0
abbrev Kind.pred : Nat := 1
abbrev Kind.iter : Nat := 2
abbrev Kind.eos : Nat := 3
abbrev Kind.sem : Nat := 4

def Token.kind (t : Token) : Nat := bitsOf t.tag.toNat 15 12
def Token.epoch (t : Token) : Nat := bitsOf t.tag.toNat 11 10
def Token.stream (t : Token) : Nat := bitsOf t.tag.toNat 9 0

/-- A payload as its kind has it: one predicate bit, a 32-bit count, or zero. -/
def kindPayload (kind : Nat) (v : W128) : W128 :=
  match kind with
  | 1 => v &&& 1
  | 2 => v &&& 0xFFFFFFFF
  | 3 => 0
  | 4 => 0
  | _ => v

def Token.mk_ (kind epoch stream : Nat) (v : W128) : Token :=
  { tag := BitVec.ofNat 16 (kind * 4096 + epoch * 1024 + stream), payload := kindPayload kind v }

def feOp (e : W128) : Nat := bitsOf e.toNat 5 0
def feRnd (e : W128) : Nat := bitsOf e.toNat 7 6
def feBf16 (e : W128) : Bool := bitAt e.toNat 8
def feInf (e : W128) : Bool := bitAt e.toNat 9
def feEpoch (e : W128) : Nat := bitsOf e.toNat 11 10
def feValid (e : W128) : Bool := bitAt e.toNat 12
/-- Operand 0, 1, 2 as (source, stream or register). -/
def feOperand (e : W128) (n : Nat) : Nat × Nat :=
  (bitsOf e.toNat (16 * n + 18) (16 * n + 16), bitsOf e.toNat (16 * n + 28) (16 * n + 19))
/-- Output 0, 1 as (destination, stream or register, kind). -/
def feOut (e : W128) (n : Nat) : Nat × Nat × Nat :=
  (bitsOf e.toNat (24 * n + 66) (24 * n + 64), bitsOf e.toNat (24 * n + 76) (24 * n + 67),
    bitsOf e.toNat (24 * n + 80) (24 * n + 77))
def feReg (e : W128) : Nat := bitsOf e.toNat 117 112

def reStream (r : W32) : Nat := bitsOf r.toNat 9 0
def rePort (r : W32) : Nat := bitsOf r.toNat 12 10
def reEpoch (r : W32) : Nat := bitsOf r.toNat 14 13
def reValid (r : W32) : Bool := bitAt r.toNat 15

def bdCell (b : W128) : Nat := bitsOf b.toNat 3 0
def bdSlot (b : W128) : SlotIx := if bitAt b.toNat 4 then 1 else 0
def bdType (b : W128) : Nat := bitsOf b.toNat 7 5
def bdStream (b : W128) : Nat := bitsOf b.toNat 17 8
def bdEpoch (b : W128) : Nat := bitsOf b.toNat 19 18
def bdValid (b : W128) : Bool := bitAt b.toNat 20
def bdSemA (b : W128) : Nat := bitsOf b.toNat 23 21
def bdSemB (b : W128) : Nat := bitsOf b.toNat 26 24
def bdLen (b : W128) : Nat := bitsOf b.toNat 29 27
def bdRing (b : W128) : Nat := bitsOf b.toNat 53 32
/-- Slots of 16 bytes of the ring. -/
def bdSlots (b : W128) : Nat := bitsOf b.toNat 75 54 / 16
def bdBatch (b : W128) : Nat := bitsOf b.toNat 87 76
/-- IN_RING and SEM_IN take tokens from the cell. -/
def bdInbound (b : W128) : Bool := bdType b == 0 || bdType b == 2

/-- Streams that a firing entry produces. -/
def feOutStreams (e : W128) : List Nat :=
  ([0, 1].filter (fun n => decide ((feOut e n).1 ≤ 4))).map (fun n => (feOut e n).2.1)

/-- Streams that a firing entry names. -/
def feStreams (e : W128) : List Nat :=
  ([0, 1, 2].filter (fun n => decide ((feOperand e n).1 ≤ 4))).map (fun n => (feOperand e n).2) ++ feOutStreams e

/-! ## What a cell knows of a stream (R156) -/

/-- The valid route entry of a stream: its index and the entry. -/
def CellSt.routeEntry (c : CellSt) (s : Nat) : Option (Nat × W32) :=
  c.routes.find? (fun r => reValid r.2 && reStream r.2 == s)

/-- The valid route of a stream: output port and epoch. -/
def CellSt.routeOf (c : CellSt) (s : Nat) : Option (Nat × Nat) :=
  (c.routeEntry s).map (fun r => (rePort r.2, reEpoch r.2))

/-- The epoch of a stream at a cell that consumes it, by a firing entry or an inbound binding. -/
def Core.consumerEpoch (c : Core) (i s : Nat) : Option Nat :=
  match (c.cell i).firing.find? (fun e => feValid e.2
      && [0, 1, 2].any (fun n => decide ((feOperand e.2 n).1 ≤ 4) && (feOperand e.2 n).2 == s)) with
  | some e => some (feEpoch e.2)
  | none => (c.bindings.find? (fun b => bdValid b.2.cfg && bdInbound b.2.cfg && bdCell b.2.cfg == i
      && bdStream b.2.cfg == s)).map (fun b => bdEpoch b.2.cfg)

/-- The epoch of a stream at a cell; none where nothing names it. -/
def Core.epochAt (c : Core) (i s : Nat) : Option Nat :=
  match (c.cell i).routeOf s with
  | some r => some r.2
  | none => c.consumerEpoch i s

/-! ## Streams held for an apply (R176 to R178) -/

/-- The contents that a staged entry replaces, as the streams they name: table 0 firing, 1 route, 2 binding. -/
def Dev.liveStreams (d : Dev) (core : Nat) (e : StagedEntry) : List Nat :=
  match e.table with
  | 0 => (match tget? (d.cell core e.cell).firing e.index with
    | some x => if feValid x then feStreams x else []
    | none => [])
  | 1 => (match tget? (d.cell core e.cell).routes e.index with
    | some x => if reValid x then [reStream x] else []
    | none => [])
  | 2 => (match tget? (d.core core).bindings e.index with
    | some x => if bdValid x.cfg then [bdStream x.cfg] else []
    | none => [])
  | _ => []

/-- The streams that a staged entry names. -/
def StagedEntry.streams (e : StagedEntry) : List Nat :=
  match e.table with
  | 0 => if feValid e.value then feStreams e.value else []
  | 1 => if reValid (e.value.setWidth 32) then [reStream (e.value.setWidth 32)] else []
  | 2 => if bdValid e.value then [bdStream e.value] else []
  | _ => []

/-- The live contents that a staged entry is for. -/
def Dev.liveEntry (d : Dev) (core : Nat) (e : StagedEntry) : W128 :=
  match e.table with
  | 0 => tget (d.cell core e.cell).firing e.index 0
  | 1 => (tget (d.cell core e.cell).routes e.index 0).setWidth 128
  | _ => ((tget? (d.core core).bindings e.index).map (·.cfg)).getD 0

/-- The streams of an entry that changes: those of its old and its new contents; none where the staged contents are
the live ones (R176). -/
def Dev.changedStreams (d : Dev) (core : Nat) (e : StagedEntry) : List Nat :=
  if d.liveEntry core e = e.value then [] else e.streams ++ d.liveStreams core e

/-- The core of a CELLWIN page. -/
def coreOfPage (base : Nat) : Nat :=
  match pageOfKey base with
  | some p => p.unit
  | none => 0

/-- The context whose cells a staged entry changes. -/
def Dev.entryOwner (d : Dev) (e : StagedEntry) : Option Nat :=
  let core := coreOfPage e.page
  if e.table = 2 then
    let s := d.slot core (bdSlot e.value)
    if s.valid then some s.ctx else none
  else d.cellOwner core e.cell

/-- Affected streams of a context under the apply that runs. -/
def Dev.affected (d : Dev) (x : Nat) : List Nat :=
  match d.apply.run with
  | none => []
  | some r =>
    (d.apply.staged.filter (fun e => r.pages.contains e.page && d.entryOwner e == some x)).flatMap
      (fun e => d.changedStreams (coreOfPage e.page) e)

/-- Whether a core's island has stopped its producers for the apply and not yet swapped. -/
def Dev.heldIsland (d : Dev) (core : Nat) : Bool :=
  match d.apply.run with
  | none => false
  | some r => r.prepared.contains (islOfCore core) && !(r.swapped.contains (islOfCore core))

/-- Whether the core's island has acknowledged PREPARE. -/
def Dev.readyIsland (d : Dev) (core : Nat) : Bool :=
  match d.apply.run with
  | none => false
  | some r => r.ready.contains (islOfCore core)

/-- Whether what produces `outs` and names `all` is stopped on a core: a producer of an affected stream from PREPARE
on, and whatever names one from READY on (R177, R178). -/
def Dev.stoppedFor (d : Dev) (core x : Nat) (outs all : List Nat) : Bool :=
  d.heldIsland core && (if d.readyIsland core then all else outs).any (fun s => (d.affected x).contains s)

/-! ## Moves and events (R172, R173) -/

def moveKey (core : Nat) (t : SlotIx) : Nat := core * 2 + t.1

/-- A move of a slot's tokens: counted, and its idle count starts again. -/
def Dev.moved (d : Dev) (core : Nat) (t : SlotIx) : Dev :=
  let m := tget d.moves (moveKey core t) (0, 0)
  { d with moves := tset d.moves (moveKey core t) (0, m.2 + 1) }

/-- A context is halted: never run until CTX_RESUME; its tasks stop at their next tile boundary (R175, R247). -/
def Dev.haltCtx (d : Dev) (x : Nat) : Dev := (d.modCtx x (fun c => { c with halted := true })).preemptCtx x

/-- A cell event (Table 6.7): bits 0 to 2 are program defects, 3 to 6 hardware errors. -/
def Dev.cellEvent (d : Dev) (core i bit stream : Nat) : Dev :=
  let x := (d.cellOwner core i).getD 0
  let base := coreKey core 12 0
  let d := d.errFire base bit (bit + i * 2 ^ 4 + stream * 2 ^ 8 + x * 2 ^ 18)
  if bit ≤ 2 then
    let d := d.abortCause x 3 Code.cellDefect (srcCore core)
    (d.ctxEvent x Code.cellDefect (BitVec.ofNat 32 (core * 16 + i)) []).haltCtx x
  else
    (d.abortCause x 3 Code.errGyle (srcCore core)).detect
      (coreDetection core 1 9 Unit.cell (core * 16 + i) x Code.errGyle base)

/-! ## Queues and credits -/

def CellSt.queue (c : CellSt) (p : Nat) : List Token := c.queues.toList.getD p []
def CellSt.setQueue (c : CellSt) (p : Nat) (q : List Token) : CellSt :=
  if h : p < 5 then { c with queues := c.queues.set p q h } else c
def CellSt.coming (c : CellSt) (p : Nat) : List Token := c.inbound.toList.getD p []
def CellSt.setComing (c : CellSt) (p : Nat) (q : List Token) : CellSt :=
  if h : p < 5 then { c with inbound := c.inbound.set p q h } else c
def CellSt.spentOn (c : CellSt) (p : Nat) : Nat := c.spent.toList.getD p 0
def CellSt.setSpent (c : CellSt) (p n : Nat) : CellSt :=
  if h : p < 5 then { c with spent := c.spent.set p n h } else c
def CellSt.backOn (c : CellSt) (p : Nat) : Nat := c.returning.toList.getD p 0
def CellSt.setBack (c : CellSt) (p n : Nat) : CellSt :=
  if h : p < 5 then { c with returning := c.returning.set p n h } else c
def CellSt.served (c : CellSt) (p : Nat) : Nat := c.lastServed.toList.getD p 0
def CellSt.setServed (c : CellSt) (p n : Nat) : CellSt :=
  if h : p < 5 then { c with lastServed := c.lastServed.set p n h } else c

/-- The credit of a token that left the input queue of a port goes on its way back to the sender: the neighbour,
or the core for port 0. -/
def Dev.creditBack (d : Dev) (core i port : Nat) : Dev :=
  let give := fun (c i p : Nat) => d.modCell c i (fun s => s.setBack p (s.backOn p + 1))
  if port = 0 then give core i 0
  else
    match cellNear core i port with
    | some n => give n.1 n.2 (farPort port)
    | none => d

/-- The islands that a token passes from a core to a neighbouring core: over a die edge the ends of the die-to-die link
(R17, Table 6.3). -/
def linkPath (a b : Nat) : List Nat :=
  squeeze ([islOfCore a] ++ diePath (a / 128) (b / 128) ++ [islOfCore b])

/-- A token or a credit carried over a link's path by the channels of that link (Table 13.4); the die-to-die link has
its own. -/
def Dev.linkTravel (d : Dev) (core i port : Nat) : List Nat → Dev
  | a :: b :: r =>
    (if a / 256 = b / 256 then
      (if d.crossOpen a b then d.transferOn (linkKey core i port a b) 8 a b else d)
     else d.hop a b).linkTravel core i port (b :: r)
  | _ => d

/-- Whether a cell holds k credits of an output link that can carry a token. -/
def Dev.hasCredits (d : Dev) (core i port k : Nat) : Bool :=
  match cellNear core i port with
  | some n =>
    d.linkOpen core i port && d.pathOpen (linkPath core n.1)
      && decide ((d.cell core i).spentOn port + k ≤ linkPool core n.1)
  | none => false

/-- Whether a cell holds a credit of an output link. -/
def Dev.hasCredit (d : Dev) (core i port : Nat) : Bool := d.hasCredits core i port 1

/-- A token put onto an output link under a credit (R158). Over an island edge it crosses into the crossing buffer of
the receiving input, one transfer at each island of its way. -/
def Dev.sendToken (d : Dev) (core i port : Nat) (k : Token) : Dev :=
  match cellNear core i port with
  | none => d
  | some n =>
    let d := d.modCell core i (fun s => s.setSpent port (s.spentOn port + 1))
    let d := d.linkTravel core i port (linkPath core n.1)
    let d := d.modCell n.1 n.2 (fun s => s.setComing (farPort port) (s.coming (farPort port) ++ [k]))
    let d := d.count (coreKey core 12 (if islOfCore core = islOfCore n.1 then 0x808 else 0x810)) 1
    d.moved core (d.cellSlot core i)

/-- The oldest token of a stream taken out of an input queue, its credit returned. -/
def Dev.takeToken (d : Dev) (core i port stream : Nat) : Dev :=
  (d.modCell core i (fun s => s.setQueue port (dropFirst (fun k => k.stream == stream) (s.queue port)))).creditBack
    core i port

/-! ## TOKEN_ARRIVE, TOKEN_FORWARD, CREDIT_RETURN -/

/-- Whether the link behind an input port crosses an island or die edge, so that it has a crossing buffer. -/
def crossingPort (core i port : Nat) : Bool :=
  match cellNear core i port with
  | some n => islOfCore core != islOfCore n.1
  | none => false

/-- The oldest token on its way to an input port enters its queue, where the queue has room. A token with bad
parity, a miss and a stale epoch are discarded (Table 6.7); one of the next epoch waits in the queue while a swap
is pending (R178). -/
def tokenArriveEff (core i port : Nat) (parityBad : Bool) (d : Dev) : Dev :=
  let c := d.cell core i
  match c.coming port with
  | [] => d
  | k :: rest =>
    let full := decide (8 ≤ (c.queue port).length)
    if full && crossingPort core i port then d
    else
      let d := d.setCell core i (c.setComing port rest)
      let s := k.stream
      let drop := fun (d : Dev) (bit : Nat) => (d.creditBack core i port).cellEvent core i bit s
      if parityBad then drop d 3
      else if full then drop d 6
      else
        let enter := fun (d : Dev) =>
          (d.modCell core i (fun x => x.setQueue port (x.queue port ++ [k]))).moved core (d.cellSlot core i)
        match (d.core core).epochAt i s with
        | none => (drop d 0).count (coreKey core 12 0x830) 1
        | some e =>
          if k.epoch = e then enter d
          else if k.epoch = (e + 1) % 4 && (d.core core).swapPending then
            (enter d).count (coreKey core 12 0x840) 1
          else (drop d 1).count (coreKey core 12 0x828) 1

/-- The first token of an input queue that its route, where that is not stopped, sends to an output port. -/
def CellSt.forwardable (c : CellSt) (inp out : Nat) : Option Token :=
  (c.queue inp).find? (fun k => match c.routeEntry k.stream with
    | some r => rePort r.2 == out && reEpoch r.2 == k.epoch && !(c.stoppedRoutes.contains r.1)
    | none => false)

/-- Parity of the route entry of a stream fails: the entry stops (Table 6.7). -/
def Dev.stopRoute (d : Dev) (core i s : Nat) : Dev :=
  (d.modCell core i (fun c => match c.routeEntry s with
    | some r => { c with stoppedRoutes := r.1 :: c.stoppedRoutes }
    | none => c)).cellEvent core i 5 s

/-- The contenders of an output link in rotation: input ports 0 to 4 and 5, the cell's own results. -/
def rotation (n last : Nat) : List Nat := (List.range n).map (fun j => (last + 1 + j) % n)

/-- A router forwards the next token in rotation to an output link that has a credit; parity of its route entry may
fail. -/
def tokenForwardEff (core i port : Nat) (tableBad : Bool) (d : Dev) : Dev :=
  let c := d.cell core i
  if !(d.hasCredit core i port) then d
  else
    match (rotation 6 (c.served port)).findSome? (fun p =>
      if p = port ∨ p = 5 then none else (c.forwardable p port).map (fun k => (p, k))) with
    | none => d
    | some (p, k) =>
      if tableBad then d.stopRoute core i k.stream
      else
        let d := d.takeToken core i p k.stream
        (d.modCell core i (fun s => s.setServed port p)).sendToken core i port k

/-- The way of a returning credit: from the neighbour behind a port to the cell; none for the core's own link. -/
def creditWay (core i port : Nat) : Option (Nat × Nat × List Nat) :=
  (cellNear core i port).map (fun n => (n.1, n.2, linkPath n.1 core))

/-- A credit of an output link (0: of the core's link to the cell) comes back to its sender, over the same crossings as
the tokens. -/
def creditReturnEff (core i port : Nat) (d : Dev) : Dev :=
  if (d.cell core i).backOn port = 0 then d
  else
    let home := fun (d : Dev) =>
      d.modCell core i (fun s => (s.setBack port (s.backOn port - 1)).setSpent port (s.spentOn port - 1))
    match creditWay core i port with
    | none => home d
    | some (n, j, way) => if d.pathOpen way then home (d.linkTravel n j (farPort port) way) else d

/-! ## Operands and readiness of a firing entry (R161, R171) -/

/-- Operands of an operation other than MERGE and COUNT; none for a reserved op. -/
def opArity (op : Nat) : Option (List Nat) :=
  match op with
  | 0x00 => some [0] | 0x01 => some [0, 1] | 0x02 => some [0, 1] | 0x03 => some [0, 1] | 0x04 => some [0, 1, 2]
  | 0x05 => some [0, 1] | 0x06 => some [0, 1] | 0x07 => some [0] | 0x08 => some [0] | 0x09 => some [0, 1]
  | 0x0A => some [0, 1, 2] | 0x0B => some [0] | 0x0C => some [0] | 0x0D => some [0] | 0x0E => some [0]
  | 0x10 => some [0, 1] | 0x11 => some [0] | 0x18 => some [0] | 0x19 => some [0, 1] | 0x1A => some [0, 1, 2]
  | 0x1B => some [0] | 0x1C => some [0, 1] | _ => none

/-- The token that stands for an operand from a port: the first of its stream in the named queue, where it has
the entry's epoch. -/
def CellSt.operandToken (c : CellSt) (e : W128) (n : Nat) : Option Token :=
  let o := feOperand e n
  match (c.queue o.1).find? (fun k => k.stream == o.2) with
  | some k => if k.epoch = feEpoch e then some k else none
  | none => none

def fePort (e : W128) (n : Nat) : Bool := decide ((feOperand e n).1 ≤ 4)

/-- A MERGE whose chosen operand is an EOS takes the other input's as well (R163). -/
def CellSt.mergeTakes (c : CellSt) (e : W128) (n : Nat) : List Nat :=
  match (if fePort e n then c.operandToken e n else none) with
  | some k => if k.kind = Kind.eos then [0, 1, 2] else [0, n]
  | none => [0, n]

/-- The operands that a fire takes now. -/
def CellSt.operandsOf (c : CellSt) (ix : Nat) (e : W128) : List Nat :=
  if feOp e = 0x1B ∧ c.counting.contains ix then []
  else if feOp e = 0x1A then
    if fePort e 0 then
      match c.operandToken e 0 with
      | some k => if k.kind = Kind.pred then (if k.payload.getLsbD 0 then [0, 1] else [0, 2])
                  else if k.kind = Kind.eos then [0, 1, 2] else [0]
      | none => [0]
    else c.mergeTakes e (if (tget c.regs (bitsOf (feOperand e 0).2 5 0) 0).getLsbD 0 then 1 else 2)
  else (opArity (feOp e)).getD []

/-- The binding that takes a stream from a cell's core port. -/
def Core.inBinding (c : Core) (i s : Nat) : Option (Nat × BindSt) :=
  c.bindings.find? (fun b => bdValid b.2.cfg && bdInbound b.2.cfg && bdCell b.2.cfg == i && bdStream b.2.cfg == s)

/-- Room that IN_RING has, with the units of its semaphore that are present counted as consumed (R166). -/
def Dev.ringRoom (d : Dev) (core : Nat) (b : BindSt) : Nat :=
  let units := b.units + (d.slot core (bdSlot b.cfg)).sem (bdSemA b.cfg)
  bdSlots b.cfg + bdBatch b.cfg * units - b.pos

/-- The core port's credit for a stream: the ring space of its binding. -/
def Dev.portCredit (d : Dev) (core i s : Nat) : Bool :=
  match (d.core core).inBinding i s with
  | none => false
  | some b =>
    if bdType b.2.cfg = 2 then true
    else decide (((d.cell core i).outbound.filter (fun k => k.stream == s)).length < d.ringRoom core b.2)

/-- Whether an output of an entry has a credit. -/
def Dev.outCredit (d : Dev) (core i : Nat) (e : W128) (n : Nat) : Bool :=
  let o := feOut e n
  if o.1 = 0 then d.portCredit core i o.2.1 else if o.1 ≤ 4 then d.hasCredit core i o.1 else true

/-- Both outputs of an entry leave by one router link, so that a fire spends two of its credits. -/
def feTwin (e : W128) : Bool := (feOut e 0).1 == (feOut e 1).1 && decide (1 ≤ (feOut e 0).1 ∧ (feOut e 0).1 ≤ 4)

/-- Whether every output of an entry has its credit. -/
def Dev.outCredits (d : Dev) (core i : Nat) (e : W128) : Bool :=
  if feTwin e then d.hasCredits core i (feOut e 0).1 2 else d.outCredit core i e 0 && d.outCredit core i e 1

/-- Whether a firing entry is ready. -/
def Dev.entryReady (d : Dev) (core i ix : Nat) (e : W128) : Bool :=
  let c := d.cell core i
  feValid e && (opArity (feOp e)).isSome && !(c.stoppedEntries.contains ix)
    && (c.operandsOf ix e).all (fun n => !(fePort e n) || (c.operandToken e n).isSome)
    && d.outCredits core i e
    && !(d.stoppedFor core ((d.cellOwner core i).getD 0) (feOutStreams e) (feStreams e))

/-- The entry that a cell fires next: the first ready one in rotation. -/
def Dev.nextEntry (d : Dev) (core i : Nat) : Option (Nat × W128) :=
  let c := d.cell core i
  (rotation 64 c.lastFired).findSome? (fun ix =>
    match tget? c.firing ix with
    | some e => if d.entryReady core i ix e then some (ix, e) else none
    | none => none)

/-! ## Fires (R161 to R163) -/

/-- Lane j of w bits of a payload. -/
def lane (v : W128) (w j : Nat) : Nat := bitsOf v.toNat (w * j + w - 1) (w * j)
/-- A payload of lanes of w bits. -/
def ofLanes (w : Nat) (xs : List Nat) : W128 := BitVec.ofNat 128 (packNat w xs)

/-- An FP32 value with any NaN in its canonical form (R26). -/
def canonF32 (a : Nat) : Nat := if ofF32 a == .nan then canonNan 0 else a

/-- A BF16 lane in FP32, exact; a NaN in its canonical form. -/
def bf16Up (v : Nat) : Nat := canonF32 (v * 65536)

/-- A lane operation in FP32. -/
def cellLane (op a b c : Nat) : Nat :=
  match op with
  | 0x01 => fadd a b
  | 0x02 => fsub a b
  | 0x03 => fmul a b
  | 0x04 => ffma a b c
  | 0x05 => fmax a b
  | 0x06 => fmin a b
  | 0x07 => fabs a
  | 0x08 => fneg a
  | 0x09 => fcmpgt a b
  | 0x0A => canonF32 (if (ofF32 a).isZero then c else b)
  | 0x0B => frcp a
  | 0x0C => frsqrt a
  | 0x0D => fexp2 a
  | _ => flog2 a

/-- FP32 values rounded to BF16 lanes by an entry's modes, counted under engine 5; STOCH draws from stream
0xFE00 + cell under SEED[0] (R162). The element index counts the tokens of the stream of out0. Where out0 is a register
or none no stream is named and the spec gives no count: the model takes 0, the count that no stream has raised
(assumption 135). -/
def Dev.toBf16 (d : Dev) (core i : Nat) (e : W128) (xs : List Nat) : List Nat × Dev :=
  let x := (d.cellOwner core i).getD 0
  let g := d.ctx x
  let c : Conv :=
    { fmt := 1, mx := false, rnd := feRnd e, inf := feInf e
      rng := { seed := g.gyle.seeds.toList.getD 0 0, stream := 0xFE00 + i, gyle := g.field 0x80 6 } }
  let n := if (feOut e 0).1 ≤ 4 then tget (d.cell core i).tokenCount (feOut e 0).2.1 0 else 0
  let y := c.values 5 (some 0) g.health (n * 8) (xs.map ofF32)
  (y.1, d.modCtx x (fun g => { g with health := y.2 }))

/-- The result of a lane-wise operation. -/
def Dev.cellArith (d : Dev) (core i : Nat) (e a b c : W128) : W128 × Dev :=
  if feBf16 e then
    let up := fun (v : W128) (j : Nat) => bf16Up (lane v 16 j)
    let r := d.toBf16 core i e ((List.range 8).map (fun j => cellLane (feOp e) (up a j) (up b j) (up c j)))
    (ofLanes 16 r.1, r.2)
  else
    (ofLanes 32 ((List.range 4).map (fun j => cellLane (feOp e) (lane a 32 j) (lane b 32 j) (lane c 32 j))), d)

/-- A register written; the index's low 6 bits name it. -/
def CellSt.setReg (c : CellSt) (r : Nat) (v : W128) : CellSt := { c with regs := tset c.regs (r % 64) v }
def CellSt.reg (c : CellSt) (r : Nat) : W128 := tget c.regs (r % 64) 0

/-- A result leaves by an output of an entry. -/
def Dev.emit (d : Dev) (core i : Nat) (e : W128) (n kind : Nat) (v : W128) : Dev :=
  let o := feOut e n
  let s := o.2.1
  let k := Token.mk_ kind (feEpoch e) s v
  let counted := fun (d : Dev) => d.modCell core i (fun c =>
    { c with tokenCount := tset c.tokenCount s (tget c.tokenCount s 0 + 1) })
  if o.1 = 0 then counted (d.modCell core i (fun c => { c with outbound := c.outbound ++ [k] }))
  else if o.1 ≤ 4 then counted ((d.modCell core i (fun c => c.setServed o.1 5)).sendToken core i o.1 k)
  else if o.1 = 5 then d.modCell core i (fun c => c.setReg s v)
  else d

/-- The kind of a passing result: the output's own, or the data operand's where the output inherits. -/
def passKind (e : W128) (n inherited : Nat) : Nat :=
  let k := (feOut e n).2.2
  if k = 0 then inherited else k

/-- The value and kind of an operand: a token's, a register's (DATA), or, for a register that is not readable and
for a source of none, a free value. -/
def Dev.operandValue (d : Dev) (core i : Nat) (e : W128) (bad : Bool) (n : Nat) : W128 × Nat :=
  let c := d.cell core i
  let o := feOperand e n
  let free := BitVec.ofNat 128 (leNat (freeBytes d.free (16 * n) 16))
  if o.1 ≤ 4 then
    match c.operandToken e n with
    | some k => (k.payload, k.kind)
    | none => (0, 0)
  else if o.1 = 5 && !bad then (c.reg o.2, Kind.data)
  else (free, Kind.data)

/-- Whether a fire's port operands, which are not all EOS, are of the kinds that its operation takes (R163). -/
def kindsOk (op : Nat) (ns : List (Nat × Nat)) : Bool :=
  ns.all (fun n =>
    if n.2 = Kind.eos then false
    else if op = 0x19 ∨ op = 0x1A then n.1 != 0 || n.2 == Kind.pred
    else if op = 0x1C then (if n.1 = 0 then n.2 == Kind.pred else n.2 == Kind.data)
    else if op = 0x1B then n.2 == Kind.iter
    else if op = 0 ∨ op = 0x18 then true
    else n.2 == Kind.data)

/-- The effect of COUNT: the predicate of this fire, the remaining count kept in lane 0 of reg. -/
def Dev.countFire (d : Dev) (core i ix : Nat) (e : W128) (n : Nat) : Dev :=
  let low := fun (c : CellSt) (v : Nat) => c.setReg (feReg e)
    (BitVec.ofNat 128 ((c.reg (feReg e)).toNat / 2 ^ 32 * 2 ^ 32 + v % 2 ^ 32))
  if n = 0 then d
  else
    let d := d.modCell core i (fun c =>
      let c := low c (n - 1)
      { c with counting := if n = 1 then c.counting.filter (· != ix)
                           else if c.counting.contains ix then c.counting else c.counting ++ [ix] })
    d.emit core i e 0 Kind.pred (if n = 1 then 0 else 1)

/-- The results of a fire on the operand values (a, b, c) and the kind of its data operand. -/
def Dev.fireResult (d : Dev) (core i ix : Nat) (e a b c : W128) (kinds : Nat × Nat × Nat) : Dev :=
  match feOp e with
  | 0x00 => d.emit core i e 0 (passKind e 0 kinds.1) a
  | 0x18 => (d.emit core i e 0 (passKind e 0 kinds.1) a).emit core i e 1 (passKind e 1 kinds.1) a
  | 0x19 =>
    if a.getLsbD 0 then d.emit core i e 0 (passKind e 0 kinds.2.1) b else d.emit core i e 1 (passKind e 1 kinds.2.1) b
  | 0x1A =>
    if a.getLsbD 0 then d.emit core i e 0 (passKind e 0 kinds.2.1) b else d.emit core i e 0 (passKind e 0 kinds.2.2) c
  | 0x1B => d.countFire core i ix e (lane a 32 0)
  | 0x1C =>
    let old := (d.cell core i).reg (feReg e)
    let sum := ofLanes 32 ((List.range 4).map (fun j => fadd (lane old 32 j) (lane b 32 j)))
    if a.getLsbD 0 then d.modCell core i (fun s => s.setReg (feReg e) sum)
    else (d.modCell core i (fun s => s.setReg (feReg e) 0)).emit core i e 0 (feOut e 0).2.2 sum
  | 0x10 =>
    let r := d.toBf16 core i e ((List.range 4).map (lane a 32) ++ (List.range 4).map (lane b 32))
    r.2.emit core i e 0 (feOut e 0).2.2 (ofLanes 16 r.1)
  | 0x11 =>
    let up := fun (from_ : Nat) => ofLanes 32 ((List.range 4).map (fun j => bf16Up (lane a 16 (from_ + j))))
    (d.emit core i e 0 (feOut e 0).2.2 (up 0)).emit core i e 1 (feOut e 1).2.2 (up 4)
  | _ =>
    let r := d.cellArith core i e a b c
    r.2.emit core i e 0 (feOut e 0).2.2 r.1

/-- A fire of an entry that is ready. -/
def Dev.fire (d : Dev) (core i ix : Nat) (e : W128) (bad : Bool) : Dev :=
  let c := d.cell core i
  let ns := c.operandsOf ix e
  let ports := ns.filter (fePort e)
  let vals := [0, 1, 2].map (fun n => d.operandValue core i e bad n)
  let kinds := vals.map (·.2)
  let tokens := ports.map (fun n => (n, kinds.getD n 0))
  let take := fun (d : Dev) => ports.foldl (fun d n =>
    d.takeToken core i (feOperand e n).1 (feOperand e n).2) d
  let allEos := !ports.isEmpty && tokens.all (fun n => n.2 == Kind.eos)
  if !allEos && !(kindsOk (feOp e) tokens) then
    ((take d).cellEvent core i 2 (feOperand e 0).2).count (coreKey core 12 0x838) ports.length
  else
    let d := (take d.drew).modCell core i (fun s => { s with lastFired := ix })
    let d := (d.count (coreKey core 12 0x800) 1).moved core (d.cellSlot core i)
    if allEos then
      [0, 1].foldl (fun d n => if (feOut e n).1 ≤ 4 then d.emit core i e n Kind.eos 0 else d) d
    else
      let v := fun (n : Nat) => (vals.getD n (0, 0)).1
      let a := if feOp e = 0x1B ∧ ns.isEmpty then c.reg (feReg e) else v 0
      d.fireResult core i ix e a (v 1) (v 2) (kinds.getD 0 0, kinds.getD 1 0, kinds.getD 2 0)

/-- The cell fires its next entry, where that entry holds the named operation. Table parity stops the entry; an
uncorrected register is an event of its own (Table 6.7). -/
def cellOpEff (op core i : Nat) (u : Upset) (d : Dev) : Dev :=
  match d.nextEntry core i with
  | none => d
  | some (ix, e) =>
    if feOp e ≠ op then d
    else
      match u with
      | .none => d.fire core i ix e false
      | .memory _ => d.fire core i ix e false
      | .corrected _ =>
        ((d.count (coreKey core 0 0x800) 1).detect
          (coreDetection core 0 3 Unit.cell (core * 16 + i) ((d.cellOwner core i).getD 0) 0 (coreKey core 12 0))).fire
          core i ix e false
      | .uncorrected _ => (d.cellEvent core i 4 (feOperand e 0).2).fire core i ix e true
      | .parity =>
        (d.modCell core i (fun c => { c with stoppedEntries := c.stoppedEntries ++ [ix] })).cellEvent core i 5
          (feOperand e 0).2

/-! ## Core-port bindings (R165, R166) -/

def Dev.binding (d : Dev) (core n : Nat) : BindSt := tget (d.core core).bindings n { cfg := 0, pos := 0, units := 0, stopped := false }
def Dev.setBinding (d : Dev) (core n : Nat) (b : BindSt) : Dev :=
  d.modCore core (fun c => { c with bindings := tset c.bindings n b })

/-- A binding in use of a type, not stopped, whose slot holds a task. -/
def Dev.bindingOf (d : Dev) (core n type : Nat) : Option BindSt :=
  match tget? (d.core core).bindings n with
  | none => none
  | some b =>
      if bdValid b.cfg && !b.stopped && bdType b.cfg == type && (d.slot core (bdSlot b.cfg)).valid then some b else none

/-- What a binding of a type does. Parity of its entry may fail: then the binding stops (Table 6.7). -/
def Dev.withBinding (d : Dev) (core n type : Nat) (tableBad : Bool) (f : BindSt → Dev) : Dev :=
  match d.bindingOf core n type with
  | none => d
  | some b =>
    if tableBad then
      (d.setBinding core n { b with stopped := true }).cellEvent core (bdCell b.cfg) 5 (bdStream b.cfg)
    else f b

/-- The next token of a stream for a cell's core port: a result of the cell, or the head of the stream in an input
queue, with the port it stands at. -/
def CellSt.portToken (c : CellSt) (s epoch : Nat) : Option (Option Nat × Token) :=
  match c.outbound.find? (fun k => k.stream == s) with
  | some k => if k.epoch = epoch then some (none, k) else none
  | none =>
    [0, 1, 2, 3, 4].findSome? (fun p =>
      match (c.queue p).find? (fun k => k.stream == s) with
      | some k => if k.epoch = epoch then some (some p, k) else none
      | none => none)

/-- That token taken. -/
def Dev.takePortToken (d : Dev) (core i s : Nat) (port : Option Nat) : Dev :=
  match port with
  | some p => d.takeToken core i p s
  | none => d.modCell core i (fun c => { c with outbound := dropFirst (fun k => k.stream == s) c.outbound })

/-- A semaphore of the binding's slot lowered by n. -/
def Dev.semDown (d : Dev) (core : Nat) (t : SlotIx) (sem n : Nat) : Dev :=
  d.modSlot core t (fun s => s.setSem sem (s.sem sem - n))

/-- A token crosses the core port of a slot. -/
def Dev.portMoved (d : Dev) (core : Nat) (t : SlotIx) : Dev := (d.count (coreKey core 12 0x818) 1).moved core t

/-- IN_RING consumes every unit of its semaphore that is present, and writes the next token where the ring has
room. -/
def inRingEff (core n : Nat) (tableBad : Bool) (d : Dev) : Dev :=
  d.withBinding core n 0 tableBad (fun b =>
    let t := bdSlot b.cfg
    let i := bdCell b.cfg
    let s := bdStream b.cfg
    let units := (d.slot core t).sem (bdSemA b.cfg)
    let b := { b with units := b.units + units }
    let d := (d.semDown core t (bdSemA b.cfg) units).setBinding core n b
    match (d.cell core i).portToken s (bdEpoch b.cfg) with
    | none => d
    | some (port, k) =>
      if k.kind ≠ Kind.data then
        ((d.takePortToken core i s port).cellEvent core i 2 s).count (coreKey core 12 0x838) 1
      else if bdSlots b.cfg + bdBatch b.cfg * b.units ≤ b.pos then d
      else
        let d := d.takePortToken core i s port
        let at_ := bdRing b.cfg + 16 * (b.pos % max (bdSlots b.cfg) 1)
        let d := d.opWrite core t 0 at_ (leBytes 16 k.payload.toNat)
        let d := (d.setBinding core n { b with pos := b.pos + 1 }).portMoved core t
        if (b.pos + 1) % max (bdBatch b.cfg) 1 = 0 then d.semUp core t (bdSemB b.cfg) 1 else d)

/-- Whether an outbound binding may send: a credit of the core's link to the cell, and its stream not held. -/
def Dev.maySend (d : Dev) (core : Nat) (b : BindSt) : Bool :=
  decide ((d.cell core (bdCell b.cfg)).spentOn 0 < 8)
    && !(d.stoppedFor core (d.slot core (bdSlot b.cfg)).ctx [bdStream b.cfg] [bdStream b.cfg])

/-- A token of an outbound binding goes onto the core's link to the cell. -/
def Dev.portSend (d : Dev) (core : Nat) (b : BindSt) (kind : Nat) (v : W128) : Dev :=
  let k := Token.mk_ kind (bdEpoch b.cfg) (bdStream b.cfg) v
  (d.modCell core (bdCell b.cfg) (fun c => (c.setSpent 0 (c.spentOn 0 + 1)).setComing 0 (c.coming 0 ++ [k]))).portMoved
    core (bdSlot b.cfg)

/-- OUT_RING sends the token of its next ring slot; a batch begins by consuming a unit of its semaphore. -/
def outRingEff (core n : Nat) (tableBad : Bool) (d : Dev) : Dev :=
  d.withBinding core n 1 tableBad (fun b =>
    let t := bdSlot b.cfg
    let batch := max (bdBatch b.cfg) 1
    let starts := b.pos % batch == 0
    if !(d.maySend core b) || (starts && (d.slot core t).sem (bdSemA b.cfg) == 0) then d
    else
      let d := if starts then d.semDown core t (bdSemA b.cfg) 1 else d
      let at_ := bdRing b.cfg + 16 * (b.pos % max (bdSlots b.cfg) 1)
      let v := BitVec.ofNat 128 (leNat (d.opRead core t 0 at_ 16))
      let d := d.setBinding core n { b with pos := b.pos + 1, units := b.units + b2n starts }
      let d := d.portSend core b Kind.data v
      if (b.pos + 1) % batch = 0 then d.semUp core t (bdSemB b.cfg) 1 else d)

/-- SEM_IN turns a SEM token into a semaphore increment. -/
def semInEff (core n : Nat) (tableBad : Bool) (d : Dev) : Dev :=
  d.withBinding core n 2 tableBad (fun b =>
    let i := bdCell b.cfg
    let s := bdStream b.cfg
    match (d.cell core i).portToken s (bdEpoch b.cfg) with
    | none => d
    | some (port, k) =>
      let d := d.takePortToken core i s port
      if k.kind ≠ Kind.sem then (d.cellEvent core i 2 s).count (coreKey core 12 0x838) 1
      else (d.portMoved core (bdSlot b.cfg)).semUp core (bdSlot b.cfg) (bdSemA b.cfg) 1)

/-- LEN_OUT sends its length register as an ITER token; a negative value is sent as 0. -/
def lenOutEff (core n : Nat) (tableBad : Bool) (d : Dev) : Dev :=
  d.withBinding core n 3 tableBad (fun b =>
    let t := bdSlot b.cfg
    let s := d.slot core t
    if !(d.maySend core b) || s.sem (bdSemA b.cfg) == 0 then d
    else
      let v := (s.seq.len.toList.getD (bdLen b.cfg) 0).toInt.toNat
      (((d.semDown core t (bdSemA b.cfg) 1).setBinding core n { b with pos := b.pos + 1, units := b.units + 1 })).portSend
        core b Kind.iter (BitVec.ofNat 128 v))

/-! ## No progress (R173 to R175) -/

/-- The cells of a task slot of a core. -/
def Dev.slotCells (d : Dev) (core : Nat) (t : SlotIx) : List Nat := (List.range 16).filter (fun i => d.cellSlot core i == t)

/-- Tokens that a cell holds, those on their way to it included. -/
def CellSt.tokens (c : CellSt) : Nat :=
  ([0, 1, 2, 3, 4].map (fun p => (c.queue p).length + (c.coming p).length)).sum + c.outbound.length

/-- Tokens of a task slot. -/
def Dev.slotTokens (d : Dev) (core : Nat) (t : SlotIx) : Nat :=
  ((d.slotCells core t).map (fun i => (d.cell core i).tokens)).sum

/-- The slots of a context: core and slot, ascending. -/
def Dev.slotsOf (d : Dev) (x : Nat) : List (Nat × SlotIx) :=
  d.cores.flatMap (fun e =>
    (if e.2.slots[0].valid && e.2.slots[0].ctx == x then [(e.1, (0 : SlotIx))] else [])
    ++ (if e.2.slots[1].valid && e.2.slots[1].ctx == x then [(e.1, (1 : SlotIx))] else []))

/-- Those of them in an island. -/
def Dev.slotsIn (d : Dev) (isl x : Nat) : List (Nat × SlotIx) := (d.slotsOf x).filter (fun s => islOfCore s.1 == isl)

/-- Whether the slot's sequencer waits on a semaphore that a binding increments. -/
def Dev.waitsBinding (d : Dev) (core : Nat) (t : SlotIx) : Bool :=
  match (d.slot core t).stall with
  | .wait sem _ => (d.core core).bindings.any (fun b => bdValid b.2.cfg && bdSlot b.2.cfg == t
      && (if bdType b.2.cfg = 2 then bdSemA b.2.cfg == sem
          else decide (bdType b.2.cfg < 2) && bdSemB b.2.cfg == sem))
  | _ => false

/-- A slot whose idle count may rise: it holds a token or waits for a binding, with no engine work. -/
def Dev.idles (d : Dev) (core : Nat) (t : SlotIx) : Bool :=
  let s := d.slot core t
  (decide (0 < d.slotTokens core t) || d.waitsBinding core t) && !s.busy && !s.loading
    && (d.ctx s.ctx).state == .running

/-- STALL_LIMIT of a context. -/
def Ctx.stallLimit (c : Ctx) : Nat := if c.field 0x3C 4 = 0 then 1048576 else c.field 0x3C 4

/-- Every token of a context discarded, its links' credits whole again. -/
def CellSt.flushed (c : CellSt) : CellSt :=
  { c with queues := Vector.replicate 5 [], inbound := Vector.replicate 5 [], outbound := []
           spent := Vector.replicate 5 0, returning := Vector.replicate 5 0 }

/-- The cells of a slot changed. -/
def Dev.modSlotCells (d : Dev) (core : Nat) (t : SlotIx) (f : Nat → CellSt → CellSt) : Dev :=
  (d.slotCells core t).foldl (fun d i => d.modCell core i (f i)) d

def Dev.flushTokens (d : Dev) (x : Nat) : Dev :=
  (d.slotsOf x).foldl (fun d s => d.modSlotCells s.1 s.2 (fun _ c => c.flushed)) d

/-- STALL_DEADLOCK (R175). -/
def Dev.deadlock (d : Dev) (isl x : Nat) : Dev :=
  let d := d.abortCause x 4 Code.stallDeadlock (srcIsland isl)
  ((d.flushTokens x).ctxEvent x Code.stallDeadlock (BitVec.ofNat 32 isl) []).haltCtx x

/-- The islands of a context's cell region. -/
def Dev.regionOf (d : Dev) (x : Nat) : List Nat := ((d.slotsOf x).map (fun s => islOfCore s.1)).dedup

/-- An island's answer to a round of the controller's questions is recorded. -/
def stallProbeReplyEff (isl x : Nat) (d : Dev) : Dev :=
  let c := d.ctx x
  match c.probe with
  | none => d
  | some (round, first) =>
    let ss := d.slotsIn isl x
    if ss.isEmpty || c.probeSeen.contains isl then d
    else
      let count := fun (s : Nat × SlotIx) => tget d.moves (moveKey s.1 s.2) (0, 0)
      let atLimit := ss.all (fun s => d.slotTokens s.1 s.2 == 0 || decide (c.stallLimit ≤ (count s).1))
      let works := ss.any (fun s => (d.slot s.1 s.2).busy)
      let moves := (ss.map (fun s => (count s).2)).sum
      if !atLimit || works || (round == 2 && tget first isl 0 != moves) then
        d.modCtx x (fun c => { c with probe := none, probeSeen := [] })
      else
        let seen := isl :: c.probeSeen
        let first := if round = 1 then tset first isl moves else first
        if (d.regionOf x).all (fun i => seen.contains i) then
          if round = 1 then d.modCtx x (fun c => { c with probe := some (2, first), probeSeen := [] })
          else (d.modCtx x (fun c => { c with probe := none, probeSeen := [] })).deadlock isl x
        else d.modCtx x (fun c => { c with probe := some (round, first), probeSeen := seen })

/-! ## Samples (R182) -/

/-- Bits of the engines of a core that are busy for a context; bit 5 where its cells hold tokens. -/
def Dev.busyBits (d : Dev) (x core : Nat) : Nat :=
  ((d.slotsOf x).filter (fun s => s.1 == core)).foldl (fun v s =>
    let on := (List.range 10).filter (fun e =>
      if e = 5 then decide (0 < d.slotTokens s.1 s.2) else (d.slot s.1 s.2).descs.any (fun q => q.engine == e && !q.isFinished))
    on.foldl (fun v e => v ||| 2 ^ e) v) 0


/-- The depth class of a queue in a sample record. -/
def depthClass (n : Nat) : Nat := if n ≤ 2 then n else if n ≤ 4 then 3 else if n ≤ 6 then 4 else if n = 7 then 5 else 6

/-- Counts of a context's input queues in an island by depth class, then of its non-empty crossing buffers. -/
def Dev.depthCounts (d : Dev) (isl x : Nat) : List Nat :=
  let cells := (d.slotsIn isl x).flatMap (fun s => (d.slotCells s.1 s.2).map (fun i => (s.1, i)))
  let depths := cells.flatMap (fun c => [0, 1, 2, 3, 4].map (fun p => depthClass ((d.cell c.1 c.2).queue p).length))
  let crossing := cells.flatMap (fun c => [1, 2, 3, 4].filter (fun p =>
    crossingPort c.1 c.2 p && !((d.cell c.1 c.2).coming p).isEmpty))
  (List.range 7).map (fun k => (depths.filter (· == k)).length) ++ [crossing.length]

/-- An island writes a context's sample record. -/
def sampleRecordEff (isl x : Nat) (d : Dev) : Dev :=
  let c := d.ctx x
  let ss := d.slotsIn isl x
  if c.perfMode = 0 ∨ ss.isEmpty then d
  else
    let covered := ss.filter (fun s => c.perfMode == 1 || d.exactStale s.1 s.2)
    let cores := (List.range 512).filter (fun n => islOfCore n == isl)
    let busy := cores.flatMap (fun n => leBytes 2 (if covered.any (fun s => s.1 == n) then d.busyBits x n else 0))
    let body := busy ++ (d.depthCounts isl x).flatMap (leBytes 2)
    let w := d.perfRecord x isl 1 (coreKey (cores.headD 0) 13 0) body
    if w.1 then (covered.map (·.1)).dedup.foldl (fun d n => d.count (coreKey n 13 0x810) 1) w.2 else w.2

/-! ## The commands -/

def execTokenArrive (core : CoreId) (cell : CellIx) (port : Fin 5) (parityBad : Bool) (s : State) :
    Host.Outcome State Fault Refusal := onCore s core.1 (tokenArriveEff core.1 cell.1 port.1 parityBad)
def execTokenForward (core : CoreId) (cell : CellIx) (port : Meeting (Fin 5) Bool) (s : State) :
    Host.Outcome State Fault Refusal := onCore s core.1 (tokenForwardEff core.1 cell.1 port.at_.1 port.fault)
def execCreditReturn (core : CoreId) (cell : CellIx) (port : Fin 5) (s : State) : Host.Outcome State Fault Refusal :=
  onCore s core.1 (creditReturnEff core.1 cell.1 port.1)
def execLenOut (core : CoreId) (binding : Meeting (Fin 32) Bool) (s : State) : Host.Outcome State Fault Refusal :=
  onCore s core.1 (lenOutEff core.1 binding.at_.1 binding.fault)
def execStallProbeReply (isl : Isl) (ctx : CtxId) (s : State) : Host.Outcome State Fault Refusal :=
  onNamed s isl (stallProbeReplyEff (islId isl) ctx.1)
def execSampleRecord (isl : Isl) (ctx : CtxId) (s : State) : Host.Outcome State Fault Refusal :=
  onNamed s isl (sampleRecordEff (islId isl) ctx.1)

def execMov (core : CoreId) (cell : CellIx) (u : Upset) (s : State) : Host.Outcome State Fault Refusal :=
  onCore s core.1 (cellOpEff 0x00 core.1 cell.1 u)
def execAdd (core : CoreId) (cell : CellIx) (u : Upset) (s : State) : Host.Outcome State Fault Refusal :=
  onCore s core.1 (cellOpEff 0x01 core.1 cell.1 u)
def execSub (core : CoreId) (cell : CellIx) (u : Upset) (s : State) : Host.Outcome State Fault Refusal :=
  onCore s core.1 (cellOpEff 0x02 core.1 cell.1 u)
def execMul (core : CoreId) (cell : CellIx) (u : Upset) (s : State) : Host.Outcome State Fault Refusal :=
  onCore s core.1 (cellOpEff 0x03 core.1 cell.1 u)
def execFma (core : CoreId) (cell : CellIx) (u : Upset) (s : State) : Host.Outcome State Fault Refusal :=
  onCore s core.1 (cellOpEff 0x04 core.1 cell.1 u)
def execMax (core : CoreId) (cell : CellIx) (u : Upset) (s : State) : Host.Outcome State Fault Refusal :=
  onCore s core.1 (cellOpEff 0x05 core.1 cell.1 u)
def execMin (core : CoreId) (cell : CellIx) (u : Upset) (s : State) : Host.Outcome State Fault Refusal :=
  onCore s core.1 (cellOpEff 0x06 core.1 cell.1 u)
def execAbs (core : CoreId) (cell : CellIx) (u : Upset) (s : State) : Host.Outcome State Fault Refusal :=
  onCore s core.1 (cellOpEff 0x07 core.1 cell.1 u)
def execNeg (core : CoreId) (cell : CellIx) (u : Upset) (s : State) : Host.Outcome State Fault Refusal :=
  onCore s core.1 (cellOpEff 0x08 core.1 cell.1 u)
def execCmpgt (core : CoreId) (cell : CellIx) (u : Upset) (s : State) : Host.Outcome State Fault Refusal :=
  onCore s core.1 (cellOpEff 0x09 core.1 cell.1 u)
def execSel (core : CoreId) (cell : CellIx) (u : Upset) (s : State) : Host.Outcome State Fault Refusal :=
  onCore s core.1 (cellOpEff 0x0A core.1 cell.1 u)
def execRcp (core : CoreId) (cell : CellIx) (u : Upset) (s : State) : Host.Outcome State Fault Refusal :=
  onCore s core.1 (cellOpEff 0x0B core.1 cell.1 u)
def execRsqrt (core : CoreId) (cell : CellIx) (u : Upset) (s : State) : Host.Outcome State Fault Refusal :=
  onCore s core.1 (cellOpEff 0x0C core.1 cell.1 u)
def execExp2 (core : CoreId) (cell : CellIx) (u : Upset) (s : State) : Host.Outcome State Fault Refusal :=
  onCore s core.1 (cellOpEff 0x0D core.1 cell.1 u)
def execLog2 (core : CoreId) (cell : CellIx) (u : Upset) (s : State) : Host.Outcome State Fault Refusal :=
  onCore s core.1 (cellOpEff 0x0E core.1 cell.1 u)
def execCvtDown (core : CoreId) (cell : CellIx) (u : Upset) (s : State) : Host.Outcome State Fault Refusal :=
  onCore s core.1 (cellOpEff 0x10 core.1 cell.1 u)
def execCvtUp (core : CoreId) (cell : CellIx) (u : Upset) (s : State) : Host.Outcome State Fault Refusal :=
  onCore s core.1 (cellOpEff 0x11 core.1 cell.1 u)
def execDup (core : CoreId) (cell : CellIx) (u : Upset) (s : State) : Host.Outcome State Fault Refusal :=
  onCore s core.1 (cellOpEff 0x18 core.1 cell.1 u)
def execSteer (core : CoreId) (cell : CellIx) (u : Upset) (s : State) : Host.Outcome State Fault Refusal :=
  onCore s core.1 (cellOpEff 0x19 core.1 cell.1 u)
def execMerge (core : CoreId) (cell : CellIx) (u : Upset) (s : State) : Host.Outcome State Fault Refusal :=
  onCore s core.1 (cellOpEff 0x1A core.1 cell.1 u)
def execCount (core : CoreId) (cell : CellIx) (u : Upset) (s : State) : Host.Outcome State Fault Refusal :=
  onCore s core.1 (cellOpEff 0x1B core.1 cell.1 u)
def execAcc (core : CoreId) (cell : CellIx) (u : Upset) (s : State) : Host.Outcome State Fault Refusal :=
  onCore s core.1 (cellOpEff 0x1C core.1 cell.1 u)

end Sys2Proof.Machine
end

