-- ==== Sys2Proof/Machine/Hub.lean ====
section
/-! DEFINITION. Accesses of a hub to T1 and T2 (R193 to R203): translations and lines cached, bytes counted. -/

namespace Sys2Proof.Machine

/-- An entry removed so that a cache of `cap` entries takes one more; which one gives way is a free value. A
cache below its capacity may keep all. -/
def giveWay {α : Type} (xs : List α) (cap pick : Nat) : List α :=
  if xs.length < cap then xs.eraseIdx (pick % (xs.length + 1)) else xs.eraseIdx (pick % max xs.length 1)

/-- A hub translates a page of a context: a miss is counted and the entry kept, 1,024 in all (R194). -/
def Dev.xlateTouch (d : Dev) (j x page : Nat) : Dev :=
  let c := d.cluster j
  if c.xlate.contains (x, page) then d
  else
    let kept := if c.xlate.length < 1024 then c.xlate else giveWay c.xlate 1024 (Config.freeNat d.free)
    (d.drew.setCluster j { c with xlate := (x, page) :: kept }).count (hubKey j 1 0x820) 1

/-- Ways of a cluster cache that are locked for grist windows. -/
def Cluster.lockedWays (c : Cluster) : Nat := (c.locks.map (·.2)).sum

/-- Lines of 128 bytes that the ways not locked hold (R201, R204). -/
def Cluster.lineCap (c : Cluster) : Nat := (16 - c.lockedWays) * 16384

/-- The islands that hold the bytes of a place: its stacks' HBM islands, or the host island. -/
def Dev.placeIslands (d : Dev) (p : Phys) (n : Nat) : List Nat :=
  match p with
  | .t1 f off => (d.stackBytes f off n).map (fun s => islOfStack s.1)
  | .t2 _ => [islHost]

/-- A hub counts the bytes that it reads and writes by where they lie (Table 16.12). -/
def Dev.hubBytes (d : Dev) (j : Nat) (p : Phys) (n : Nat) (write : Bool) : Dev :=
  match p with
  | .t1 f _ =>
    if f / 65536 = j / 8 then d.count (hubKey j 0 (if write then 0x808 else 0x800)) n
    else d.count (hubKey j 0 (0x810 + 8 * (f / 65536))) n
  | .t2 _ => d.count (hubKey j 0 0x830) n

/-- A hub's request crosses to the islands of a place, over the die ring for another die's frames, and the answer comes
back (R15, R200). -/
def Dev.memTrip (d : Dev) (j : Nat) (p : Phys) (n : Nat) (write : Bool) : Dev :=
  ((d.placeIslands p n).foldl (fun d i => (d.carry (islOfHub j) i).carry i (islOfHub j)) d).hubBytes j p n write

/-- Whether a hub reaches every island that holds bytes of a range of a context's memory, and hears from it. -/
def Dev.memOpen (d : Dev) (j x va n : Nat) : Bool :=
  (piecesOf va n).all (fun p =>
    let t := (d.ctx x).translate p.1 false false
    t.1 != 0 || (d.placeIslands t.2 p.2).all (fun i =>
      d.routeOpen (islOfHub j) i && d.routeOpen i (islOfHub j)))

/-- The place of a line of 128 bytes. -/
def linePlace (line : Nat) : Phys :=
  if line < 2 ^ 53 then .t1 (line / 16384) (line % 16384 * 128) else .t2 (line * 128 - 2 ^ 60)

/-- A line read through a cluster cache: a hit or a miss is counted; a miss fetches the line and keeps it. -/
def Dev.lineTouch (d : Dev) (j line : Nat) : Dev :=
  let c := d.cluster j
  if c.cache.contains line then d.count (hubKey j 1 0x800) 1
  else
    let d := (d.drew.setCluster j { c with cache := line :: giveWay c.cache c.lineCap (Config.freeNat d.free) }).count
      (hubKey j 1 0x808) 1
    (d.placeRead (linePlace line) 128).memTrip j (linePlace line) 128 false

def Obj.noCache (o : Obj) : Bool := o.flags.getLsbD 8

/-- The first cached line of an access fails its ECC: it is dropped, so that the access fetches it again as a miss,
and the failure is counted, captured and recorded as CORRECTED (R203, Table 11.2). An access that finds no line of
its range in the cache meets no such failure. -/
def Dev.lineFault (d : Dev) (j x va : Nat) : Dev :=
  let c := d.cluster j
  match (linesOf ((d.ctx x).translate va false false).2 1).filter c.cache.contains with
  | [] => d
  | line :: _ =>
    let base := hubKey j 1 0
    let d := ((d.setCluster j { c with cache := c.cache.filter (· != line) }).count (base + 0x818) 1).errFire base 0 0
    d.detect
      { cls := 0, detector := 7, unitKind := Unit.hub, unit := j, island := islOfHub j, ctx := x, status := 0
        address := va, flags := 0, page := base }

/-- A cached translation fails its parity: it is dropped, so that the access fetches it again as a miss, and the HUB_CTL
page shows it (Table 16.12). An access whose translation is not cached meets no such failure. -/
def Dev.xlateFault (d : Dev) (j x page : Nat) : Dev :=
  let c := d.cluster j
  if c.xlate.contains (x, page) then
    (d.setCluster j { c with xlate := c.xlate.filter (· != (x, page)) }).errFire (hubKey j 0 0) 0 0
  else d

/-- What a piece of a read does beside delivering its bytes. -/
def Dev.readTouch (d : Dev) (j x va n : Nat) (p : Phys) : Dev :=
  let d := d.xlateTouch j x (va / 0x200000)
  let direct := match d.objAt x va with
    | some o => o.2.noCache
    | none => false
  if direct then (d.placeRead p n).memTrip j p n false
  else (linesOf p n).foldl (fun d l => d.lineTouch j l) d

/-- A read of a context's memory by a hub: status, bytes, and the device with its caches and counters. -/
def Dev.hubRead (d : Dev) (j x va n : Nat) : W16 × List Byte × Dev :=
  let r := d.ctxRead x va n
  if r.1 ≠ 0 then (r.1, [], d)
  else
    let c := d.ctx x
    (0, r.2, (piecesOf va n).foldl (fun d p => d.readTouch j x p.1 p.2 (c.translate p.1 false false).2) d.drew)

/-- Pieces of a hub's write (R202), up to the first that fails. -/
def Dev.hubWritePieces (d : Dev) (j x : Nat) (bs : List Byte) : List (Nat × Nat) → W16 × Dev
  | [] => (0, d)
  | p :: r =>
    let c := d.ctx x
    let next := c.gyle.st == .running && pteVersioned (c.pte (p.1 / 0x200000))
    let place := (c.translate p.1 true next).2
    let w := d.ctxWritePiece j x p.1 (bs.take p.2)
    if w.1 ≠ 0 then w
    else ((w.2.xlateTouch j x (p.1 / 0x200000)).memTrip j place p.2 true).hubWritePieces j x (bs.drop p.2) r

/-- A write to a context's memory by a hub. -/
def Dev.hubWrite (d : Dev) (j x va : Nat) (bs : List Byte) : W16 × Dev :=
  let st := (d.ctx x).rangeStatus va bs.length true
  if st = 0 then d.hubWritePieces j x bs (piecesOf va bs.length) else (st, d)

end Sys2Proof.Machine
end

