-- ==== Sys2Proof/Machine/Messages.lean ====
section
/-! DEFINITION. Fabric messages: headers and their bytes, the way a message takes to a port, sealing, and answers
(R289 to R293, R433). -/

namespace Sys2Proof.Machine

/-! ## Layout (Tables 10.3 and 10.4) -/

/-- A body of 20 bytes from its bytes, the first lowest. -/
def bodyOf (bs : List Byte) : BitVec 160 := BitVec.ofNat 160 (leNat bs)

/-- n bytes of a header's body from byte `off` of the header (0x24 up). -/
def bodyField (h : MsgHdr) (off n : Nat) : Nat := h.body.toNat / 2 ^ (8 * (off - 0x24)) % 2 ^ (8 * n)

/-- The 256 bytes of a header flit. -/
def hdrBytes (h : MsgHdr) : List Byte :=
  leBytes 1 h.type.toNat ++ leBytes 1 h.vc.1 ++ leBytes 2 h.dataFlits ++ leBytes 4 h.dst.toNat
  ++ leBytes 4 h.src.toNat ++ leBytes 2 h.dstCtx.toNat ++ leBytes 2 h.srcCtx.toNat ++ leBytes 4 h.job.toNat
  ++ leBytes 6 h.gyle.toNat ++ leBytes 1 h.attempt.toNat ++ leBytes 1 0 ++ leBytes 2 h.layoutEpoch.toNat
  ++ leBytes 2 0 ++ leBytes 4 h.tag.toNat ++ leBytes 20 h.body.toNat ++ leBytes 8 h.sequence.toNat
  ++ List.replicate 192 0

/-- Data cut into flits of 256 bytes, the last padded with zero bytes (R289). -/
def dataFlits (vc : Fin 4) (bs : List Byte) : Nat → List Flit
  | 0 => []
  | n + 1 => .data vc (bs.take 256 ++ List.replicate (256 - (bs.take 256).length) 0) :: dataFlits vc (bs.drop 256) n

def flitsOf (n : Nat) : Nat := (n + 255) / 256

/-- The 256 bytes of a flit; a tag flit carries the 16-byte tag and the 8-byte counter (R433). -/
def flitBytes : Flit → List Byte
  | .idle bs => bs
  | .head h => hdrBytes h
  | .data _ bs => bs
  | .tagFlit _ tag ctr => leBytes 16 tag.toNat ++ leBytes 8 ctr.toNat ++ List.replicate 232 0

/-- Bits [31:0] of a link word (Table 10.1). -/
def wordLow (w : LinkWord) : Nat :=
  w.seq.toNat + 2 ^ 10 * w.ack.toNat + 2 ^ 20 * b2n w.nak + 2 ^ 21 * b2n w.ackValid + 2 ^ 22 * (w.credit % 64)
  + 2 ^ 28 * w.creditVc.1

/-- The CRC of a group: over its flits and bits [31:0] of its link word. -/
def groupCrc (flits : List Flit) (w : LinkWord) : W32 := crc32c (flits.flatMap flitBytes ++ leBytes 4 (wordLow w))

/-- A received group is good: its CRC matches and no FEC codeword of it is uncorrectable (R284). -/
def groupGood (g : Group) : Bool := g.word.crc == groupCrc g.flits g.word && !g.fecBad

/-! ## Contexts as senders -/

/-- The device's own identifier (R291). -/
def Dev.selfId (d : Dev) : Nat := d.rnat (fabricKey 0x100) % 2 ^ 24

/-- A header whose sender is a context, with its job, gyle, attempt and layout epoch. -/
def Dev.hdrFrom (d : Dev) (x type : Nat) (vc : Fin 4) (dst dstCtx : Nat) (tag : W32) (body : BitVec 160) : MsgHdr :=
  let c := d.ctx x
  { type := BitVec.ofNat 8 type, vc := vc, dataFlits := 0, dst := BitVec.ofNat 24 dst
    src := BitVec.ofNat 24 d.selfId, dstCtx := BitVec.ofNat 16 dstCtx, srcCtx := BitVec.ofNat 16 x
    job := BitVec.ofNat 32 (c.field 0x94 4), gyle := BitVec.ofNat 48 (c.field 0x80 6)
    attempt := BitVec.ofNat 8 (c.field 0x92 2), layoutEpoch := BitVec.ofNat 16 (c.field 0xC0 2)
    tag := tag, body := body, sequence := 0 }

/-- A message's job, gyle and attempt are those of a context. -/
def Dev.sameAttempt (d : Dev) (x : Nat) (h : MsgHdr) : Bool :=
  let c := d.ctx x
  h.gyle.toNat == c.field 0x80 6 && h.attempt.toNat == c.field 0x92 2 % 256

/-! ## Sealing (R433) -/

/-- The nonce of a message: VC and port in a 32-bit word, then the counter. -/
def nonceOf (vc port ctr : Nat) : BitVec 96 := BitVec.ofNat 96 (vc + 16 * port + 2 ^ 32 * ctr)

/-- The entry of a partner is revoked and its keys erased (R432, R433). -/
def Dev.revokePartner (d : Dev) (p : Nat) : Dev :=
  d.setPartner p { d.partner p with state := .revoked, session := 0, encrypted := false, keyTx := 0, keyRx := 0 }

/-- A message is given to a port: its header takes the causal sequence of the port's island, and where the
partner's messages are encrypted it is sealed under the next counter (R289, R387, R433). The device has 12 ports. -/
def Dev.sendMsg (d : Dev) (p : Nat) (h : MsgHdr) (data : List Byte) : Dev :=
  let h := { h with dataFlits := flitsOf data.length, sequence := BitVec.ofNat 64 (d.seqOf (islOfPort p)) }
  let who := d.partner h.dst.toNat
  let put := fun (d : Dev) (fs : List Flit) =>
    d.modPort p (fun q => { q with tx := q.tx.set h.vc.1 (q.tx.get h.vc ++ fs) h.vc.2 })
  if 12 ≤ p then d
  else if who.encrypted && h.type != 0x07 then
    let k := h.dst.toNat * 4 + h.vc.1
    let ctr := tget (d.port p).sendCounters k 0 + 1
    let plain := data ++ List.replicate (256 * flitsOf data.length - data.length) 0
    let sealed := Config.aesGcmSeal who.keyTx (nonceOf h.vc.1 p ctr) (hdrBytes h) plain
    let d := d.modPort p (fun q => { q with sendCounters := tset q.sendCounters k ctr })
    let d := put d ([Flit.head h] ++ dataFlits h.vc sealed.1 (flitsOf data.length)
      ++ [Flit.tagFlit h.vc sealed.2 (BitVec.ofNat 64 ctr)])
    if ctr < 2 ^ 48 then d
    else (d.revokePartner h.dst.toNat).devEvent Code.partnerRevoked (BitVec.ofNat 32 h.dst.toNat) []
  else put d ([Flit.head h] ++ dataFlits h.vc data (flitsOf data.length))

/-! ## Partners (R291 to R293) -/

/-- Identifiers that no endpoint has (R291). -/
def reservedId (p : Nat) : Bool := p == 0 || p == 0xFFFFFF

def Dev.admitted (d : Dev) (p : Nat) : Bool := (d.partner p).state == .admitted

/-- Whether a partner is admitted and a port reaches it. -/
def Dev.reaches (d : Dev) (p port : Nat) : Bool := d.admitted p && (d.partner p).ports.getLsbD port

/-- STATUS.state of a port reads UP. -/
def Dev.portUp (d : Dev) (p : Nat) : Bool := d.rnat (tapKey p 0x14) % 4 == 2

/-- The port that a message to a partner takes where the spec names none: one of the partner's ports that is up,
else one of its ports; which of them is a free value. -/
def Dev.portFor (d : Dev) (p : Nat) : Option Nat :=
  let all := (List.range 12).filter (fun n => (d.partner p).ports.getLsbD n)
  let up := all.filter d.portUp
  let cands := if up = [] then all else up
  cands[Config.freeNat d.free % max cands.length 1]?

/-- A message to a partner by a port of the device's choice; none leaves where no port reaches the partner. -/
def Dev.sendTo (d : Dev) (h : MsgHdr) (data : List Byte) : Dev :=
  match d.portFor h.dst.toNat with
  | some p => d.drew.sendMsg p h data
  | none => d

/-! ## Receive buffers (R287, R292) -/

/-- The message at the head of a virtual channel's receive buffer, where its sender is admitted and it passes a
test. A device in another state than READY answers no message (R329). -/
def Dev.headMsg (d : Dev) (p : Nat) (vc : Fin 4) (test : RxMsg → Bool) : Option RxMsg :=
  match (d.port p).rx.get vc with
  | m :: _ => if d.sec.devState == .ready && m.admitted == some true && test m then some m else none
  | [] => none

/-- The flits of a message. -/
def RxMsg.flits (m : RxMsg) : Nat := 1 + m.hdr.dataFlits + b2n m.tag.isSome

/-- The head of a receive buffer leaves it: its flits' credits are to be returned. -/
def Dev.popMsg (d : Dev) (p : Nat) (vc : Fin 4) : Dev :=
  match (d.port p).rx.get vc with
  | m :: r =>
    d.modPort p (fun q => { q with
      rx := q.rx.set vc.1 r vc.2
      rxFlits := q.rxFlits.set vc.1 (q.rxFlits.get vc - m.flits) vc.2
      freed := q.freed.set vc.1 (q.freed.get vc + m.flits) vc.2 })
  | [] => d

/-! ## Answers (Table 10.4) -/

/-- The header of an answer: to the sender of a message, with its tag, from the context it was for. -/
def Dev.answerHdr (d : Dev) (m : MsgHdr) (type : Nat) (body : BitVec 160) : MsgHdr :=
  d.hdrFrom m.dstCtx.toNat type 0 m.src.toNat m.srcCtx.toNat m.tag body

def Dev.sendWack (d : Dev) (p : Nat) (m : MsgHdr) : Dev := d.sendMsg p (d.answerHdr m 2 0) []

/-- A NACK with its status, and for a window its number and the generation in force. -/
def Dev.sendNack (d : Dev) (p : Nat) (m : MsgHdr) (status : W16) (window gen : Nat) : Dev :=
  (d.sendMsg p (d.answerHdr m 3 (bodyOf (leBytes 2 status.toNat ++ leBytes 2 window ++ leBytes 2 gen))) []).count
    (tapKey p 0x828) 1

/-! ## Messages that await an answer (R304) -/

/-- A context's message joins those that await an answer, under the context's next message number. -/
def Dev.sendTracked (d : Dev) (x port : Nat) (h : MsgHdr) (data : List Byte) (mark : Bool) (sendId : Option Nat)
    (channel : Option Nat) (cask rack : Bool) : Dev :=
  let c := d.ctx x
  let tag := BitVec.ofNat 32 (c.msgNext % 2 ^ 31 + (if mark then 2 ^ 31 else 0))
  let h := { h with tag := tag }
  let m : InFlight :=
    { tag := tag, port := port, hdr := h, data := data, sendId := sendId, channel := channel, busy := false
      cask := cask, rack := rack }
  (d.modCtx x (fun c => { c with msgs := c.msgs ++ [m], msgNext := c.msgNext + 1 })).sendMsg port h data

end Sys2Proof.Machine
end

