-- ==== Sys2Proof/Machine/Memory.lean ====
section
/-! DEFINITION. Hub accesses, the scrub and uncorrectable words of HBM (R193, R196, R327, R358), grist fetches
(R212 to R217) and the zeroing of frames (R246, R424). -/

namespace Sys2Proof.Machine

/-! ## What a frame holds (Table 11.4) -/

/-- The use of a frame. -/
inductive FrameUse where
  | free
  | store
  /-- a version of a cask held for a partner: slot, and whether it is the older one -/
  | cask (slot : Nat) (older : Bool)
  | save (ctx : Nat)
  | table (ctx : Nat)
  /-- the current slot of an object, or its only one -/
  | object (num : Nat)
  /-- the next slot of a versioned page, or a log frame -/
  | next (num : Nat)
  deriving DecidableEq, Repr

/-- The cask version that a frame belongs to. -/
def CaskSlot.olderAt (s : CaskSlot) (frame : Nat) : Bool :=
  let second := !((s.frames.take (s.frames.length / 2)).contains frame)
  second != s.flipped

/-- Whether a frame is the next slot of the versioned page that it serves: the holder's translation does not give
it. -/
def Dev.isNextSlot (d : Dev) (o : Obj) (frame : Nat) : Bool :=
  o.isVersioned && (match o.holders with
    | h :: _ =>
      let c := d.ctx h.1
      (List.range (pagesOf o.size)).any (fun i => c.slotFrame (h.2.2 / 0x200000 + i) true == frame)
    | [] => false)

/-- What a frame of a die holds. -/
def Dev.frameUse (d : Dev) (frame : Nat) : FrameUse :=
  let die := frame / 65536
  let f := frame % 65536
  let pool := d.poolFrames.getD die 0
  if die = 0 ∧ pool ≤ f ∧ f < pool + 512 then .store
  else
    match d.casks.find? (fun s => s.2.frames.contains frame) with
    | some s => .cask s.1 (s.2.olderAt frame)
    | none =>
      match d.swapUsed.find? (fun e => e.2.contains frame) with
      | some e => .save e.1
      | none =>
        match d.ctxs.find? (fun e => e.2.tabFrames.contains frame) with
        | some e => .table e.1
        | none =>
          match d.objs.find? (fun e => e.2.logFrames.contains frame) with
          | some e => .next e.1
          | none =>
            match d.objs.find? (fun e => e.2.frames.contains frame || e.2.framesB.contains frame
                || e.2.moveFrames.contains frame) with
            | some e => if d.isNextSlot e.2 frame then .next e.1 else .object e.1
            | none => .free

/-! ## Uncorrectable and corrected words of HBM -/

/-- The CONTEXT class for a context: cause 10 with ERR_CONTEXT, and no automatic replay (R326). -/
def Dev.contextLoss (d : Dev) (isl x : Nat) : Dev :=
  (d.abortCause x 10 Code.errContext (srcIsland isl)).modGyle x (fun g =>
    if g.st == .running then { g with noReplay := true } else g)

/-- The GYLE class for a context, outside any descriptor (R326). -/
def Dev.gyleLoss (d : Dev) (isl x : Nat) : Dev := d.abortCause x 10 Code.errGyle (srcIsland isl)

/-- A loss of the GYLE class for those of some contexts whose gyle is running; where none's is, before the vote, the
finding has no cause and no class (Table 11.4). -/
def Dev.gyleLosses (d : Dev) (isl : Nat) (x : Detection) (hs : List Nat) : Dev :=
  match hs.filter (fun y => (d.ctx y).gyle.st == .running) with
  | [] => d.detectUnclassed x
  | y :: r => (y :: r).foldl (fun d y => d.gyleLoss isl y) (d.detect { x with ctx := y, status := Code.errGyle })

/-- A version of a held cask is lost, its owner is told, and ERR_STATUS says so (R358, Table 12.8). -/
def Dev.caskLose (d : Dev) (slot : Nat) (older : Bool) : Dev :=
  match tget? d.casks slot with
  | none => d
  | some s =>
    let i : Fin 2 := if older then 1 else 0
    let v : CaskVersion := { s.versions.get i with lost := true }
    let s2 : CaskSlot := { s with versions := s.versions.set i.1 v i.2 }
    let d := { d with casks := tset d.casks slot s2 }
    let h := d.hdrFrom 0 8 3 s.owner s.ctx 0
      (bodyOf (leBytes 1 4 ++ leBytes 1 (b2n older) ++ leBytes 2 slot ++ leBytes 4 s.key.toNat))
    (d.errFire (resilKey 0) 0 (s.ctx * 2 ^ 16)).sendTo
      { h with srcCtx := 0, job := 0, gyle := 0, attempt := 0, layoutEpoch := 0 } []

/-- A detection of HBM. -/
def hbmDetection (cls detector stack pc frame ctx : Nat) (status : W16) : Detection :=
  { cls := cls, detector := detector, unitKind := Unit.pc, unit := stack * 64 + pc, island := islOfStack stack
    ctx := ctx, status := status, address := frame, flags := 0, page := hbmKey stack 0 0 }

/-- A corrected word: the counters of the stack and of the pseudo-channel, and the record (R196, R331). -/
def Dev.hbmCorrected (d : Dev) (stack pc frame ctx : Nat) : Dev :=
  let d := (d.count (hbmKey stack 0 0x810) 1).count (hbmKey stack (1 + pc / 8) (0x800 + 16 * (pc % 8))) 1
  d.detect (hbmDetection 0 5 stack pc frame ctx 0)

/-- An uncorrectable word found by the scrub or by an access that no descriptor waits on: counted, captured, and
classed by what its frame holds (R196, R327). -/
def Dev.hbmUncorrected (d : Dev) (stack pc frame ctx : Nat) (scrub : Bool) : Dev :=
  let d := (d.count (hbmKey stack 0 0x818) 1).count (hbmKey stack (1 + pc / 8) (0x808 + 16 * (pc % 8))) 1
  let who := if ctx < 1024 then ctx else 0x3FF
  let d := d.errFire (hbmKey stack 0 0) 0 (pc + 2 ^ 7 * b2n scrub + 2 ^ 8 * who)
  let isl := islOfStack stack
  let det := fun cls owner status => hbmDetection cls 6 stack pc frame owner status
  let holdersOf : Nat → List Nat := fun n => (match tget? d.objs n with
    | some o => o.holders.map (·.1)
    | none => [])
  match d.frameUse frame with
  | .free => d.detect (det 0 0xFFFF 0)
  | .store => d.detect (det 3 0xFFFF Code.errDevice)
  | .cask s older => (d.detectUnclassed (det 0 0xFFFF 0)).caskLose s older
  | .save x => (d.detect (det 2 x Code.errContext)).contextLoss isl x
  | .table x => (d.detect (det 2 x Code.errContext)).contextLoss isl x
  | .next n => d.gyleLosses isl (det 1 0xFFFF 0) (holdersOf n)
  | .object n =>
    let hs := holdersOf n
    let flags := ((tget? d.objs n).map (·.flags.toNat)).getD 0
    if bitAt flags 4 || bitAt flags 5 || bitAt flags 6 then
      hs.foldl (fun d x => d.contextLoss isl x) (d.detect (det 2 (hs.headD 0xFFFF) Code.errContext))
    else d.gyleLosses isl (det 1 0xFFFF 0) hs

/-- What an access of a context to a range meets beside its own status: none unless the place is of the kind
that the finding needs. -/
def Dev.accessUpset (d : Dev) (x va n : Nat) (u : ReadUpset) : W16 × Dev :=
  let c := d.ctx x
  let places := (piecesOf va n).map (fun p => (c.translate p.1 false false).2)
  match u with
  | .none => (0, d)
  | .lineEcc => (0, d)
  | .xlateParity => (0, d)
  | .hostFail =>
    if places.any (fun p => match p with
      | .t2 _ => true
      | .t1 _ _ => false) then (Code.hostAccess, d) else (0, d)
  | .corrected =>
    match places.findSome? (fun p => match p with
      | .t1 f o => some (f, o)
      | .t2 _ => none) with
    | some (f, o) => (0, d.hbmCorrected (d.stackAt f o) (d.pcAt f o) f x)
    | none => (0, d)
  | .uncorrected =>
    match places.findSome? (fun p => match p with
      | .t1 f o => some (f, o)
      | .t2 _ => none) with
    | some (f, o) => (Code.memUncorrected, d.hbmUncorrected (d.stackAt f o) (d.pcAt f o) f x false)
    | none => (0, d)

/-! ## HUB_ACCESS -/

/-- A hub's read of a context's memory, with what it meets: status, bytes and the device (R193 to R202). -/
def Dev.hubReadMeets (d : Dev) (j x va n : Nat) (u : ReadUpset) : W16 × List Byte × Dev :=
  let d := if u = .lineEcc then d.lineFault j x va else d
  let d := if u = .xlateParity then d.xlateFault j x (va / 0x200000) else d
  let r := d.hubRead j x va n
  if r.1 ≠ 0 then (r.1, [], r.2.2)
  else
    let a := r.2.2.accessUpset x va n u
    (a.1, if a.1 = 0 then r.2.1 else [], a.2)

/-- A hub's write to a context's memory, with what it meets: of the findings a host failure and a translation's parity
concern a write. -/
def Dev.hubWriteMeets (d : Dev) (j x va : Nat) (bs : List Byte) (u : ReadUpset) : W16 × Dev :=
  let st := (d.ctx x).rangeStatus va bs.length true
  let f := if st = 0 && u == .hostFail then (d.accessUpset x va bs.length u).1 else 0
  if f ≠ 0 then (f, d)
  else (if u = .xlateParity then d.xlateFault j x (va / 0x200000) else d).hubWrite j x va bs

/-- A hub performs a context-address access; the answer to its requester is the status and, for a read that
succeeds, the bytes (R193 to R202). An access that would pass a closed crossing waits there: nothing happens (R382). -/
def hubAccessEff (j x : Nat) (write : Bool) (va : Nat) (data : List Byte) (u : ReadUpset) (d : Dev) : Dev :=
  if !(d.memOpen j x va data.length) then d
  else if write then
    let w := d.hubWriteMeets j x va data u
    { w.2 with answer := (w.1, []) }
  else
    let r := d.hubReadMeets j x va data.length u
    { r.2.2 with answer := (r.1, r.2.1) }

/-! ## SCRUB_STEP -/

def scrubStepEff (stack : Nat) (find : ScrubFind) (d : Dev) : Dev :=
  if !(d.stackIn stack) then d
  else
    match find with
    | .clean done_ => if done_ then d.count (hbmKey stack 0 0x820) 1 else d
    | .corrected pc => d.hbmCorrected stack (pc % 64) 0 0xFFFF
    | .uncorrected pc frame _ =>
      d.hbmUncorrected stack (pc % 64) (stack / 4 * 65536 + frame % 65536) 0xFFFF true
    | .caParity => d.errFire (hbmKey stack 0 0) 2 0x3FF00

/-! ## GRIST_FETCH -/

/-- Bytes that a stream holds unreleased. -/
def GStream.heldBytes (g : GStream) : Nat := (g.held.map (·.len)).sum

/-- Whether a context has a task in a slot of a cluster. -/
def Dev.onCluster (d : Dev) (j x : Nat) : Bool :=
  (List.range 16).any (fun k =>
    (d.core (16 * j + k)).slots.toList.any (fun s => s.valid && s.ctx == x))

/-- A range of a context's memory fetched by a hub past its cache lines: bytes counted, and the trips of its pieces. -/
def Dev.fetchTrip (d : Dev) (j x va n : Nat) : Dev :=
  (piecesOf va n).foldl (fun d p =>
    let place := ((d.ctx x).translate p.1 false false).2
    (d.placeRead place p.2).memTrip j place p.2 false) d

/-- The next sequence of a stream, where its window and its locked ways have room (R214): its bytes are held, or
the status that its fetch met (R216). -/
def gristFetchEff (j x stream : Nat) (u : ReadUpset) (d : Dev) : Dev :=
  match (d.cluster j).streams.find? (fun g => g.ctx == x && g.num == stream) with
  | none => d
  | some g =>
    let n := g.due
    if !(d.onCluster j x) || g.rec_.entries ≤ n || g.low + g.rec_.window ≤ n then d
    else
      let keep := fun (d : Dev) (va len : Nat) (fault : Option W16) =>
        d.modCluster j (fun c => c.setStream
          { g with next := n + 1, held := g.held ++ [{ num := n, va := va, len := len, fault := fault }] })
      let fail := fun (d : Dev) (st : W16) =>
        (keep d 0 0 (some st)).errFire (hubKey j 3 0) 1 (stream + x * 2 ^ 16)
      let entry := g.rec_.schedule + 8 * n
      let e := d.ctxRead x entry 8
      if e.1 ≠ 0 then fail d e.1
      else
        match d.objOf x g.rec_.object with
        | none => fail d Code.hbmAddress
        | some (_, o) =>
          let off := leNat e.2 % 2 ^ 48
          let va := (o.addrIn x).getD 0 + off
          let room := pagesOf o.size * 0x200000
          let h := d.ctxRead x va 64
          if room < off + 64 then fail d Code.hbmAddress
          else if h.1 ≠ 0 then fail d h.1
          else
            let len := max 64 (leNat ((h.2.drop 8).take 4))
            if g.rec_.lock * 0x200000 < g.heldBytes + len then d
            else if room < off + len then fail d Code.hbmAddress
            else if (d.ctxRead x va len).1 ≠ 0 then fail d (d.ctxRead x va len).1
            else if !(d.memOpen j x va len) then d
            else
              let a := d.drew.accessUpset x va len u
              if a.1 ≠ 0 then fail a.2 a.1
              else
                let d := ((keep a.2 va len none).stackReads x entry 8).fetchTrip j x va len
                (d.count (hubKey j 3 0x800) len).count (hubKey j 3 0x808) 1

/-! ## FRAME_ZEROED -/

/-- The frame that the zeroing of R424 takes as its n-th on a die: the partner-table store, the context pool in
ascending order with the swap reserve in its highest frames, the rest of the cask reservation. -/
def Dev.zeroOrder (d : Dev) (die n : Nat) : Nat :=
  let pool := d.poolFrames.getD die 0
  let s := storeFrames die
  if n < s then pool + n else if n < s + pool then n - s else n

/-- A frame of a die finishes zeroing: the oldest freed one, or the next of R424. The two share the rate, and which
one has its turn is a free value. -/
def frameZeroedEff (die : Nat) (d : Dev) : Dev :=
  let p := d.poolOf die
  let initial := decide (p.zeroed < d.regionFrames die)
  let wipe := fun (d : Dev) (f : Nat) => d.hbmClear (die * 65536 + f)
  if d.sec.devState != .ready then d
  else
    match p.toZero with
    | f :: rest =>
      if initial && Config.freeNat d.free % 2 == 1 then
        ((wipe d (d.zeroOrder die p.zeroed)).drew).setPool die { p with zeroed := p.zeroed + 1 }
      else ((wipe d f).drew).setPool die { p with toZero := rest }
    | [] =>
      if initial then (wipe d (d.zeroOrder die p.zeroed)).setPool die { p with zeroed := p.zeroed + 1 } else d

/-! ## The commands -/

def execHubAccess (cluster : ClusterId) (ctx : CtxId) (write : Bool) (va : Nat) (data : List Byte) (u : ReadUpset)
    (s : State) : Host.Outcome State Fault Refusal := onHub s cluster.1 (hubAccessEff cluster.1 ctx.1 write va data u)
def execScrubStep (stack : StackId) (find : ScrubFind) (s : State) : Host.Outcome State Fault Refusal :=
  onDev s (scrubStepEff stack.1 find)
def execGristFetch (cluster : ClusterId) (ctx : CtxId) (stream : Fin 8) (u : ReadUpset) (s : State) :
    Host.Outcome State Fault Refusal := onHub s cluster.1 (gristFetchEff cluster.1 ctx.1 stream.1 u)
def execFrameZeroed (die : DieId) (s : State) : Host.Outcome State Fault Refusal := onDev s (frameZeroedEff die.1)

end Sys2Proof.Machine
end

