-- ==== Sys2Proof/Machine/Engines.lean ====
section
/-! DEFINITION. The engines of a core beside its array: vector (R102 to R104), transpose (R105), softmax (R106 to
R108), gather/scatter (R109 to R111), top-k (R112, R113), quantiser (R114, R115), generator (R116) and copy (R492),
and the completion of a descriptor (R99, R183, R184). -/

namespace Sys2Proof.Machine

/-! ## Running a descriptor -/

/-- The descriptor of an engine that a slot runs next. -/
def Slot.nextOn (s : Slot) (engine : Nat) : Option QDesc := s.descs.find? (fun q => q.engine == engine && !q.isFinished)

/-- Whether a slot may start its next descriptor of an engine: of two slots that both have one, the slot that did
not start the previous descriptor goes first, and slot 0 from reset (R97). -/
def Dev.turnOf (d : Dev) (core : Nat) (t : SlotIx) (engine : Nat) : Bool :=
  let other : SlotIx := if t = 0 then 1 else 0
  !(((d.slot core other).nextOn engine).isSome && tget (d.core core).lastSlot engine 1 == t.1)

/-- What an engine hands back: the device, the descriptor's health counts and its status. -/
structure EngOut where
  d : Dev
  h : Health
  st : W16
  /-- what the next access to T1 or T2 meets -/
  mem : ReadUpset := .none

/-- The descriptor has run; its completion is still to be posted. -/
def Slot.finishOn (s : Slot) (engine : Nat) (h : Health) (status : W16) : Slot :=
  { s with
    descs := modFirst (fun q => q.engine == engine && !q.isFinished)
      (fun q => { q with st := .finished status, health := h }) s.descs }

/-- A descriptor with an empty masked shape reads and writes nothing (R493); a COMPACT of count 0 writes its
count (R109). -/
def QDesc.isVoid (q : QDesc) : Bool :=
  (q.rv == 0 || q.cv == 0) && !(q.engine == 4 && dOp q.bytes == 3 && dN q.bytes 0x20 4 == 0)

/-- The next descriptor of an engine run, where it holds the named operation and the slot has its turn; a slot whose
context is KILLED starts none (R245). An upset fails it, and what it has written is then unspecified (R89, R324,
assumption 16). All its granules are written in the one command (R88, assumption 118). -/
def Dev.engineRun (d : Dev) (core : Nat) (t : SlotIx) (engine op : Nat) (u : Upset) (run : Dev → QDesc → EngOut) : Dev :=
  let s := d.slot core t
  match s.nextOn engine with
  | none => d
  | some q =>
    if !(d.startsWork core t) || dOp q.bytes != op || !(d.turnOf core t engine) then d
    else
      let d := d.modCore core (fun c => { c with lastSlot := tset c.lastSlot engine t.1 })
      if q.isVoid then d.modSlot core t (fun s => s.finishOn engine q.health 0)
      else
        let d := (d.countNbrs core t q.bytes).upsetNote core t engine u
        let o := run d q
        let st := upsetStatus u
        if st = 0 then o.d.modSlot core t (fun s => s.finishOn engine o.h o.st)
        else (o.d.spoil core t q.bytes).modSlot core t (fun s => s.finishOn engine q.health st)

/-! ## Vector engine -/

/-- A kernel word's fields: op, destination, source a, source b. -/
def kernelWord (b : List Byte) (i : Nat) : Nat × Nat × Nat × Nat :=
  let w := dN b (2 * i) 2
  (w / 2 ^ 11, bitsOf w 10 8, bitsOf w 7 4, w % 16)

/-- A kernel word with a reserved op, or that names an absent input (R102). -/
def kernelBad (b : List Byte) (w : Nat × Nat × Nat × Nat) : Bool :=
  let gone := fun (s : Nat) => decide (8 ≤ s ∧ s ≤ 10) && dN b (0x10 + 4 * (s - 8)) 4 == absent
  decide (16 ≤ w.1) || gone w.2.2.1 || gone w.2.2.2

/-- The result of a kernel operation on a, b and the destination's old value (Table 4.6). -/
def kernelOp (op a b dst : Nat) : Nat :=
  match op with
  | 0 => a
  | 1 => fadd a b
  | 2 => fsub a b
  | 3 => fmul a b
  | 4 => ffma a b dst
  | 5 => fmax a b
  | 6 => fmin a b
  | 7 => fabs a
  | 8 => fneg a
  | 9 => frcp a
  | 10 => fsqrt a
  | 11 => frsqrt a
  | 12 => fexp2 a
  | 13 => flog2 a
  | 14 => fcmpgt a b
  | _ => if (ofF32 dst).isZero then b else a

/-- The value of a source code: T registers, inputs, constants, 1.0 and +0. -/
def kernelSrc (regs ins consts : List Nat) (s : Nat) : Nat :=
  if s < 8 then regs.getD s 0
  else if s < 11 then ins.getD (s - 8) 0
  else if s < 14 then consts.getD (s - 11) 0
  else if s = 14 then f32One else 0

/-- The T registers after a kernel, on the inputs of one element; they start at +0. -/
def kernelRun (words : List (Nat × Nat × Nat × Nat)) (ins consts : List Nat) : List Nat :=
  words.foldl (fun regs w =>
    regs.set w.2.1
      (kernelOp w.1 (kernelSrc regs ins consts w.2.2.1) (kernelSrc regs ins consts w.2.2.2) (regs.getD w.2.1 0)))
    (List.replicate 8 0)

/-- An element of an input widened to FP32; INT32 is rounded to nearest even. -/
def widen (fmt v : Nat) : Nat := toF32 (decodeElem fmt false v)

/-- A row of a vector input in FP32; empty where the stream is absent. -/
def Dev.vecIn (d : Dev) (core : Nat) (t : SlotIx) (b : List Byte) (field i cv : Nat) : List Nat :=
  if dN b field 4 = absent then []
  else (d.rowElems core t b field (i * dStride b 0x28) (fmtBits (dInFmt b)) cv).map (widen (dInFmt b))

/-- The largest of some values (R104). -/
def rowMax : List Nat → Nat
  | [] => 0
  | x :: r => r.foldl fmax x

/-- A row of output: one value where the row is reduced. -/
def reduceRow (reduce : Nat) (xs : List Nat) : List Nat :=
  if reduce = 1 then [rowSum xs] else if reduce = 2 then [rowMax xs] else xs

/-- The rows of a vector descriptor: values for out0 and for out1. Every input is read before any output is
written (assumption 17). -/
def Dev.vecRows (d : Dev) (core : Nat) (t : SlotIx) (q : QDesc) (words : List (Nat × Nat × Nat × Nat)) :
    List (List Nat × List Nat) :=
  let b := q.bytes
  let consts := [dN b 0x34 4, dN b 0x38 4, dN b 0x3C 4]
  (List.range q.rv).map (fun i =>
    let x := d.vecIn core t b 0x10 i q.cv
    let y := d.vecIn core t b 0x14 i q.cv
    let z := d.vecIn core t b 0x18 i q.cv
    let regs := (List.range q.cv).map (fun c => kernelRun words [x.getD c 0, y.getD c 0, z.getD c 0] consts)
    (reduceRow (dN b 0x2E 1) (regs.map (fun r => r.getD (dN b 0x2C 1 % 8) 0)),
      regs.map (fun r => r.getD (bitsOf (dN b 0x2C 1) 5 3) 0)))

/-- A row converted to out_fmt under no scale, stored and counted. -/
def EngOut.convRow (o : EngOut) (c : Conv) (code core : Nat) (t : SlotIx) (b : List Byte) (dst off full index : Nat)
    (xs : List Nat) : EngOut :=
  let y := c.values code (some 0) o.h index (xs.map ofF32)
  { o with d := o.d.rowStore core t b dst off (fmtBits c.fmt) full y.1, h := y.2 }

def vectorRun (core : Nat) (t : SlotIx) (d : Dev) (q : QDesc) : EngOut :=
  let b := q.bytes
  let kernel := d.fieldRead core t b 0x30 0 (dN b 0x2D 1 * 2)
  let words := (List.range (dN b 0x2D 1)).map (kernelWord kernel)
  if words.any (kernelBad b) then { d := d, h := q.health, st := Code.descFieldInvalid }
  else
    let c := d.convOf (d.slot core t).ctx b
    let cols := dN b 0x26 2
    let full := if dN b 0x2E 1 = 0 then cols else 1
    let rows := (d.vecRows core t q words).zipIdx
    let o := rows.foldl (fun o r =>
      o.convRow c 2 core t b 0x1C (r.2 * dStride b 0x2A) full (r.2 * cols + dIndexBase b) r.1.1)
      ({ d := d, h := q.health, st := 0 } : EngOut)
    if bitAt (dN b 0x2C 1) 6 && dN b 0x20 4 != absent then
      rows.foldl (fun o r =>
        o.convRow c 2 core t b 0x20 (r.2 * dStride b 0x2A) cols
          (r.2 * cols + dIndexBase b + dN b 0x24 2 * cols) r.1.2) o
    else o

def vectorDescriptorEff (core : Nat) (t : SlotIx) (u : Upset) (d : Dev) : Dev :=
  d.engineRun core t 2 0 u (vectorRun core t)

/-! ## Transpose engine -/

def transposeRun (core : Nat) (t : SlotIx) (d : Dev) (q : QDesc) : EngOut :=
  let b := q.bytes
  let w := fmtBits (dInFmt b)
  let src := (List.range q.rv).map (fun i => d.rowElems core t b 0x10 (i * dStride b 0x1C) w q.cv)
  let d := (List.range q.cv).foldl (fun d j =>
    d.rowStore core t b 0x14 (j * dStride b 0x1E) w (dN b 0x18 2) (src.map (fun r => r.getD j 0))) d
  { d := d, h := q.health, st := 0 }

def transposeEff (core : Nat) (t : SlotIx) (u : Upset) (d : Dev) : Dev :=
  d.engineRun core t 6 0 u (transposeRun core t)

/-! ## Softmax engine -/

/-- −∞ in FP32. -/
def f32NegInf : Nat := 0xFF800000

/-- A row's running state: maximum and sum. -/
structure SmState where
  mx : Nat
  l : Nat
  deriving DecidableEq, Repr

/-- A row with no unmasked element so far (R107). -/
def SmState.bare (s : SmState) : Bool := s.mx == f32NegInf && s.l == 0

/-- The unmasked elements of a row as (σ × s), none where an element is masked (R106). -/
def smScores (b : List Byte) (i : Nat) (row : List Nat) : List (Option Nat) :=
  let sigma := dN b 0x2C 4
  let diag := signedField (dN b 0x30 4) 32
  row.zipIdx.map (fun e =>
    if bitAt (dN b 0x34 1) 0 && decide ((i : Int) + diag < e.2) then none
    else some (fmul sigma (widen (dInFmt b) e.1)))

/-- exp(x − m) of each unmasked element; a masked one gives +0. -/
def smExps (xs : List (Option Nat)) (m : Nat) : List Nat :=
  xs.map (fun x => match x with
    | some x => fexp (fsub x m)
    | none => 0)

/-- A row of a forward operation from a state: the new state, the factor c and the probabilities. `first` starts
the row (FWD_FIRST, FWD_ONLY). The factor of a row that stays without an unmasked element has no stated value and
is `free`. -/
def smForward (first : Bool) (s : SmState) (xs : List (Option Nat)) (free : Nat) : SmState × Nat × List Nat :=
  let old := if first then { mx := f32NegInf, l := 0 } else s
  match xs.filterMap id with
  | [] => (old, if old.bare then free else fexp (fsub old.mx old.mx), smExps xs old.mx)
  | ys =>
    let m := if first then rowMax ys else fmax old.mx (rowMax ys)
    let ps := smExps xs m
    let c := if old.bare then 0 else fexp (fsub old.mx m)
    let l := if first then rowSum ps else fadd (fmul old.l c) (rowSum ps)
    ({ mx := m, l := l }, c, ps)

/-- What a softmax descriptor reads for row i: its elements, its state and its lse. -/
structure SmIn where
  i : Nat
  row : List Nat
  old : SmState
  lse : Nat

/-- The rows of a softmax descriptor, all read before any output is written (assumption 17). -/
def Dev.smRows (d : Dev) (core : Nat) (t : SlotIx) (q : QDesc) : List SmIn :=
  let b := q.bytes
  (List.range q.rv).map (fun i =>
    { i := i, row := d.rowElems core t b 0x10 (i * dStride b 0x28) (fmtBits (dInFmt b)) q.cv
      old := { mx := leNat (d.fieldRead core t b 0x18 (8 * i) 4), l := leNat (d.fieldRead core t b 0x18 (8 * i + 4) 4) }
      lse := leNat (d.fieldRead core t b 0x1C (4 * i) 4) })

/-- One row of a forward softmax operation. -/
def smRow (core : Nat) (t : SlotIx) (c : Conv) (q : QDesc) (o : EngOut) (x : SmIn) : EngOut :=
  let b := q.bytes
  let op := dOp b
  let cols := dN b 0x26 2
  let i := x.i
  let xs := smScores b i x.row
  let first := op == 0 || op == 3
  let r := smForward first x.old xs (Config.freeWord o.d.free).toNat
  let o := { o with d := o.d.drew }
  let o := o.convRow c 3 core t b 0x14 (i * dStride b 0x2A) cols (i * cols + dIndexBase b) r.2.2
  let d := o.d.fieldWrite core t b 0x18 (8 * i) (leBytes 4 r.1.mx ++ leBytes 4 r.1.l)
  let d := if first then d else d.fieldWrite core t b 0x20 (4 * i) (leBytes 4 r.2.1)
  let d := if op = 2 ∨ op = 3 then d.fieldWrite core t b 0x1C (4 * i) (leBytes 4 (fadd r.1.mx (fln r.1.l))) else d
  { o with d := if r.1.bare then d.engineCount core 3 0x820 1 else d }

def softmaxRun (core : Nat) (t : SlotIx) (d : Dev) (q : QDesc) : EngOut :=
  let c := d.convOf (d.slot core t).ctx q.bytes
  (d.smRows core t q).foldl (smRow core t c q) { d := d, h := q.health, st := 0 }

/-- One row of RECOMPUTE: a row whose lse is −∞ gives P = +0 (R107). -/
def recomputeRow (core : Nat) (t : SlotIx) (c : Conv) (q : QDesc) (o : EngOut) (x : SmIn) : EngOut :=
  let b := q.bytes
  let cols := dN b 0x26 2
  let i := x.i
  let bare := x.lse == f32NegInf
  let ps := if bare then List.replicate q.cv 0 else smExps (smScores b i x.row) x.lse
  let o := o.convRow c 3 core t b 0x14 (i * dStride b 0x2A) cols (i * cols + dIndexBase b) ps
  { o with d := if bare then o.d.engineCount core 3 0x820 1 else o.d }

def recomputeRun (core : Nat) (t : SlotIx) (d : Dev) (q : QDesc) : EngOut :=
  let c := d.convOf (d.slot core t).ctx q.bytes
  (d.smRows core t q).foldl (recomputeRow core t c q) { d := d, h := q.health, st := 0 }

def fwdFirstEff (core : Nat) (t : SlotIx) (u : Upset) (d : Dev) : Dev := d.engineRun core t 3 0 u (softmaxRun core t)
def fwdNextEff (core : Nat) (t : SlotIx) (u : Upset) (d : Dev) : Dev := d.engineRun core t 3 1 u (softmaxRun core t)
def fwdLastEff (core : Nat) (t : SlotIx) (u : Upset) (d : Dev) : Dev := d.engineRun core t 3 2 u (softmaxRun core t)
def fwdOnlyEff (core : Nat) (t : SlotIx) (u : Upset) (d : Dev) : Dev := d.engineRun core t 3 3 u (softmaxRun core t)
def recomputeEff (core : Nat) (t : SlotIx) (u : Upset) (d : Dev) : Dev :=
  d.engineRun core t 3 4 u (recomputeRun core t)

/-! ## Gather/scatter engine -/

/-- A row of the table read, with what an access to T1 or T2 meets: status, bytes and the device (R109, R193, R196,
R208). -/
def Dev.tableRead (d : Dev) (core : Nat) (t : SlotIx) (b : List Byte) (ix n : Nat) (u : ReadUpset) :
    W16 × List Byte × Dev :=
  if tableHbm b then
    let r := (d.carry (islOfCore core) (islOfHub (core / 16))).hubReadMeets (core / 16) (d.slot core t).ctx
      (dN b 0x18 8 % 2 ^ 48 + ix * dN b 0x28 2) n u
    (r.1, r.2.1, r.2.2.carry (islOfHub (core / 16)) (islOfCore core))
  else (0, d.fieldRead core t b 0x18 (ix * dN b 0x28 2) n, d)

/-- A row of the table written. -/
def Dev.tableWrite (d : Dev) (core : Nat) (t : SlotIx) (b : List Byte) (ix : Nat) (bs : List Byte) (u : ReadUpset) :
    W16 × Dev :=
  if tableHbm b then
    let r := (d.carry (islOfCore core) (islOfHub (core / 16))).hubWriteMeets (core / 16) (d.slot core t).ctx
      (dN b 0x18 8 % 2 ^ 48 + ix * dN b 0x28 2) bs u
    (r.1, r.2.carry (islOfHub (core / 16)) (islOfCore core))
  else (0, d.fieldWrite core t b 0x18 (ix * dN b 0x28 2) bs)

/-- What a descriptor's first access to T1 or T2 meets. -/
def upsetMem (u : Upset) : ReadUpset :=
  match u with
  | .memory r => r
  | _ => .none

/-- The signed index at a list position, where it lies below a bound. -/
def Dev.indexAt (d : Dev) (core : Nat) (t : SlotIx) (b : List Byte) (i bound : Nat) : Option Nat :=
  let v := leNat (d.fieldRead core t b 0x14 (4 * i) 4)
  if v < 2 ^ 31 ∧ v < bound then some v else none

/-- An index out of range: with the strict bit it fails the descriptor (R109). It is counted in INDEX_OOR either way:
whether the strict failure counts too the spec leaves open (assumption 119). -/
def EngOut.outOfRange (o : EngOut) (core : Nat) (b : List Byte) : EngOut :=
  let d := o.d.engineCount core 4 0x820 1
  { o with d := d, st := if bitAt (dN b 0x38 1) 0 then Code.gatherIndexRange else 0 }

/-- The sums of a table row and a dense row, converted. Under STOCH, element j of table row ix has index ix × e + j: the
row of the destination, the table (assumption 23). -/
def EngOut.addRows (o : EngOut) (c : Conv) (b tab dense : List Byte) (ix : Nat) : EngOut × List Byte :=
  let e := scatterElems b
  let ow := fmtBits (dOutFmt b)
  let sums := (List.range e).map (fun j =>
    fadd (widen (dOutFmt b) (unpackElem tab ow j)) (widen (dInFmt b) (unpackElem dense (fmtBits (dInFmt b)) j)))
  let y := c.values 4 (some 0) o.h (ix * e + dIndexBase b) (sums.map ofF32)
  ({ o with h := y.2 }, packRow ow y.1)

/-- The row at list position i moved or added, index ix (Table 4.8). An access that is refused ends the
descriptor with its status. -/
def EngOut.moveRow (o : EngOut) (c : Conv) (u : Upset) (core : Nat) (t : SlotIx) (b : List Byte) (i ix : Nat) : EngOut :=
  let rb := dN b 0x28 2
  let fail := upsetStatus u != 0
  match dOp b with
  | 1 =>
    let w := o.d.tableWrite core t b ix
      (if fail then freeBytes o.d.free 0 rb else o.d.fieldRead core t b 0x10 (i * rb) rb) o.mem
    { o with d := w.2.drew, st := w.1, mem := .none }
  | 2 =>
    let r := o.d.tableRead core t b ix rb o.mem
    let o := { o with mem := .none }
    if r.1 ≠ 0 then { o with d := r.2.2, st := r.1 }
    else
      let dense := r.2.2.fieldRead core t b 0x10 (i * densePitch b) (densePitch b)
      let s := ({ o with d := r.2.2 } : EngOut).addRows c b r.2.1 dense ix
      let w := s.1.d.tableWrite core t b ix (if fail then freeBytes o.d.free 0 rb else s.2) .none
      { s.1 with d := w.2.drew, st := w.1 }
  | _ =>
    let r := o.d.tableRead core t b ix rb o.mem
    let o := { o with mem := .none }
    if r.1 ≠ 0 then { o with d := r.2.2, st := r.1 }
    else { o with d := r.2.2.fieldWrite core t b 0x10 (i * rb) r.2.1 }

/-- What an index out of range leaves in its dense row: GATHER writes zeros, and of COMBINE the spec states no
value, so its row is free. -/
def EngOut.missRow (o : EngOut) (core : Nat) (t : SlotIx) (b : List Byte) (i : Nat) : EngOut :=
  let rb := dN b 0x28 2
  let o := o.outOfRange core b
  if o.st ≠ 0 then o
  else if dOp b = 0 then { o with d := o.d.fieldWrite core t b 0x10 (i * rb) (List.replicate rb 0) }
  else if dOp b = 5 then { o with d := (o.d.fieldWrite core t b 0x10 (i * rb) (freeBytes o.d.free 0 rb)).drew }
  else o

/-- GATHER, SCATTER, SCATTER_ADD and COMBINE: list positions in ascending order, up to the first that fails. -/
def gatherRun (u : Upset) (core : Nat) (t : SlotIx) (d : Dev) (q : QDesc) : EngOut :=
  let b := q.bytes
  let c := d.convOf (d.slot core t).ctx b
  (List.range q.rv).foldl (fun o i =>
    if o.st ≠ 0 then o
    else
      match o.d.indexAt core t b i (dN b 0x24 4) with
      | some ix => o.moveRow c u core t b i ix
      | none => o.missRow core t b i) ({ d := d, h := q.health, st := 0, mem := upsetMem u } : EngOut)

/-- COMPACT: the indices of the set mask bits, and their count. -/
def compactRun (core : Nat) (t : SlotIx) (d : Dev) (q : QDesc) : EngOut :=
  let b := q.bytes
  let mask := leNat (d.fieldRead core t b 0x14 0 (ceilDiv q.rv 8))
  let hits := (List.range q.rv).filter (bitAt mask)
  let d := d.fieldWrite core t b 0x10 0 (hits.flatMap (leBytes 4))
  { d := d.fieldWrite core t b 0x30 0 (leBytes 4 hits.length), h := q.health, st := 0 }

/-- The expert ids of the list positions, none for one out of range. -/
def Dev.expertIds (d : Dev) (core : Nat) (t : SlotIx) (q : QDesc) : List (Option Nat) :=
  (List.range q.rv).map (fun i => d.indexAt core t q.bytes i (dN q.bytes 0x2A 2))

/-- How many of the first n positions name an expert. -/
def expertCount (ids : List (Option Nat)) (n e : Nat) : Nat := ((ids.take n).filter (· == some e)).length

/-- Rows that the experts below e keep. -/
def expertBase (ids : List (Option Nat)) (cap e : Nat) : Nat :=
  ((List.range e).map (fun x => min cap (expertCount ids ids.length x))).sum

/-- One row of DISPATCH: kept rows lie packed by expert; a row beyond its expert's capacity is dropped with
perm_out −1; the perm_out entry of an id out of range has no stated value (R111). -/
def dispatchRow (core : Nat) (t : SlotIx) (b : List Byte) (ids : List (Option Nat)) (o : EngOut) (i : Nat) : EngOut :=
  let rb := dN b 0x28 2
  let cap := dN b 0x2C 4
  if o.st ≠ 0 then o
  else
    match ids.getD i none with
    | none =>
      let o := o.outOfRange core b
      if o.st ≠ 0 then o
      else { o with d := (o.d.fieldWrite core t b 0x34 (4 * i) (freeBytes o.d.free 0 4)).drew }
    | some e =>
      let n := expertCount ids i e
      if cap ≤ n then
        { o with d := (o.d.fieldWrite core t b 0x34 (4 * i) (leBytes 4 0xFFFFFFFF)).engineCount core 4 0x828 1 }
      else
        let at_ := expertBase ids cap e + n
        let w := o.d.tableWrite core t b at_ (o.d.fieldRead core t b 0x10 (i * rb) rb) o.mem
        let o := { o with mem := .none }
        if w.1 ≠ 0 then { o with d := w.2, st := w.1 }
        else { o with d := w.2.fieldWrite core t b 0x34 (4 * i) (leBytes 4 at_) }

def dispatchRun (u : Upset) (core : Nat) (t : SlotIx) (d : Dev) (q : QDesc) : EngOut :=
  let b := q.bytes
  let ids := d.expertIds core t q
  let o := (List.range q.rv).foldl (dispatchRow core t b ids)
    { d := d, h := q.health, st := 0, mem := upsetMem u }
  let counts := (List.range (dN b 0x2A 2)).flatMap (fun e =>
    leBytes 4 (min (dN b 0x2C 4) (expertCount ids ids.length e)))
  if o.st = 0 then { o with d := o.d.fieldWrite core t b 0x30 0 counts }
  else { o with d := (o.d.fieldWrite core t b 0x30 0 (freeBytes o.d.free 0 counts.length)).drew }

def gatherEff (core : Nat) (t : SlotIx) (u : Upset) (d : Dev) : Dev := d.engineRun core t 4 0 u (gatherRun u core t)
def scatterEff (core : Nat) (t : SlotIx) (u : Upset) (d : Dev) : Dev := d.engineRun core t 4 1 u (gatherRun u core t)
def scatterAddEff (core : Nat) (t : SlotIx) (u : Upset) (d : Dev) : Dev := d.engineRun core t 4 2 u (gatherRun u core t)
def compactEff (core : Nat) (t : SlotIx) (u : Upset) (d : Dev) : Dev := d.engineRun core t 4 3 u (compactRun core t)
def dispatchEff (core : Nat) (t : SlotIx) (u : Upset) (d : Dev) : Dev := d.engineRun core t 4 4 u (dispatchRun u core t)
def combineEff (core : Nat) (t : SlotIx) (u : Upset) (d : Dev) : Dev := d.engineRun core t 4 5 u (gatherRun u core t)

/-! ## Top-k engine -/

/-- Whether candidate a (index, value) ranks before b: the larger value, then the lower index; NaN ranks last
(R112). -/
def ranksBefore (a b : Nat × Num) : Bool :=
  match a.2, b.2 with
  | .nan, .nan => decide (a.1 < b.1)
  | .nan, _ => false
  | _, .nan => true
  | x, y => x.greater y || (!(y.greater x) && decide (a.1 < b.1))

/-- A candidate put into a list that is in rank order. -/
def rankIn (a : Nat × Num) : List (Nat × Num) → List (Nat × Num)
  | [] => [a]
  | b :: r => if ranksBefore a b then a :: b :: r else b :: rankIn a r

/-- The k first candidates of a row in rank order. -/
def topOf (k : Nat) (xs : List Num) : List (Nat × Num) :=
  (xs.zipIdx.map (fun e => (e.2, e.1))).foldl (fun best a => (rankIn a best).take k) []

/-- The value of a place that no candidate takes: −∞, or the most negative value of a format without infinity. -/
def emptyPlace (fmt : Nat) : Nat := limitBits fmt false true true

/-- The numbers of a top-k row, NaN candidates counted. -/
def Dev.topRow (d : Dev) (core : Nat) (t : SlotIx) (q : QDesc) (i : Nat) : List Num :=
  (d.rowElems core t q.bytes 0x10 (i * dStride q.bytes 0x20) (fmtBits (dInFmt q.bytes)) q.cv).map
    (decodeElem (dInFmt q.bytes) false)

/-- The rows of a top-k descriptor, all read before any output is written (assumption 17). -/
def Dev.topRows (d : Dev) (core : Nat) (t : SlotIx) (q : QDesc) : List (List Num × Nat) :=
  ((List.range q.rv).map (d.topRow core t q)).zipIdx

/-- TOPK. The rows of values_out and index_out lie packed, since the body gives a stride for the input alone
(assumption 120); Table 2.6 lists no engine code for the top-k engine, so its conversions are not counted in format
health (assumption 121). -/
def topkRun (core : Nat) (t : SlotIx) (d : Dev) (q : QDesc) : EngOut :=
  let b := q.bytes
  let c := d.convOf (d.slot core t).ctx b
  let k := dN b 0x22 2
  let cols := dN b 0x1E 2
  let d := (d.topRows core t q).foldl (fun d r =>
    let xs := r.1
    let i := r.2
    let best := topOf k xs
    let ixs := (best.map (·.1)) ++ List.replicate (k - best.length) 0xFFFFFFFF
    let y := c.values 0 (some 0) Health.zero (i * cols + dIndexBase b) (best.map (·.2))
    let vals := y.1 ++ List.replicate (k - best.length) (emptyPlace c.fmt)
    let d := d.rowStore core t b 0x14 (i * rowBytes k (fmtBits c.fmt)) (fmtBits c.fmt) k vals
    let d := d.fieldWrite core t b 0x18 (i * k * 4) (ixs.flatMap (leBytes 4))
    d.engineCount core 7 0x820 (xs.filter Num.isNan).length) d
  { d := d, h := q.health, st := 0 }

/-- The first prefix of some weights whose sum passes a test, by its last position. -/
def firstPrefix (ws : List Nat) (test : Nat → Bool) : Option Nat :=
  (List.range ws.length).find? (fun i => test (rowSum (ws.take (i + 1))))

/-- a ≥ b in FP32; false where either is NaN. -/
def fge (a b : Nat) : Bool := !((ofF32 a).isNan) && !((ofF32 b).isNan) && !((ofF32 b).greater (ofF32 a))

/-- The candidate that SAMPLE draws from a row's ranked candidates (R113). -/
def samplePick (best : List (Nat × Num)) (tau topP u : Nat) : Nat :=
  let vs := best.map (fun x => toF32 x.2)
  let ws := vs.map (fun v => fexp (fdiv (fsub v (vs.headD 0)) tau))
  let total := rowSum ws
  let kept :=
    if fge topP f32One then ws
    else match firstPrefix ws (fun s => fge (fdiv s total) topP) with
      | some i => ws.take (i + 1)
      | none => ws
  let goal := fmul u (rowSum kept)
  let i := (firstPrefix kept (fun s => fge s goal)).getD (kept.length - 1)
  (best.map (·.1)).getD i 0

def sampleRun (core : Nat) (t : SlotIx) (d : Dev) (q : QDesc) : EngOut :=
  let b := q.bytes
  let c := d.convOf (d.slot core t).ctx b
  let d := (d.topRows core t q).foldl (fun d r =>
    let xs := r.1
    let i := r.2
    let best := topOf (dN b 0x22 2) xs
    let u := f32OfCount (c.rng.uniform24 (i + dIndexBase b))
    let pick := samplePick best (dN b 0x24 4) (dN b 0x28 4) u
    (d.fieldWrite core t b 0x18 (4 * i) (leBytes 4 pick)).engineCount core 7 0x820 (xs.filter Num.isNan).length) d
  { d := d, h := q.health, st := 0 }

def topkEff (core : Nat) (t : SlotIx) (u : Upset) (d : Dev) : Dev := d.engineRun core t 7 0 u (topkRun core t)
def sampleEff (core : Nat) (t : SlotIx) (u : Upset) (d : Dev) : Dev := d.engineRun core t 7 1 u (sampleRun core t)

/-! ## Quantiser -/

/-- The absolute maximum that per-tile mode scales from: amax_in, or a pass over the source (R115). -/
def quantAmax (b : List Byte) (amaxIn : Nat) (rows : List (List Num)) : Num :=
  if dN b 0x1C 4 = absent then (rows.flatMap id).foldl maxAbs (.fin false ⟨0, 0⟩) else (ofF32 amaxIn).abs

def quantiseRun (core : Nat) (t : SlotIx) (d : Dev) (q : QDesc) : EngOut :=
  let b := q.bytes
  let x := (d.slot core t).ctx
  let c := d.convOf x b
  let cols := dN b 0x22 2
  let rows := (List.range q.rv).map (fun i =>
    (d.rowElems core t b 0x10 (i * dStride b 0x24) (fmtBits (dInFmt b)) q.cv).map (decodeElem (dInFmt b) false))
  let amax := quantAmax b (leNat (d.fieldRead core t b 0x1C 0 4)) rows
  let sc := modeScale (dN b 0x28 1) c.fmt c.mx (dMargin b) amax (dSigned8 b 0x29)
  let o := rows.zipIdx.foldl (fun (o : ConvOut) r =>
    o.row c 1 core t b sc.1 0x14 (r.2 * dStride b 0x26) cols 0x18 (r.2 * (cols / 32)) (r.2 * cols + dIndexBase b) r.1)
    { d := d, h := q.health }
  let d := match sc.2 with
    | some byte => o.d.fieldWrite core t b 0x18 0 [byte]
    | none => o.d
  let bad := dN b 0x28 1 == 1 && sc.1.isNone
  let h := if bad then { o.h with nonfiniteTiles := satAdd 32 o.h.nonfiniteTiles 1 } else o.h
  let d := if bad && bitAt ((d.ctx x).field 7 1) 0 then d.abortOpen x 6 (srcCore core) else d
  { d := d, h := h, st := 0 }

def quantiseEff (core : Nat) (t : SlotIx) (u : Upset) (d : Dev) : Dev := d.engineRun core t 1 0 u (quantiseRun core t)

/-! ## Generator -/

/-- Blocks of 128 bits that n slots of a width from index base on lie in. -/
def blocksDrawn (w base n : Nat) : Nat :=
  if n = 0 then 0 else (base + n - 1) / (128 / w) - base / (128 / w) + 1

/-- The raw slots of BITS8, BITS16 and BITS32. -/
def bitsRun (w : Nat) (core : Nat) (t : SlotIx) (d : Dev) (q : QDesc) : EngOut :=
  let b := q.bytes
  let c := d.convOf (d.slot core t).ctx b
  let base := dIndexBase b
  let bs := (List.range q.rv).flatMap (fun i => leBytes (w / 8) (c.rng.draw w (i + base)))
  { d := (d.fieldWrite core t b 0x10 0 bs).engineCount core 8 0x820 (blocksDrawn w base q.rv), h := q.health, st := 0 }

/-- A row of FP32 values of the generator, converted and counted under engine 2 (Table 4.9). -/
def genStore (core : Nat) (t : SlotIx) (d : Dev) (q : QDesc) (drawn : Nat) (vals : List Nat) : EngOut :=
  let b := q.bytes
  let c := d.convOf (d.slot core t).ctx b
  let o := ({ d := d, h := q.health, st := 0 } : EngOut).convRow c 2 core t b 0x10 0 (dN b 0x14 4) (dIndexBase b) vals
  { o with d := o.d.engineCount core 8 0x820 drawn }

def uniformRun (core : Nat) (t : SlotIx) (d : Dev) (q : QDesc) : EngOut :=
  let c := d.convOf (d.slot core t).ctx q.bytes
  let base := dIndexBase q.bytes
  genStore core t d q (blocksDrawn 32 base q.rv)
    ((List.range q.rv).map (fun i => f32OfCount (c.rng.uniform24 (i + base))))

def maskRun (core : Nat) (t : SlotIx) (d : Dev) (q : QDesc) : EngOut :=
  let b := q.bytes
  let c := d.convOf (d.slot core t).ctx b
  let base := dIndexBase b
  let bits := (List.range q.rv).map (fun i => b2n (decide (dN b 0x18 4 ≤ c.rng.draw 32 (i + base))))
  { d := (d.rowStore core t b 0x10 0 1 (dN b 0x14 4) bits).engineCount core 8 0x820 (blocksDrawn 32 base q.rv)
    h := q.health, st := 0 }

/-- −2.0 in FP32. -/
def f32MinusTwo : Nat := 0xC0000000

/-- An element of NORMAL from its two uniforms as counts of 2^-24. -/
def normalOf (n1 n2 : Nat) : Nat :=
  fmul (fsqrt (fmul f32MinusTwo (fln (f32OfCount (2 ^ 24 - n1))))) (fcos2pi n2)

def normalRun (core : Nat) (t : SlotIx) (d : Dev) (q : QDesc) : EngOut :=
  let c := d.convOf (d.slot core t).ctx q.bytes
  let base := dIndexBase q.bytes
  genStore core t d q (blocksDrawn 32 base (2 * q.rv))
    ((List.range q.rv).map (fun i => normalOf (c.rng.uniform24 (2 * i + base)) (c.rng.uniform24 (2 * i + 1 + base))))

def bits8Eff (core : Nat) (t : SlotIx) (u : Upset) (d : Dev) : Dev := d.engineRun core t 8 0 u (bitsRun 8 core t)
def bits16Eff (core : Nat) (t : SlotIx) (u : Upset) (d : Dev) : Dev := d.engineRun core t 8 1 u (bitsRun 16 core t)
def bits32Eff (core : Nat) (t : SlotIx) (u : Upset) (d : Dev) : Dev := d.engineRun core t 8 2 u (bitsRun 32 core t)
def uniformEff (core : Nat) (t : SlotIx) (u : Upset) (d : Dev) : Dev := d.engineRun core t 8 3 u (uniformRun core t)
def maskEff (core : Nat) (t : SlotIx) (u : Upset) (d : Dev) : Dev := d.engineRun core t 8 4 u (maskRun core t)
def normalEff (core : Nat) (t : SlotIx) (u : Upset) (d : Dev) : Dev := d.engineRun core t 8 5 u (normalRun core t)

/-! ## Copy -/

/-- Bytes of one row with those that lie in [lo, hi) of the destination offset replaced by free bytes. -/
def freeWithin (draw off lo hi : Nat) : List Byte → List Byte
  | [] => []
  | x :: r => (if lo ≤ off ∧ off < hi then Config.freeByte draw off else x) :: freeWithin draw (off + 1) lo hi r

/-- The overlap of the source and the destination of a copy, as offsets within their target (R492). -/
def copyOverlap (b : List Byte) (rows : Nat) : Nat × Nat :=
  let a := dN b 0x10 4
  let z := dN b 0x14 4
  if opTarget a ≠ opTarget z then (0, 0)
  else
    let n := dN b 0x1A 2
    (max (opOffset a) (opOffset z),
      min (opOffset a + (rows - 1) * dStride b 0x1C + n) (opOffset z + (rows - 1) * dStride b 0x1E + n))

def copyRun (core : Nat) (t : SlotIx) (d : Dev) (q : QDesc) : EngOut :=
  let b := q.bytes
  let n := dN b 0x1A 2
  let rows := (List.range q.rv).map (fun i => d.fieldRead core t b 0x10 (i * dStride b 0x1C) n)
  let o := copyOverlap b q.rv
  let free := d.free
  let d := rows.zipIdx.foldl (fun d r =>
    let off := r.2 * dStride b 0x1E
    d.fieldWrite core t b 0x14 off (freeWithin free (opOffset (dN b 0x14 4) + off) o.1 o.2 r.1)) d.drew
  { d := d, h := q.health, st := 0 }

def copyDescriptorEff (core : Nat) (t : SlotIx) (u : Upset) (d : Dev) : Dev := d.engineRun core t 9 0 u (copyRun core t)

/-! ## Completion (R99, R183, R184) -/

/-- The tile entry of a context's parametric report for a task's descriptor. -/
def Ctx.tileEntry (c : Ctx) (task off : Nat) : Option ReportTile :=
  match c.image with
  | some im => im.report.find? (fun r => r.task == task && r.desc == off)
  | none => none

/-- The work term X of a descriptor. -/
def QDesc.workTerm (q : QDesc) : Nat := if q.engine = 0 then q.cycles else durationOf q.bytes q.rv q.cv

/-- Under EXACT, a descriptor with a tile entry is compared with it; a difference beyond the tolerance writes a
mismatch record (R184). A core marked stale checks nothing (R185). -/
def Dev.exactCheck (d : Dev) (core : Nat) (t : SlotIx) (q : QDesc) (m : Measured) : Dev :=
  let s := d.slot core t
  let base := coreKey core 13 0
  if (d.ctx s.ctx).perfMode != 2 || d.exactStale core t then d
  else
    match (d.ctx s.ctx).tileEntry s.task q.offset with
    | none => d
    | some r =>
      let e := r.c0 + ceilDiv (r.c1 * q.workTerm) 256
      let got := m.cycles - m.hbmStall - m.fabricStall
      let d := ((d.count (base + 0x800) 1).count (base + 0x820) m.hbmStall).count (base + 0x828) m.fabricStall
      if e ≤ got + r.tol ∧ got ≤ e + r.tol then d
      else
        let body := leBytes 2 core ++ leBytes 1 t.1 ++ leBytes 1 q.engine ++ leBytes 4 q.offset ++ leBytes 4 e
          ++ leBytes 4 got ++ leBytes 4 m.hbmStall ++ leBytes 4 m.fabricStall ++ leBytes 4 q.workTerm ++ leBytes 4 0
        let w := d.perfRecord s.ctx (islOfCore core) 2 base body
        if w.1 then w.2.count (base + 0x808) 1 else w.2

/-- The completion of an engine's oldest finished descriptor. -/
def descriptorCompletionEff (core : Nat) (t : SlotIx) (engine : Nat) (m : Measured) (d : Dev) : Dev :=
  match (d.slot core t).finishedOn engine with
  | none => d
  | some q =>
    match q.st with
    | .finished st =>
      let d := ((d.engineCount core engine 0x800 1).engineCount core engine 0x808 m.cycles).engineCount core engine
        0x810 (workOf q.bytes q.rv q.cv)
      let d := if engine = 0 then d.count (coreKey core 3 0x800) m.hbmStall else d
      let d := if st = 0 then d else d.engineError core t engine 0 st
      let d := d.exactCheck core t q m
      let d := d.modSlot core t (fun s =>
        ({ s with descs := dropFirst (fun q => q.engine == engine && q.isFinished) s.descs }).ticketDone q.ticket st)
      (d.addHealth core t q.ticket q.health).postStatus core t q.sem (some (dTag q.bytes)) st q.offset
    | _ => d

def execVectorDescriptor (core : CoreId) (slot : SlotIx) (u : Upset) (s : State) :
    Host.Outcome State Fault Refusal := onCore s core.1 (vectorDescriptorEff core.1 slot u)
def execTranspose (core : CoreId) (slot : SlotIx) (u : Upset) (s : State) : Host.Outcome State Fault Refusal :=
  onCore s core.1 (transposeEff core.1 slot u)
def execFwdFirst (core : CoreId) (slot : SlotIx) (u : Upset) (s : State) : Host.Outcome State Fault Refusal :=
  onCore s core.1 (fwdFirstEff core.1 slot u)
def execFwdNext (core : CoreId) (slot : SlotIx) (u : Upset) (s : State) : Host.Outcome State Fault Refusal :=
  onCore s core.1 (fwdNextEff core.1 slot u)
def execFwdLast (core : CoreId) (slot : SlotIx) (u : Upset) (s : State) : Host.Outcome State Fault Refusal :=
  onCore s core.1 (fwdLastEff core.1 slot u)
def execFwdOnly (core : CoreId) (slot : SlotIx) (u : Upset) (s : State) : Host.Outcome State Fault Refusal :=
  onCore s core.1 (fwdOnlyEff core.1 slot u)
def execRecompute (core : CoreId) (slot : SlotIx) (u : Upset) (s : State) : Host.Outcome State Fault Refusal :=
  onCore s core.1 (recomputeEff core.1 slot u)
def execGather (core : CoreId) (slot : SlotIx) (u : Upset) (s : State) : Host.Outcome State Fault Refusal :=
  onCore s core.1 (gatherEff core.1 slot u)
def execScatter (core : CoreId) (slot : SlotIx) (u : Upset) (s : State) : Host.Outcome State Fault Refusal :=
  onCore s core.1 (scatterEff core.1 slot u)
def execScatterAdd (core : CoreId) (slot : SlotIx) (u : Upset) (s : State) : Host.Outcome State Fault Refusal :=
  onCore s core.1 (scatterAddEff core.1 slot u)
def execCompact (core : CoreId) (slot : SlotIx) (u : Upset) (s : State) : Host.Outcome State Fault Refusal :=
  onCore s core.1 (compactEff core.1 slot u)
def execDispatch (core : CoreId) (slot : SlotIx) (u : Upset) (s : State) : Host.Outcome State Fault Refusal :=
  onCore s core.1 (dispatchEff core.1 slot u)
def execCombine (core : CoreId) (slot : SlotIx) (u : Upset) (s : State) : Host.Outcome State Fault Refusal :=
  onCore s core.1 (combineEff core.1 slot u)
def execTopk (core : CoreId) (slot : SlotIx) (u : Upset) (s : State) : Host.Outcome State Fault Refusal :=
  onCore s core.1 (topkEff core.1 slot u)
def execSample (core : CoreId) (slot : SlotIx) (u : Upset) (s : State) : Host.Outcome State Fault Refusal :=
  onCore s core.1 (sampleEff core.1 slot u)
def execQuantise (core : CoreId) (slot : SlotIx) (u : Upset) (s : State) : Host.Outcome State Fault Refusal :=
  onCore s core.1 (quantiseEff core.1 slot u)
def execBits8 (core : CoreId) (slot : SlotIx) (u : Upset) (s : State) : Host.Outcome State Fault Refusal :=
  onCore s core.1 (bits8Eff core.1 slot u)
def execBits16 (core : CoreId) (slot : SlotIx) (u : Upset) (s : State) : Host.Outcome State Fault Refusal :=
  onCore s core.1 (bits16Eff core.1 slot u)
def execBits32 (core : CoreId) (slot : SlotIx) (u : Upset) (s : State) : Host.Outcome State Fault Refusal :=
  onCore s core.1 (bits32Eff core.1 slot u)
def execUniform (core : CoreId) (slot : SlotIx) (u : Upset) (s : State) : Host.Outcome State Fault Refusal :=
  onCore s core.1 (uniformEff core.1 slot u)
def execMask (core : CoreId) (slot : SlotIx) (u : Upset) (s : State) : Host.Outcome State Fault Refusal :=
  onCore s core.1 (maskEff core.1 slot u)
def execNormal (core : CoreId) (slot : SlotIx) (u : Upset) (s : State) : Host.Outcome State Fault Refusal :=
  onCore s core.1 (normalEff core.1 slot u)
def execCopyDescriptor (core : CoreId) (slot : SlotIx) (u : Upset) (s : State) : Host.Outcome State Fault Refusal :=
  onCore s core.1 (copyDescriptorEff core.1 slot u)

end Sys2Proof.Machine
end

