-- ==== Sys2Proof/Machine/Commands.lean ====
section
/-! DEFINITION. What every host command meets before its own effect (R225, R404). -/

namespace Sys2Proof.Machine

/-- The function that a context belongs to (Table 8.1). -/
def Ctx.fn (c : Ctx) : Nat := c.field 4 2

/-- The state code of a context (Table 8.3). -/
def CtxState.code (s : CtxState) : Nat :=
  match s with
  | .free => 0
  | .loaded => 1
  | .resident => 2
  | .running => 3
  | .blocked => 4
  | .swapped => 5
  | .killed => 6
  | .sparging => 7

/-- FREE, KILLED or SPARGING: the context has no address space or is losing it. -/
def CtxState.gone (s : CtxState) : Bool := s == .free || s == .killed || s == .sparging

/-- A context that changes state takes the causal sequence of the change (Table 8.1). -/
def Dev.setState (d : Dev) (x : Nat) (s : CtxState) : Dev :=
  let d := d.noteEvent (islMgmt 0)
  d.modCtx x (fun c => { c with state := s, since := d.seqOf (islMgmt 0) })

/-- An admin command of the physical function, or of any: refused before READY, on the wrong kind of queue and
from an excluded function. -/
def Dev.adminCmd (d : Dev) (h : CmdHdr) (pfOnly : Bool) (f : Dev → Dev) : Dev :=
  if d.sec.devState != .ready then d.complete h Code.deviceNotReady 0
  else if h.queue != .admin || (pfOnly && h.fn != 0) then d.complete h Code.cmdFunction 0
  else f d

/-- A context command: refused before READY, on the wrong kind of queue, and for a context outside the set of its
function. -/
def Dev.ctxCmd (d : Dev) (h : CmdHdr) (f : Dev → Dev) : Dev :=
  if d.sec.devState != .ready then d.complete h Code.deviceNotReady 0
  else if h.queue != .context then d.complete h Code.cmdFunction 0
  else if 1024 ≤ h.ctx ∨ (d.ctx h.ctx).fn ≠ h.fn then d.complete h Code.contextInvalid 0
  else f d

/-- A context command that Table 8.4 does not allow in FREE, KILLED and SPARGING. -/
def Dev.liveCmd (d : Dev) (h : CmdHdr) (f : Dev → Dev) : Dev :=
  d.ctxCmd h (fun d => if (d.ctx h.ctx).state.gone then d.complete h Code.contextState 0 else f d)

end Sys2Proof.Machine
end

