-- ==== Sys2Proof/Machine/Objects.lean ====
section
/-! DEFINITION. Objects: checks, charges and frames of an allocation (R191 to R199, R205, R254, R257), attach,
release and moves (R206, R207). -/

namespace Sys2Proof.Machine

/-! ## Charges (R205, Table 7.6) -/

/-- Quota of a tier, from the descriptor. -/
def Ctx.quota (c : Ctx) (tier : Nat) : Nat := c.field (0x2C + 4 * tier) 4

/-- What a context is charged at a tier. -/
def Ctx.charged (c : Ctx) (tier : Nat) : Nat := c.charges.toList.getD tier 0

/-- Charges added or returned, T0 to T3. -/
def Ctx.addCharges (c : Ctx) (a : List Nat) : Ctx :=
  { c with charges := #v[c.charged 0 + a.getD 0 0, c.charged 1 + a.getD 1 0, c.charged 2 + a.getD 2 0,
      c.charged 3 + a.getD 3 0] }
def Ctx.subCharges (c : Ctx) (a : List Nat) : Ctx :=
  { c with charges := #v[c.charged 0 - a.getD 0 0, c.charged 1 - a.getD 1 0, c.charged 2 - a.getD 2 0,
      c.charged 3 - a.getD 3 0] }

/-- Whether charges fit the quotas; a tier that is not charged is not checked. -/
def Ctx.canCharge (c : Ctx) (a : List Nat) : Bool :=
  [0, 1, 2, 3].all (fun t => a.getD t 0 == 0 || decide (c.charged t + a.getD t 0 ≤ c.quota t))

/-- Units of 4 KiB of a size. -/
def unitsOf (size : Nat) : Nat := (size + 0xFFF) / 0x1000

/-- The charges of an object at each tier: for one in motion, at both tiers where its bytes lie (R206). -/
def Obj.chargesOf (o : Obj) : List Nat :=
  let n := pagesOf o.size
  let twice := if o.isVersioned then 2 else 1
  if o.resident.isSome then [if o.isVersioned then unitsOf o.size else 0, twice * n, 0, 0]
  else if o.motion != .stable then [0, twice * n + o.logFrames.length, n, 0]
  else if o.tier = 1 then [0, twice * n + o.logFrames.length, 0, 0]
  else [0, 0, n, 0]

/-! ## Checks of an allocation entry (R191, R192) -/

/-- The flags combine as R191 says, and no reserved field is set. -/
def AllocEntryGood (e : AllocEntry) : Bool :=
  let f := fun i => e.flags.getLsbD i
  let homes := b2n (f 0) + b2n (f 2) + b2n (f 3)
  homes == 1
    && (!(f 1) || ((f 2 || f 3) && !(f 8)))
    && (!(f 4) || (!(f 0) && !(f 5) && !(f 6) && !(f 7)))
    && !(f 5 && f 6) && (!(f 5) || f 2 || f 0) && (!(f 6) || f 2)
    && (!(f 8) || f 2 || f 3)
    && e.flags.toNat / 512 == 0 && e.reserved == 0 && decide (e.object.toNat < 65536)
    && decide (e.placement.toNat ≤ 5) && (f 6 || e.logFrames == 0)
    && (!(f 0) || (bitsOf e.addr.toNat 63 32 == 0 && !(bitAt e.addr.toNat 22)))

def entryRes (e : AllocEntry) : Bool := e.flags.getLsbD 0
def entryVersioned (e : AllocEntry) : Bool := e.flags.getLsbD 5
def entryLogged (e : AllocEntry) : Bool := e.flags.getLsbD 6
def entryTask (e : AllocEntry) : Nat := bitsOf e.addr.toNat 31 23
def entryOff (e : AllocEntry) : Nat := bitsOf e.addr.toNat 21 0

/-- Whether an entry attaches an object instead of creating one. -/
def entryShares (e : AllocEntry) : Bool := e.share != 0xFFFFFFFF

/-- Bytes that a RESIDENT object takes in its grant, both slots of a versioned one (R256). -/
def resSpan (versioned : Bool) (size : Nat) : Nat := if versioned then size + unitsOf size * 0x1000 else size

/-- The pages that an object of a context takes: from, number, and the shadow pages of a versioned one. -/
def Obj.pagesIn (o : Obj) (x : Nat) : List (Nat × Nat) :=
  match o.resident, o.addrIn x with
  | none, some a => [(a / 0x200000, pagesOf o.size)]
  | _, _ => []

/-- Whether two ranges (start, length) share a place. -/
def meets (a b : Nat × Nat) : Bool := decide (a.1 < b.1 + b.2) && decide (b.1 < a.1 + a.2)

/-- The page ranges of every object of a context, shadow pages included. -/
def Dev.takenPages (d : Dev) (x : Nat) : List (Nat × Nat) :=
  let c := d.ctx x
  d.objs.flatMap (fun e =>
    let ps := e.2.pagesIn x
    if e.2.isVersioned then ps ++ ps.map (fun p => (c.shadowPage p.1, p.2)) else ps)

/-- The grant ranges of RESIDENT objects of a task. -/
def Dev.takenGrant (d : Dev) (x task : Nat) : List (Nat × Nat) :=
  d.objs.filterMap (fun e =>
    match e.2.resident with
    | some (t, off) =>
      if t = task ∧ (e.2.addrIn x).isSome then some (off, resSpan e.2.isVersioned e.2.size) else none
    | none => none)

/-- Checks 1 to 5 of R192, in order. `bounds` are the scratchpad bounds of the image's tasks in bytes. An entry
that names a live object takes that object's size. -/
def Dev.entryStatus (d : Dev) (x : Nat) (bounds : List Nat) (e : AllocEntry) : W16 :=
  let c := d.ctx x
  let a := e.addr.toNat
  let shared := if entryShares e then (tget? d.objs e.share.toNat).bind (fun o =>
    if o.motion == .stopping then none else some o) else none
  let size := match shared with
    | some o => o.size
    | none => e.size.toNat
  let n := pagesOf size
  let overlap :=
    if entryRes e then
      decide (bounds.getD (entryTask e) 0 < entryOff e + resSpan (entryVersioned e) size)
        || (d.takenGrant x (entryTask e)).any (meets (entryOff e, resSpan (entryVersioned e) size))
    else
      decide (c.vaLimit < a + size) || (d.takenPages x).any (meets (a / 0x200000, n))
        || (entryVersioned e && (d.takenPages x).any (meets (c.shadowPage (a / 0x200000), n)))
  if !(AllocEntryGood e) then Code.allocFlagsInvalid
  else if (!(entryRes e) && a % 0x200000 != 0) || e.size.toNat == 0 || decide (2 ^ 40 < e.size.toNat)
      || (entryRes e && decide (bounds.length ≤ entryTask e)) || c.objects.any (fun p => p.1 == e.object.toNat) then
    Code.allocEntryInvalid
  else if overlap then Code.allocRange
  else if entryShares e && shared.isNone then Code.objectUnknown
  else if (match shared with
      | some o => !(o.flags.getLsbD 4) || (match o.holders with
        | h :: _ => (d.ctx h.1).fn != c.fn
        | [] => true)
      | none => false) then Code.objectAccess
  else if (entryVersioned e && !(entryRes e) && decide (c.vaLimit / 2 < a + size))
      || (entryLogged e && decide (e.logFrames.toNat ≤ bitmapFrames size)) then Code.gyleAllocInvalid
  else 0

/-! ## Mapping (R193, R194, R254) -/

/-- Page-table entries of an object that a context holds; SHARED_RO pages are not writable. -/
def Ctx.mapObj (c : Ctx) (o : Obj) (va : Nat) : Ctx :=
  let w := !(o.flags.getLsbD 4)
  let first := va / 0x200000
  (List.range (pagesOf o.size)).foldl (fun c i =>
    if o.tier = 1 then
      match o.frames[i]? with
      | none => c
      | some f =>
        let c := c.setPte (first + i) (mkPte 1 f w o.isVersioned)
        if o.isVersioned then c.setPte (c.shadowPage (first + i)) (mkPte 3 (o.framesB.getD i 0) w false) else c
    else
      match o.hostRange with
      | none => c
      | some r => c.setPte (first + i) (mkPte2 (r.2 + i * 0x200000) w)) c

/-- The entries of an object's pages made invalid. -/
def Ctx.unmapObj (c : Ctx) (o : Obj) (va : Nat) : Ctx :=
  (List.range (pagesOf o.size)).foldl (fun c i =>
    let p := va / 0x200000 + i
    let c := { c with ptab := tdel c.ptab p }
    if o.isVersioned then { c with ptab := tdel c.ptab (c.shadowPage p) } else c) c

/-- Every hub drops its translations of a range of pages of a context (R194). -/
def Dev.dropPages (d : Dev) (x first n : Nat) : Dev :=
  { d with clusters := d.clusters.map (fun e => (e.1, { e.2 with xlate := e.2.xlate.filter (fun t =>
      t.1 != x || decide (t.2 < first) || decide (first + n ≤ t.2)) })) }

/-- A context's mapping of an object renewed after its place has changed. -/
def Dev.remap (d : Dev) (o : Obj) : Dev :=
  o.holders.foldl (fun d h =>
    (d.modCtx h.1 (fun c => (c.unmapObj o h.2.2).mapObj o h.2.2)).dropPages h.1 (h.2.2 / 0x200000) (pagesOf o.size)) d

/-! ## Frames and host ranges (R199, R208) -/

/-- The die of a placement near: that of the lowest-numbered placed core, or of the latest placement. -/
def Ctx.nearDie (c : Ctx) : Option Nat :=
  match c.places with
  | [] => c.lastDie
  | p :: r => some ((r.foldl (fun m q => min m q.core) p.core) / 128)

/-- Ranges of a host range that objects and swap areas use: bus address and length. -/
def Dev.rangeUses (d : Dev) : List (Nat × Nat) :=
  d.objs.flatMap (fun e =>
    let n := pagesOf e.2.size * 0x200000
    (match e.2.hostRange with
      | some r => [(r.2, n)]
      | none => [])
    ++ (match e.2.moveRange with
      | some r => [(r.2, n)]
      | none => []))
  ++ d.ctxs.filterMap (fun e =>
      if e.2.state == .free || e.2.field 0x68 8 == 0 then none else some (e.2.field 0x60 8, e.2.field 0x68 8))

/-- A run of n free pages of a host range: its bus address. -/
def Dev.roomIn (d : Dev) (r : HostRange) (n : Nat) : Option Nat :=
  ((List.range (r.size / 0x200000 + 1 - n)).map (fun i => r.base + i * 0x200000)).find? (fun b =>
    !(d.rangeUses.any (meets (b, n * 0x200000))))

/-- A run of n free pages in the registered ranges of a function, the lowest range first (assumption 18). -/
def Dev.hostRoom (d : Dev) (fn n : Nat) : Option (Nat × Nat) :=
  d.host.ranges.findSome? (fun e =>
    if e.2.fn = fn then (d.roomIn e.2 n).map (fun b => (e.1, b)) else none)

/-- Frames for an object: its own, the second slots, the log frames; none of them where a die has too few. -/
def Dev.objFrames (d : Dev) (o : Obj) (logs near : Nat) : Option (Obj × Dev) :=
  let n := pagesOf o.size
  let dies := placeDies o.placement near 0 n
  (d.takeFrames dies).bind (fun a =>
    (a.2.takeFrames (if o.isVersioned then dies else [])).bind (fun b =>
      (b.2.takeFrames (placeDies o.placement near n logs)).map (fun l =>
        ({ o with frames := a.1, framesB := b.1, logFrames := l.1 }, l.2))))

/-! ## Creation -/

/-- The object of an entry, before it has frames or a host range. -/
def objOfEntry (x : Nat) (e : AllocEntry) : Obj :=
  { holders := [(x, e.object.toNat, e.addr.toNat)], flags := e.flags, size := e.size.toNat
    tier := if e.flags.getLsbD 3 then 2 else 1, motion := .stable, frames := [], framesB := [], logFrames := []
    logged := 0, resident := if entryRes e then some (entryTask e, entryOff e) else none
    placement := e.placement.toNat, hostRange := none, moveFrames := [], moveRange := none, moved := 0
    moveCmd := none, releaseCmd := none }

/-- An object joins a context under its local number, with its charges. -/
def Ctx.holdObj (c : Ctx) (local_ num : Nat) (charges : List Nat) : Ctx :=
  { (c.addCharges charges) with objects := c.objects ++ [(local_, num)] }

/-- What an allocation entry does: the status, the object's device number, whether its command waits for a first
placement, and the device. Nothing changes where the status is a failure. -/
def Dev.allocate (d : Dev) (x : Nat) (bounds : List Nat) (e : AllocEntry) : W16 × Nat × Bool × Dev :=
  let st := d.entryStatus x bounds e
  let c := d.ctx x
  if st ≠ 0 then (st, 0, false, d)
  else
    match (if entryShares e then tget? d.objs e.share.toNat else none) with
    | some o =>
      if !(c.canCharge o.chargesOf) then (Code.quotaExceeded, 0, false, d)
      else
        let o := { o with holders := o.holders ++ [(x, e.object.toNat, e.addr.toNat)] }
        let d := (d.setObj e.share.toNat o).modCtx x (fun c =>
          (c.holdObj e.object.toNat e.share.toNat o.chargesOf).mapObj o e.addr.toNat)
        (0, e.share.toNat, false, d)
    | none =>
      let o := objOfEntry x e
      let a := ({ o with logFrames := List.replicate e.logFrames.toNat 0 }).chargesOf
      let num := d.nextObj
      let keep := fun (d : Dev) (o : Obj) (wait : Bool) =>
        let d := { (d.setObj num o) with nextObj := num + 1 }
        (d.modCtx x (fun c =>
          let c := (c.holdObj e.object.toNat num a).mapObj o e.addr.toNat
          if wait then { c with nearPending := c.nearPending ++ [(num, none)] } else c))
      if !(c.canCharge a) then (Code.quotaExceeded, 0, false, d)
      else if entryRes e then (0, num, false, keep d o false)
      else if o.tier = 2 then
        match d.hostRoom c.fn (pagesOf o.size) with
        | none => (Code.hostRangeInvalid, 0, false, d)
        | some r => (0, num, false, keep d { o with hostRange := some r } false)
      else
        let logs := e.logFrames.toNat
        if o.placement = 5 ∧ c.nearDie = none then
          (0, num, true, keep d { o with logFrames := List.replicate logs 0x40000 } true)
        else
          match d.objFrames o logs (c.nearDie.getD 0) with
          | none => (Code.poolExhausted, 0, false, d)
          | some r => (0, num, false, keep r.2 r.1 false)

/-- Scratchpad bounds in bytes of the tasks of the loaded image. -/
def Ctx.bounds (c : Ctx) : List Nat :=
  match c.image with
  | some i => i.tasks.map (fun t => t.entry.bound * 0x1000)
  | none => []

def objCreateEff (h : CmdHdr) (e : AllocEntry) (d : Dev) : Dev :=
  d.liveCmd h (fun d =>
    let r := d.allocate h.ctx (d.ctx h.ctx).bounds e
    if r.1 ≠ 0 then d.complete h r.1 0
    else if r.2.2.1 then
      r.2.2.2.modCtx h.ctx (fun c => { c with nearPending := c.nearPending.map (fun p =>
        if p.1 = r.2.1 then (p.1, some h) else p) })
    else r.2.2.2.complete h 0 (BitVec.ofNat 32 r.2.1))

def objAttachEff (h : CmdHdr) (e : AllocEntry) (d : Dev) : Dev :=
  d.liveCmd h (fun d =>
    let r := if entryShares e then d.allocate h.ctx (d.ctx h.ctx).bounds e
      else (if d.entryStatus h.ctx (d.ctx h.ctx).bounds e = 0 then Code.objectUnknown
        else d.entryStatus h.ctx (d.ctx h.ctx).bounds e, 0, false, d)
    if r.1 ≠ 0 then d.complete h r.1 0 else r.2.2.2.complete h 0 (BitVec.ofNat 32 r.2.1))

/-! ## Release (Table 7.7) -/

/-- A context gives up its hold: number, mapping and charges. -/
def Dev.dropHold (d : Dev) (x num : Nat) (o : Obj) : Dev :=
  let va := (o.addrIn x).getD 0
  let charges := o.chargesOf
  let d := d.modCtx x (fun c =>
    { ((if o.resident.isSome then c else c.unmapObj o va).subCharges charges) with
      objects := c.objects.filter (fun p => p.2 != num)
      nearPending := c.nearPending.filter (fun p => p.1 != num) })
  (d.setObj num { o with holders := o.holders.filter (fun h => h.1 != x) }).dropPages x (va / 0x200000)
    (pagesOf o.size)

/-- Every frame of an object freed, to be zeroed in this order (R246); a near object that never had frames frees
none. -/
def Dev.freeObj (d : Dev) (num : Nat) (o : Obj) : Dev :=
  let logs := if o.frames.isEmpty then [] else o.logFrames
  { (d.freeFrameList (o.frames ++ o.framesB ++ logs ++ o.moveFrames)) with objs := tdel d.objs num }

/-- A release of a hold: with the last one the object goes, at the next frame boundary where it moves. `cmd` is the
command to complete. -/
def Dev.releaseHold (d : Dev) (x num : Nat) (o : Obj) (cmd : Option CmdHdr) : Dev :=
  let waiting := ((d.ctx x).nearPending.find? (fun p => p.1 == num)).bind (·.2)
  let d := (d.dropHold x num o).completeOpt waiting Code.objectUnknown 0
  if 1 < o.holders.length then d.completeOpt cmd 0 0
  else if o.motion = .stable then (d.freeObj num o).completeOpt cmd 0 0
  else d.setObj num { o with holders := [], motion := .stopping, releaseCmd := cmd }

def objReleaseEff (h : CmdHdr) (object : W32) (d : Dev) : Dev :=
  d.liveCmd h (fun d =>
    match d.objOf h.ctx object.toNat with
    | none => d.complete h Code.objectUnknown 0
    | some (n, o) => d.releaseHold h.ctx n o (some h))

/-! ## Moves (Table 7.7) -/

/-- A host range by its id, where it belongs to a function. -/
def Dev.rangeOf (d : Dev) (fn id : Nat) : Option HostRange :=
  (tget? d.host.ranges id).bind (fun r => if r.fn = fn then some r else none)

def objMoveUpEff (h : CmdHdr) (object range : W32) (d : Dev) : Dev :=
  d.liveCmd h (fun d =>
    match d.objOf h.ctx object.toNat with
    | none => d.complete h Code.objectUnknown 0
    | some (n, o) =>
      if o.motion ≠ .stable then d.complete h Code.objectPinned 0
      else if o.tier ≠ 2 ∨ o.resident.isSome then d.complete h Code.cmdFieldInvalid 0
      else if (d.rangeOf h.fn range.toNat).isNone ∨ o.hostRange.map (·.1) ≠ some range.toNat then
        d.complete h Code.hostRangeInvalid 0
      else
        let pages := pagesOf o.size
        if !(o.holders.all (fun q => (d.ctx q.1).canCharge [0, pages, 0, 0])) then
          d.complete h Code.quotaExceeded 0
        else
          match d.takeFrames (placeDies o.placement ((d.ctx h.ctx).nearDie.getD 0) 0 pages) with
          | none => d.complete h Code.poolExhausted 0
          | some (fs, d) =>
            let d := o.holders.foldl (fun d q => d.modCtx q.1 (fun c => c.addCharges [0, pages, 0, 0])) d
            d.setObj n { o with motion := .up, moveFrames := fs, moved := 0, moveCmd := some h })

def objMoveDownEff (h : CmdHdr) (object range : W32) (d : Dev) : Dev :=
  d.liveCmd h (fun d =>
    match d.objOf h.ctx object.toNat with
    | none => d.complete h Code.objectUnknown 0
    | some (n, o) =>
      if 1 < o.holders.length then d.releaseHold h.ctx n o (some h)
      else if o.motion ≠ .stable then d.complete h Code.objectPinned 0
      else if o.tier ≠ 1 ∨ o.resident.isSome ∨ o.isVersioned ∨ o.isLogged ∨ o.frames = [] then
        d.complete h Code.cmdFieldInvalid 0
      else
        let pages := pagesOf o.size
        match (d.rangeOf h.fn range.toNat).bind (fun r => d.roomIn r pages) with
        | none => d.complete h Code.hostRangeInvalid 0
        | some bus =>
          if !((d.ctx h.ctx).canCharge [0, 0, pages, 0]) then d.complete h Code.quotaExceeded 0
          else
            (d.modCtx h.ctx (fun c => c.addCharges [0, 0, pages, 0])).setObj n
              { o with motion := .down, moveRange := some (range.toNat, bus), moved := 0, moveCmd := some h })

/-- Whether the islands that hold a frame and the host island reach each other. -/
def Dev.frameOpen (d : Dev) (f : Nat) : Bool :=
  (d.placeIslands (.t1 f 0) 0x200000).all (fun i => d.routeOpen i islHost && d.routeOpen islHost i)

/-- A frame carried between its stacks and the host island. -/
def Dev.frameTrip (d : Dev) (f : Nat) (toHost : Bool) : Dev :=
  (d.placeIslands (.t1 f 0) 0x200000).foldl (fun d i => if toHost then d.carry i islHost else d.carry islHost i) d

/-- A move whose source or target fails an access: its command completes with the status, the object stays whole at
its source, and the target copy and its charges are returned. Table 7.7 gives no such event; this is the model's
choice (assumption 126). -/
def Dev.moveFails (d : Dev) (n : Nat) (o : Obj) (status : W16) : Dev :=
  let pages := pagesOf o.size
  let target := if o.motion = .up then [0, pages, 0, 0] else [0, 0, pages, 0]
  let d := o.holders.foldl (fun d q => d.modCtx q.1 (fun c => c.subCharges target)) (d.freeFrameList o.moveFrames)
  (d.setObj n { o with motion := .stable, moveFrames := [], moveRange := none, moved := 0, moveCmd := none }).completeOpt
    o.moveCmd status 0

/-- One frame of a move is carried; a move whose last hold is gone stops here, and both copies are freed. A frame whose
islands a closed crossing parts from the host waits. -/
def objectMoveFrameEff (n : Nat) (u : ReadUpset) (d : Dev) : Dev :=
  match tget? d.objs n with
  | none => d
  | some o =>
    let pages := pagesOf o.size
    match o.motion with
    | .stable => d
    | .stopping =>
      ((d.freeObj n o).completeOpt o.moveCmd Code.objectUnknown 0).completeOpt o.releaseCmd 0 0
    | .up =>
      if pages ≤ o.moved then d
      else
        let bus := (o.hostRange.map (·.2)).getD 0 + o.moved * 0x200000
        let f := o.moveFrames.getD o.moved 0
        let bytes := d.hostReads bus 0x200000
        if !(d.frameOpen f) then d
        else if u = .hostFail then d.moveFails n o Code.hostAccess
        else ((d.drew.store 32 (.t1 f 0) bytes).frameTrip f false).setObj n { o with moved := o.moved + 1 }
    | .down =>
      if pages ≤ o.moved then d
      else
        let bus := (o.moveRange.map (·.2)).getD 0 + o.moved * 0x200000
        let f := o.frames.getD o.moved 0
        let at_ := fun (g : Dev → Nat → Nat → Nat → Nat → Dev) =>
          g d (d.stackAt f 0) (d.pcAt f 0) f ((o.holders.head?.map (·.1)).getD 0xFFFF)
        if !(d.frameOpen f) then d
        else if u = .hostFail then d.moveFails n o Code.hostAccess
        else if u = .uncorrected then
          (at_ (fun d s p f x => d.hbmUncorrected s p f x false)).moveFails n o Code.memUncorrected
        else
          let d := if u = .corrected then at_ Dev.hbmCorrected else d
          let bytes := d.physRead (.t1 f 0) 0x200000
          (((d.placeRead (.t1 f 0) 0x200000).store 32 (.t2 bus) bytes).frameTrip f true).setObj n
            { o with moved := o.moved + 1 }

/-- A move whose every frame is carried completes: the holders' pages lead to the new copy, the source copy is
freed and its charges are returned. -/
def moveCompleteEff (n : Nat) (d : Dev) : Dev :=
  match tget? d.objs n with
  | none => d
  | some o =>
    let pages := pagesOf o.size
    if o.moved < pages then d
    else
      match o.motion with
      | .up =>
        let o2 := { o with motion := .stable, tier := 1, frames := o.moveFrames, moveFrames := [], hostRange := none
                           moved := 0, moveCmd := none }
        let d := o.holders.foldl (fun d q => d.modCtx q.1 (fun c => c.subCharges [0, 0, pages, 0])) d
        ((d.setObj n o2).remap o2).completeOpt o.moveCmd 0 0
      | .down =>
        let o2 := { o with motion := .stable, tier := 2, frames := [], hostRange := o.moveRange, moveRange := none
                           moved := 0, moveCmd := none }
        let d := o.holders.foldl (fun d q => d.modCtx q.1 (fun c => c.subCharges [0, pages, 0, 0])) d
        (((d.freeFrameList o.frames).setObj n o2).remap o2).completeOpt o.moveCmd 0 0
      | _ => d

/-! ## The commands -/

def execMoveComplete (object : Nat) (s : State) : Host.Outcome State Fault Refusal :=
  onDev s (moveCompleteEff object)
def execObjectMoveFrame (object : Meeting Nat ReadUpset) (s : State) : Host.Outcome State Fault Refusal :=
  onDev s (objectMoveFrameEff object.at_ object.fault)

end Sys2Proof.Machine
end

