-- ==== Sys2Proof/Machine/Load.lean ====
section
/-! DEFINITION. The checks of a program image at CTX_LOAD (R226 to R228): format, task list and tile programs,
descriptors (R129), cell configuration (R164) and grist records (R214). -/

namespace Sys2Proof

open Sys2Proof.Machine

/-! ## Format (R226) -/

/-- The status of an image and the offset that its completion carries. -/
abbrev LoadStatus := W16 × Nat

/-- The first failing status of some checks. -/
def firstBad : List LoadStatus → LoadStatus
  | [] => (0, 0)
  | s :: r => if s.1 = 0 then firstBad r else s

/-- The offset of the section of a type and task in an image, 0 where the directory lists none. -/
def Image.sectionAt (i : Image) (type task : Nat) : Nat :=
  ((i.dir.find? (fun e => e.type == type && e.task == task)).map (·.offset)).getD 0

/-- Offset of a whole-context section. -/
def Image.wholeAt (i : Image) (type : Nat) : Nat := i.sectionAt type 0xFFFF

/-- Section types that belong to the whole context (Table 8.2). -/
def wholeType (t : Nat) : Bool := t == 1 || (decide (5 ≤ t) && decide (t ≤ 8))

def Image.formatStatus (i : Image) : LoadStatus :=
  firstBad ([(if i.headerGood && decide (i.tasks.length ≤ 512) then 0 else Code.imageFormat, 0)]
    ++ i.dir.map (fun e =>
      (if 1 ≤ e.type ∧ e.type ≤ 9 ∧ e.offset + e.size ≤ i.size ∧ (if wholeType e.type then e.task = 0xFFFF
          else e.task < i.tasks.length ∨ e.task = 0xFFFF) then 0 else Code.imageFormat, e.offset)))

/-! ## Task list and tile programs (R227, R228, R118, R119, R252) -/

/-- The task slot of a kind. -/
def kindSlot (kind : Nat) : SlotIx := if kind = 2 then 1 else 0

/-- The task of an image on the mesh neighbour of a task in a direction; of two halves, that of the same slot. -/
def Image.nbrTask (i : Image) (t : TaskEntry) (dir : Nat) : Option TaskEntry :=
  (neighbour t.core dir).bind (fun k =>
    let cands := (i.tasks.map (·.entry)).filter (fun u => u.cluster == t.cluster && u.core == k)
    match cands.find? (fun u => kindSlot u.kind == kindSlot t.kind) with
    | some u => some u
    | none => cands.head?)

/-- A task entry of an image is well formed, and its place is not taken by another. -/
def Image.taskGood (i : Image) (n : Nat) (t : TaskEntry) : Bool :=
  decide (t.cluster < 32) && decide (t.core < 16) && decide (t.kind < 3) && decide (t.bound ≤ 1024)
    && decide (1 ≤ t.accSlots) && decide (t.accSlots ≤ 8) && decide (t.nbr.length ≤ 4)
    && ((i.tasks.map (·.entry)).take n).all (fun u =>
      u.cluster != t.cluster || u.core != t.core || (t.kind != 0 && u.kind != 0 && t.kind != u.kind))
    && ((List.range 4).zip t.nbr).all (fun p =>
      p.2.2 == 0 || (p.2.1 % 0x1000 == 0 && p.2.2 % 0x1000 == 0 && (match i.nbrTask t (p.1 + 1) with
        | some u => decide (p.2.1 + p.2.2 ≤ u.bound * 0x1000)
        | none => false)))

/-- Instruction memory of a kind, in instructions (R118). -/
def programSize (kind : Nat) : Nat := if kind = 0 then 4096 else 2048

/-- An instruction word of a tile program that the device accepts: a listed opcode, unused operand bits zero,
branch targets within the slot's memory and no BRZ that targets itself. -/
def wordGood (kind ix : Nat) (word : W64) : Bool :=
  let w := word.toNat
  let z := fun hi lo => bitsOf w hi lo == 0
  let target := decide (w % 4096 < programSize kind)
  match w / 2 ^ 56 with
  | 0x00 => z 55 0
  | 0x01 => z 47 47 && z 42 22 && (decide (bitsOf w 51 48 < 8) || bitsOf w 51 48 == 15)
  | 0x02 => z 55 51 && z 47 16
  | 0x03 => z 55 51 && z 47 16
  | 0x04 => z 55 51 && z 47 12 && target
  | 0x05 => z 55 51 && z 47 32
  | 0x06 => z 55 51 && z 47 12 && target && w % 4096 != ix
  | 0x07 => z 55 51 && z 47 22 && w % 4 == 0
  | 0x08 => z 55 51 && z 47 43 && z 39 0
  | 0x09 => z 55 51 && z 47 32
  | 0x0A => z 55 0
  | 0x0B => z 55 51 && z 47 22
  | 0x0F => z 55 0
  | _ => false

/-- WAIT on SEM[0] with n = 1 (R252). -/
def firstWord : W64 := 0x0200000000000001

def programGood (kind : Nat) (p : List W64) : Bool :=
  decide (p.length ≤ programSize kind) && p.head? == some firstWord
    && (p.zip (List.range p.length)).all (fun q => wordGood kind q.2 q.1)

/-! ## Descriptors in an image (R129, R102, R43) -/

/-- A byte of a task's initial image, none where no part covers it; later parts overwrite. -/
def TaskImage.byteAt (t : TaskImage) (a : Nat) : Option Byte :=
  t.spad.reverse.findSome? (fun p => if p.1 ≤ a then p.2[a - p.1]? else none)

/-- n bytes of a task's initial image, none where some byte is not in it. -/
def TaskImage.bytesAt (t : TaskImage) (a n : Nat) : Option (List Byte) :=
  (List.range n).mapM (fun i => t.byteAt (a + i))

/-- The descriptors of a task that its ISSUE instructions name and its initial image holds: the engine named, which
counts only where the offset enable is clear (R96), offset and bytes. -/
def TaskImage.descs (t : TaskImage) : List (Option Nat × Nat × List Byte) :=
  t.program.filterMap (fun w =>
    if w.toNat / 2 ^ 56 = 1 then
      (t.bytesAt (w.toNat % 2 ^ 22) 64).map (fun b =>
        (if bitAt w.toNat 43 then none else some (bitsOf w.toNat 55 52), w.toNat % 2 ^ 22, b))
    else none)

/-- The kernel check of a vector descriptor whose kernel lies in the image. -/
def TaskImage.kernelStatus (t : TaskImage) (b : List Byte) : W16 :=
  let n := dN b 0x2D 1
  let addr := dN b 0x30 4
  if dEngine b ≠ 2 ∨ opTarget addr ≠ 0 then 0
  else
    match t.bytesAt (opOffset addr) (2 * n) with
    | none => 0
    | some k => if (List.range n).any (fun i => kernelBad b (kernelWord k i)) then Code.descFieldInvalid else 0

/-- A descriptor that names a stream reserved by R43; the copy engine ignores its stream field. -/
def streamReserved (b : List Byte) : Bool := dEngine b != 9 && decide (0xFF00 ≤ dStream b)

def TaskImage.programStatus (t : TaskImage) : W16 :=
  if !(programGood t.entry.kind t.program) || t.descs.any (fun q => streamReserved q.2.2)
      || t.spad.any (fun p => decide (t.entry.bound * 0x1000 < p.1 + p.2.length)) then Code.programInvalid
  else 0

/-- The load checks of every descriptor of a task. -/
def TaskImage.descStatus (t : TaskImage) (emuOne : Bool) : LoadStatus :=
  firstBad (t.descs.map (fun q =>
    let s := if q.2.1 % 64 ≠ 0 then Code.descFieldInvalid
      else loadChecks q.2.2 q.1 t.entry.kind t.entry.accSlots emuOne
    (if s = 0 then t.kernelStatus q.2.2 else s, q.2.1)))

/-! ## Queue records (R138, Table 5.2) -/

def queueRecGood (r : QueueRec) : Bool :=
  decide (1 ≤ r.slices) && decide (r.slices ≤ 65535) && decide (8 ≤ r.sliceRows) && decide (r.sliceRows ≤ 8192)
    && r.sliceRows % 8 == 0 && decide (r.doneSem < 8) && decide (r.stealAge < 256) && decide (r.cluster < 32)

/-- Some records of a list by cluster index stay within a number. -/
def perCluster (ns : List Nat) (max_ : Nat) : Bool :=
  (List.range 32).all (fun j => decide ((ns.filter (· == j)).length ≤ max_))

/-- Task list, tile programs and queue records. -/
def Image.programStatus (i : Image) : LoadStatus :=
  firstBad (((List.range i.tasks.length).zip i.tasks).map (fun p =>
      (if i.taskGood p.1 p.2.entry then 0 else Code.programInvalid, i.wholeAt 1))
    ++ ((List.range i.tasks.length).zip i.tasks).map (fun p => (p.2.programStatus, i.sectionAt 2 p.1))
    ++ [(if i.queues.all queueRecGood && perCluster (i.queues.map (·.cluster)) 32 then 0 else Code.programInvalid,
      i.wholeAt 5)])

/-! ## Cell configuration (R164) -/

/-- The core of a task in the arrangement of the image itself, cluster index j standing for cluster j. -/
def TaskEntry.home (t : TaskEntry) : Nat := t.cluster * 16 + t.core

/-- The cells of a kind of task (R154). -/
def kindCells (kind : Nat) : List Nat :=
  if kind = 0 then List.range 16 else if kind = 1 then List.range 8 else (List.range 8).map (· + 8)

/-- The cells of an image's region, in its own arrangement. -/
def Image.region (i : Image) : List (Nat × Nat) :=
  i.tasks.flatMap (fun t => (kindCells t.entry.kind).map (fun c => (t.entry.home, c)))

/-- Whether some link of the region joins two clusters (R232). -/
def Image.crosses (i : Image) : Bool :=
  let r := i.region
  r.any (fun c => [1, 2, 3, 4].any (fun p =>
    match cellNear c.1 c.2 p with
    | some n => n.1 / 16 != c.1 / 16 && r.contains n
    | none => false))

/-- Operations of Table 6.5, and those of them that compute on lanes. -/
def cellOps : List Nat :=
  [0, 1, 2, 3, 4, 5, 6, 7, 8, 9, 10, 11, 12, 13, 14, 0x10, 0x11, 0x18, 0x19, 0x1A, 0x1B, 0x1C]
def laneOps : List Nat := [1, 2, 3, 4, 5, 6, 7, 8, 9, 10, 11, 12, 13, 14, 0x10, 0x11]

/-- A firing entry of a cell has no reserved value and stays within a region. -/
def firingGood (region : List (Nat × Nat)) (core cell ix : Nat) (e : W128) : Bool :=
  let v := e.toNat
  let linkIn := fun p => (match cellNear core cell p with
    | some n => region.contains n
    | none => false)
  let portGood := fun (src reg : Nat) =>
    decide (src = 0) || src == 7 || (decide (1 ≤ src ∧ src ≤ 4) && linkIn src) || (src == 5 && decide (reg < 64))
  decide (ix < 64) && (!(feValid e) ||
    (cellOps.contains (feOp e) && bitsOf v 15 13 == 0 && bitsOf v 127 118 == 0
      && feRnd e != 3 && (feOp e != 0x1C || !(feBf16 e))
      && [0, 1, 2].all (fun n => bitsOf v (16 * n + 31) (16 * n + 29) == 0
        && portGood (feOperand e n).1 (feOperand e n).2)
      && [0, 1].all (fun n => bitsOf v (24 * n + 87) (24 * n + 81) == 0
        && portGood (feOut e n).1 (feOut e n).2.1 && decide ((feOut e n).2.2 ≤ 4)
        && ((feOut e n).1 == 7 || ((!(laneOps.contains (feOp e)) || (feOut e n).2.2 == 0)
          && (feOp e != 0x1B || (feOut e n).2.2 == 1))))
      && (feStreams e).all (fun s => decide (s < 0x3F0))))

def routeGood (region : List (Nat × Nat)) (core cell ix : Nat) (r : W32) : Bool :=
  decide (ix < 32) && (!(reValid r) ||
    (r.toNat / 2 ^ 16 == 0 && decide (1 ≤ rePort r ∧ rePort r ≤ 4) && decide (reStream r < 0x3F0)
      && (match cellNear core cell (rePort r) with
        | some n => region.contains n
        | none => false)))

/-- A semaphore that a binding consumes (R166, R170). -/
def bdConsumes (b : W128) : Option Nat := if bdType b = 2 then none else some (bdSemA b)

/-- Semaphores that a tile program waits on. -/
def waitSems (p : List W64) : List Nat :=
  p.filterMap (fun w => if w.toNat / 2 ^ 56 = 2 then some (bitsOf w.toNat 50 48) else none)

def bindingGood (t : TaskImage) (ix : Nat) (b : W128) : Bool :=
  let v := b.toNat
  decide (ix < 32) && (!(bdValid b) ||
    (decide (bdType b ≤ 3) && bitsOf v 31 30 == 0 && v / 2 ^ 88 == 0 && decide (bdStream b < 0x3F0)
      && bdSlot b == kindSlot t.entry.kind && (kindCells t.entry.kind).contains (bdCell b)
      && (decide (2 ≤ bdType b) || (decide (1 ≤ bdBatch b) && bdRing b % 64 == 0 && bitsOf v 75 54 % 64 == 0
        && bitsOf v 75 54 % (16 * bdBatch b) == 0
        && decide (bdRing b + bitsOf v 75 54 ≤ t.entry.bound * 0x1000)))
      && (match bdConsumes b with
        | none => true
        | some s => !((waitSems t.program).contains s)
          && ((t.cells.bindings.filter (fun q => bdValid q.2 && bdConsumes q.2 == some s)).length == 1))))

/-- Valid entries of an image with their place: core, cell, value. -/
def Image.firings (i : Image) : List (Nat × Nat × W128) :=
  i.tasks.flatMap (fun t => (t.cells.firing.filter (fun e => feValid e.2.2)).map (fun e =>
    (t.entry.home, e.1, e.2.2)))
def Image.routes (i : Image) : List (Nat × Nat × W32) :=
  i.tasks.flatMap (fun t => (t.cells.routes.filter (fun e => reValid e.2.2)).map (fun e =>
    (t.entry.home, e.1, e.2.2)))
def Image.binds (i : Image) : List (Nat × Nat × W128) :=
  i.tasks.flatMap (fun t => (t.cells.bindings.filter (fun e => bdValid e.2)).map (fun e =>
    (t.entry.home, bdCell e.2, e.2)))

/-- Producers of a stream: core, cell and the port its tokens take. A firing output to port 0 leaves the cell for a
binding; the tokens of an outbound binding enter the cell's own core port queue, said as port 5. -/
def Image.producers (i : Image) (s : Nat) : List (Nat × Nat × Nat) :=
  i.firings.flatMap (fun e => [0, 1].filterMap (fun n =>
    let o := feOut e.2.2 n
    if o.1 ≤ 4 ∧ o.2.1 = s then some (e.1, e.2.1, o.1) else none))
  ++ i.binds.filterMap (fun b => if !(bdInbound b.2.2) && bdStream b.2.2 == s then some (b.1, b.2.1, 5) else none)

/-- Consumers of a stream: core, cell and the ports whose queue they take it from; an inbound binding takes any, and
what its cell fires to the core port, said as port 6. -/
def Image.consumers (i : Image) (s : Nat) : List (Nat × Nat × List Nat) :=
  i.firings.filterMap (fun e =>
    let ps := [0, 1, 2].filterMap (fun n =>
      let o := feOperand e.2.2 n
      if o.1 ≤ 4 ∧ o.2 = s then some o.1 else none)
    if ps = [] then none else some (e.1, e.2.1, ps))
  ++ i.binds.filterMap (fun b =>
    if bdInbound b.2.2 && bdStream b.2.2 == s then some (b.1, b.2.1, [0, 1, 2, 3, 4, 6]) else none)

/-- Whether tokens of a stream that arrive in the queue of a port of a cell reach the consumer after exactly n
route entries. -/
def Image.follows (i : Image) (s : Nat) (cons : Nat × Nat × List Nat) : Nat → Nat × Nat × Nat → Bool
  | 0, at_ => at_.1 == cons.1 && at_.2.1 == cons.2.1 && cons.2.2.contains at_.2.2
  | n + 1, at_ =>
    match i.routes.find? (fun r => r.1 == at_.1 && r.2.1 == at_.2.1 && reStream r.2.2 == s) with
    | none => false
    | some r =>
      match cellNear r.1 r.2.1 (rePort r.2.2) with
      | none => false
      | some c => i.follows s cons n (c.1, c.2, farPort (rePort r.2.2))

/-- Every stream that an image names. -/
def Image.streamIds (i : Image) : List Nat :=
  (i.firings.flatMap (fun e => feStreams e.2.2) ++ i.routes.map (fun r => reStream r.2.2)
    ++ i.binds.map (fun b => bdStream b.2.2)).dedup

/-- One producer, one consumer, routes that lead from the one to the other, and one epoch. -/
def Image.streamGood (i : Image) (s : Nat) : Bool :=
  let routes := i.routes.filter (fun r => reStream r.2.2 == s)
  let epochs := ((i.firings.filter (fun e => (feStreams e.2.2).contains s)).map (fun e => feEpoch e.2.2)
    ++ routes.map (fun r => reEpoch r.2.2)
    ++ (i.binds.filter (fun b => bdStream b.2.2 == s)).map (fun b => bdEpoch b.2.2)).dedup
  match i.producers s, i.consumers s with
  | [p], [c] =>
    let start := if p.2.2 = 0 then (if routes.isEmpty then some (p.1, p.2.1, 6) else none)
      else if p.2.2 = 5 then some (p.1, p.2.1, 0)
      else (cellNear p.1 p.2.1 p.2.2).map (fun n => (n.1, n.2, farPort p.2.2))
    (match start with
      | none => false
      | some a => i.follows s c routes.length a)
    && routes.all (fun r => r.1 != c.1 || r.2.1 != c.2.1)
    && decide (epochs.length ≤ 1)
    && (routes.map (fun r => (r.1, r.2.1))).dedup.length == routes.length
  | _, _ => false

/-- The cell configuration of an image. -/
def Image.cellStatus (i : Image) : LoadStatus :=
  let region := i.region
  let taskBad := fun (t : TaskImage) =>
    let core := t.entry.home
    let mine := fun (c : Nat) => (kindCells t.entry.kind).contains c
    t.cells.firing.any (fun e => !(mine e.1) || !(firingGood region core e.1 e.2.1 e.2.2))
      || t.cells.routes.any (fun e => !(mine e.1) || !(routeGood region core e.1 e.2.1 e.2.2))
      || t.cells.bindings.any (fun e => !(bindingGood t e.1 e.2))
      || t.cells.regs.any (fun e => !(mine e.1) || decide (64 ≤ e.2.1))
  firstBad (((List.range i.tasks.length).zip i.tasks).map (fun p =>
      (if taskBad p.2 then Code.cellConfigInvalid else 0, i.sectionAt 4 p.1))
    ++ [(if i.streamIds.all i.streamGood then 0 else Code.cellConfigInvalid,
      ((i.dir.find? (fun e => e.type == 4)).map (·.offset)).getD 0)])

/-! ## Grist records (R212, R214, R220) -/

def streamRecGood (r : StreamRec) : Bool :=
  decide (r.object < 2 ^ 32) && decide (1 ≤ r.window) && decide (r.window ≤ 16) && decide (1 ≤ r.lock)
    && decide (r.lock ≤ 12) && r.schedule % 8 == 0 && decide (1 ≤ r.entries) && decide (r.entries ≤ 524288)
    && decide (r.cluster < 32) && r.reservedZero

/-- The layout checks of a header that need no tile (Table 7.9): version, reserved positions, and the pass counts
that the other fields imply. -/
def headerGood (h : List Byte) : Bool :=
  let fmt := dN h 2 1
  let mode := dN h 3 1
  let width := if bitAt mode 2 then 32 else 64
  let n := dN h 4 2
  let k := dN h 6 2
  let np := n / width
  let counts := (List.range 16).map (fun i => dN h (0x10 + i) 1)
  let each := if mode % 4 = 1 then k / 128 else k / 64
  dN h 0 2 == 1 && decide (fmt < 32) && !(fmtReserved (fmt % 16) (bitAt fmt 4)) && decide (mode < 8) && decide (mode % 4 < 3) && dN h 0x0E 2 == 0
    && zeroFrom h 0x24
    && dN h 8 4 == 64 + (if mode % 4 = 2 then 64 * np else 0)
      + counts.sum * entryBytes (fmt % 16) (bitAt fmt 4) (mode % 4) width
    && counts.sum == dN h 0x0C 2 && (counts.drop np).all (· == 0)
    && (counts.take np).all (fun c => if mode % 4 = 2 then decide (c ≤ each) else c == each)

/-- Lengths of a stream's sequences in schedule order, none where an entry or header cannot be read or fails. -/
def Machine.Dev.seqLengths (d : Dev) (x : Nat) (r : StreamRec) : Option (List Nat) :=
  match d.objOf x r.object with
  | none => none
  | some (_, o) =>
    if !(o.flags.getLsbD 1) then none
    else
      (List.range r.entries).mapM (fun j =>
        let e := d.ctxRead x (r.schedule + 8 * j) 8
        let off := leNat e.2 % 2 ^ 48
        let h := d.ctxRead x ((o.addrIn x).getD 0 + off) 64
        if e.1 = 0 ∧ off % 64 = 0 ∧ leNat e.2 / 2 ^ 54 = 0 ∧ h.1 = 0 ∧ headerGood h.2 = true then
          some (dN h.2 8 4)
        else none)

/-- Whether every run of w consecutive lengths fits a size. -/
def runsFit (w size : Nat) : List Nat → Bool
  | [] => true
  | l :: r => decide (((l :: r).take w).sum ≤ size) && runsFit w size r

def Machine.Dev.gristStatus (d : Dev) (x : Nat) (i : Image) : LoadStatus :=
  (if perCluster (i.streams.map (·.cluster)) 8 && i.streams.all (fun r =>
      streamRecGood r && (match d.seqLengths x r with
        | some ls => runsFit r.window (r.lock * 0x200000) ls
        | none => false)) then 0 else Code.gristStreamInvalid, i.wholeAt 6)

end Sys2Proof
end

