-- ==== Sys2Proof/Machine/Votes.lean ====
section
/-! DEFINITION. Votes and decisions of gyles (R261 to R270): what a participant sends, what a coordinator records,
and how a decision reaches a context. -/

namespace Sys2Proof.Machine

/-! ## Gyle settings (Table 9.8) -/

/-- The committed gyle number, which a running gyle also has (R251). -/
def Ctx.num (c : Ctx) : Nat := c.field 0x80 6
/-- 0 LOCAL, 1 DEVICE, 2 HOST (R265). -/
def Ctx.coordMode (c : Ctx) : Nat := c.field 0x89 1
def Ctx.coordinator (c : Ctx) : Nat := c.field 0x8C 3
def Ctx.coordCtx (c : Ctx) : Nat := c.field 0x90 2
/-- Consecutive aborts. -/
def Ctx.aborts (c : Ctx) : Nat := c.field 0x92 2
def Ctx.job (c : Ctx) : Nat := c.field 0x94 4
def Ctx.epoch (c : Ctx) : Nat := c.field 0xC0 2
def Ctx.replayLimit (c : Ctx) : Nat := if c.field 0x8A 1 = 0 then 4 else c.field 0x8A 1
def Ctx.autoReplay (c : Ctx) : Bool := bitAt (c.field 0x8B 1) 0
/-- Vote deadline and decide timeout in µs. -/
def Ctx.voteDeadline (c : Ctx) : Nat := if c.field 0x9C 4 = 0 then 60000000 else c.field 0x9C 4
def Ctx.decideTimeout (c : Ctx) : Nat := if c.field 0xB4 4 = 0 then 10000 else c.field 0xB4 4

/-- Whether a context coordinates the job it takes part in, on this device. -/
def Dev.coordinates (d : Dev) (x : Nat) : Bool :=
  let c := d.ctx x
  c.coordMode == 1 && c.coordinator == d.selfId && c.coordCtx == x

/-- Entries of the participant list of a coordinating context, none where one cannot be read: partner, context and
the reserved bits. -/
def Dev.plist (d : Dev) (x : Nat) : Option (List (Nat × Nat × Nat)) :=
  let c := d.ctx x
  (List.range (c.field 0x98 4)).mapM (fun i =>
    let e := d.ctxRead x (c.field 0xA0 8 + 8 * i) 8
    let v := leNat e.2
    if e.1 = 0 then some (v % 2 ^ 24, bitsOf v 41 32, bitsOf v 31 24 + bitsOf v 63 42) else none)

/-- Partner and context of every participant. -/
def Dev.participants (d : Dev) (x : Nat) : List (Nat × Nat) :=
  ((d.plist x).getD []).map (fun e => (e.1, e.2.1))

/-- The participant list is well formed: 1 to 65,535 entries that can be read, no reserved bit or identifier, no
entry twice, and the coordinator among them (R265). -/
def Dev.plistGood (d : Dev) (x : Nat) : Bool :=
  match d.plist x with
  | none => false
  | some es =>
    let ps := es.map (fun e => (e.1, e.2.1))
    decide (1 ≤ es.length) && decide (es.length ≤ 65535)
      && es.all (fun e => e.2.2 == 0 && !(reservedId e.1)) && ps.contains (d.selfId, x) && ps.dedup.length == ps.length

/-! ## Messages (Table 9.4) -/

/-- The fields of a gyle message. -/
structure Ballot where
  /-- 1 GYLE_VOTE, 2 GYLE_DECIDE -/
  type : Nat
  /-- 0 COMMIT_READY or COMMIT, 1 ABORT -/
  value : Nat
  cause : Nat
  job : Nat
  gyle : Nat
  epoch : Nat
  ctx : Nat
  origin : Nat
  status : W16
  deriving DecidableEq, Repr

/-- The 40 bytes of a message, with the sender's causal sequence. -/
def Ballot.bytes (b : Ballot) (seq : Nat) : List Byte :=
  leBytes 1 b.type ++ leBytes 1 b.value ++ leBytes 1 b.cause ++ leBytes 1 0 ++ leBytes 4 b.job ++ leBytes 8 b.gyle
  ++ leBytes 2 b.epoch ++ leBytes 2 b.ctx ++ leBytes 4 b.origin ++ leBytes 2 b.status.toNat ++ leBytes 6 0
  ++ leBytes 8 seq

/-- The fields of the message in a data flit; reserved bytes are ignored. -/
def ballotOf (bs : List Byte) : Ballot :=
  let f := fun (off n : Nat) => leNat ((bs.drop off).take n)
  { type := f 0 1, value := f 1 1, cause := f 2 1, job := f 4 4, gyle := f 8 8 % 2 ^ 48, epoch := f 0x10 2
    ctx := f 0x12 2, origin := f 0x14 4 % 2 ^ 24, status := BitVec.ofNat 16 (f 0x18 2) }

/-- The vote of a context as its gyle stands. -/
def Dev.voteOf (d : Dev) (x : Nat) : Ballot :=
  let c := d.ctx x
  { type := 1, value := b2n c.gyle.cause.isSome, cause := (c.gyle.cause.map (·.cause)).getD 0, job := c.job
    gyle := c.num, epoch := c.epoch, ctx := x, origin := d.selfId
    status := (c.gyle.cause.map (·.status)).getD 0 }

/-! ## A decision at a participant (R268) -/

/-- A decision for a context: it applies to the running gyle only, and COMMIT only after a COMMIT_READY vote. -/
def Dev.decideHere (d : Dev) (x job : Nat) (k : Decision) : Dev :=
  let c := d.ctx x
  let d := d.noteEvent (islMgmt 0)
  let runs := c.gyle.st == .running || c.gyle.st == .voted
  if !runs || k.gyle != c.num || job != c.job || k.attempt % 256 != c.aborts % 256 then d.count (gyleKey 0x838) 1
  else if k.commit && !(c.gyle.st == .voted && c.gyle.cause.isNone) then
    (d.count (gyleKey 0x840) 1).errFire (gyleKey 0) 0 (x * 2 ^ 16)
  else d.modGyle x (fun g => { g with st := .applying, decision := some k })

/-! ## The coordinator (R267) -/

/-- A decision sent to one participant. -/
def Dev.sendDecision (d : Dev) (c : Nat) (to_ : Nat × Nat) (k : Decision) : Dev :=
  let job := (d.ctx c).job
  if to_.1 = d.selfId then d.decideHere to_.2 job k
  else
    let b : Ballot :=
      { type := 2, value := b2n (!k.commit), cause := k.cause, job := job, gyle := k.gyle, epoch := (d.ctx c).epoch
        ctx := to_.2, origin := k.origin.toNat, status := k.status }
    let h := d.hdrFrom c 6 0 to_.1 to_.2 0 0
    let h := { h with gyle := BitVec.ofNat 48 k.gyle, attempt := BitVec.ofNat 8 k.attempt }
    d.sendTo h (b.bytes (d.seqOf (islMgmt 0)))

/-- Decisions kept: those of the last two gyles, every attempt of them. -/
def keptDecisions (ks : List Decision) : List Decision :=
  let nums := (ks.map (·.gyle)).dedup.take 2
  ks.filter (fun k => nums.contains k.gyle)

/-- A decision is recorded, final, and goes to every participant. -/
def Dev.coordDecide (d : Dev) (c : Nat) (commit : Bool) (cause origin : Nat) (status : W16) : Dev :=
  let me := d.ctx c
  let k : Decision :=
    { gyle := me.num, commit := commit, cause := cause, status := status, origin := BitVec.ofNat 24 origin
      attempt := me.aborts }
  let ps := d.participants c
  let d := (d.noteEvent (islMgmt 0)).modGyle c (fun g => { g with coord :=
    { votes := [], decisions := keptDecisions (k :: g.coord.decisions), early := g.coord.early, deadlineRuns := false } })
  ps.foldl (fun d p => d.sendDecision c p k) d

/-- The management cycle at which a coordinator's vote deadline expires (R267). -/
def Ctx.deadlineAt (c : Ctx) : Nat := c.resil.startCycle + 500 * c.voteDeadline

/-- The deadline has expired with votes missing: ABORT with cause 14, whose status the spec leaves open. -/
def Dev.expireVotes (d : Dev) (c : Nat) : Dev :=
  (d.drew.count (gyleKey 0x820) 1).coordDecide c false 14 0 (openCode (Config.freeNat d.free))

/-- A vote as a coordinator keeps it. -/
def Ballot.keep (b : Ballot) (who : Nat × Nat) (attempt : Nat) : EarlyVote :=
  { partner := who.1, ctx := who.2, gyle := b.gyle, attempt := attempt % 256, abort := b.value != 0, job := b.job
    epoch := b.epoch, origin := b.origin, status := b.status }

/-- A vote for the coordinator's own gyle and attempt is recorded, and may decide. -/
def Dev.countVote (d : Dev) (c : Nat) (v : EarlyVote) : Dev :=
  let me := d.ctx c
  let who := (v.partner, v.ctx)
  let ps := d.participants c
  if !(ps.contains who) then d
  else
    let tie := me.gyle.coord.deadlineRuns && d.cycleOf (islMgmt 0) == me.deadlineAt
    let d := (d.count (gyleKey 0x818) 1).count (gyleKey 0x828) (b2n tie)
    if v.abort then d.coordDecide c false 13 v.origin v.status
    else if v.job ≠ me.job ∨ v.epoch ≠ me.epoch then d.coordDecide c false 15 v.origin v.status
    else
      let votes := if me.gyle.coord.votes.contains who then me.gyle.coord.votes else who :: me.gyle.coord.votes
      let d := d.modGyle c (fun g => { g with coord := { g.coord with votes := votes } })
      if ps.all (fun p => votes.contains p) then d.coordDecide c true 0 0 0 else d

/-- A repeated or late vote is answered with the decision recorded; none where no decision is kept for it. -/
def Dev.decided (d : Dev) (c gyle attempt : Nat) : Option Decision :=
  (d.ctx c).gyle.coord.decisions.find? (fun k => k.gyle == gyle && k.attempt % 256 == attempt % 256)

/-- A vote reaches its coordinator: an expiry of an earlier cycle is recorded first, and one of this cycle after it; a
repeated or late vote is answered with the decision recorded; one for an older gyle or attempt is stale; one that is
ahead of the coordinator's own gyle or attempt waits for it; one that comes from no participant is ignored. -/
def Dev.recordVote (d : Dev) (c : Nat) (who : Nat × Nat) (b : Ballot) (attempt : Nat) : Dev :=
  let d := d.noteEvent (islMgmt 0)
  let d := if (d.ctx c).gyle.coord.deadlineRuns && decide ((d.ctx c).deadlineAt < d.cycleOf (islMgmt 0)) then
      d.expireVotes c
    else d
  let me := d.ctx c
  match d.decided c b.gyle attempt with
  | some k => d.sendDecision c who k
  | none =>
    let ahead := b.gyle = (me.num + 1) % 2 ^ 48
      ∨ (b.gyle = me.num ∧ 1 ≤ (attempt + 256 - me.aborts % 256) % 256 ∧ (attempt + 256 - me.aborts % 256) % 256 < 128)
    let v := b.keep who attempt
    if !(d.coordinates c) then d
    else if ahead then
      d.modGyle c (fun g => { g with coord := { g.coord with
        early := g.coord.early.filter (fun o => o != v) ++ [v] } })
    else if b.gyle ≠ me.num ∨ attempt % 256 ≠ me.aborts % 256 then d.count (gyleKey 0x830) 1
    else d.countVote c v

/-- A coordinator's own gyle or attempt starts: the votes that came before it are recorded, and older ones go. -/
def Dev.takeEarly (d : Dev) (c : Nat) : Dev :=
  let me := d.ctx c
  let mine := fun (v : EarlyVote) => v.gyle == me.num && v.attempt == me.aborts % 256
  let later := fun (v : EarlyVote) => v.gyle == (me.num + 1) % 2 ^ 48
  let votes := me.gyle.coord.early
  let d := d.modGyle c (fun g => { g with coord := { g.coord with early := votes.filter later } })
  (votes.filter mine).foldl (fun d v =>
    match d.decided c v.gyle v.attempt with
    | some k => d.sendDecision c (v.partner, v.ctx) k
    | none => d.countVote c v) d

/-! ## The vote of a participant (R261, R263, R269) -/

/-- A context's vote on its way: LOCAL it is the decision; under DEVICE it goes to the coordinating context, with or
without the fabric; under HOST it is posted as an event of the context. -/
def Dev.sendVote (d : Dev) (x : Nat) : Dev :=
  let c := d.ctx x
  let b := d.voteOf x
  if c.coordMode = 0 then
    d.decideHere x c.job
      { gyle := c.num, commit := c.gyle.cause.isNone, cause := b.cause, status := b.status
        origin := BitVec.ofNat 24 d.selfId, attempt := c.aborts }
  else if c.coordMode = 1 then
    if c.coordinator = d.selfId then d.recordVote c.coordCtx (d.selfId, x) b c.aborts
    else d.sendTo (d.hdrFrom x 6 0 c.coordinator c.coordCtx 0 0) (b.bytes (d.seqOf (islMgmt 0)))
  else d.ctxEvent x b.status 0 (b.bytes (d.seqOf (islMgmt 0)))

/-- A context with a running gyle votes: COMMIT_READY, or ABORT where a cause is recorded. -/
def Dev.castVote (d : Dev) (x : Nat) : Dev :=
  if (d.ctx x).gyle.st == .running then
    ((d.noteEvent (islMgmt 0)).modGyle x (fun g => { g with st := .voted })).sendVote x
  else d

end Sys2Proof.Machine
end

