-- ==== Sys2Proof/Machine/Restore.lean ====
section
/-! DEFINITION. Checkpoint images (R348 to R350), their check and restore (R364 to R368), and the steps of a racking
(R369 to R372). -/

namespace Sys2Proof.Machine

/-! ## The resilience block (Table 12.3) -/

/-- n bytes of the resilience block in force. -/
def Ctx.rf (c : Ctx) (off n : Nat) : Nat := c.resil.block.toNat / 2 ^ (8 * off) % 2 ^ (8 * n)

def Ctx.casksOn (c : Ctx) : Bool := bitAt (c.rf 6 2) 0
def Ctx.waitRepair (c : Ctx) : Bool := bitAt (c.rf 6 2) 1
def Ctx.proofOn (c : Ctx) : Bool := bitAt (c.rf 6 2) 2
def Ctx.caskMin (c : Ctx) : Nat := if c.rf 4 2 = 0 then 16 else c.rf 4 2
def Ctx.caskMax (c : Ctx) : Nat := if c.rf 8 4 = 0 then 4096 else c.rf 8 4
def Ctx.holder (c : Ctx) : Nat := c.rf 0x0C 3
def Ctx.caskPort (c : Ctx) : Nat := c.rf 0x0F 1 % 16
def Ctx.dataPosAt (c : Ctx) : Option Nat := if c.rf 0x20 8 = 2 ^ 64 - 1 then none else some (c.rf 0x20 8)

/-- The staging object of a context: device number and object. -/
def Dev.staging (d : Dev) (x : Nat) : Option (Nat × Obj) := d.objAt x ((d.ctx x).rf 0x18 8)

/-! ## Images as bytes (Table 12.1) -/

def align64 (n : Nat) : Nat := (n + 63) / 64 * 64

/-- The fields of an image's bytes. -/
def ckptOf (bs : List Byte) : CkptImage :=
  let f := fun (o n : Nat) => leNat ((bs.drop o).take n)
  let n := if 256 + 32 * f 0x60 4 ≤ bs.length then f 0x60 4 else 0
  let len := f 0x68 8
  let dir := (List.range n).map (fun i =>
    let a := 256 + 32 * i
    (f a 4, f (a + 4) 4, f (a + 8) 8, f (a + 16) 8, f (a + 24) 8))
  let rising := (List.range n).all (fun i => i == 0 || decide ((dir.getD (i - 1) (0, 0, 0, 0, 0)).1 < (dir.getD i (0, 0, 0, 0, 0)).1))
  let bare := bs.take 0x70 ++ List.replicate 64 0 ++ bs.drop 0xB0
  { version := f 0 2, sealed := bitAt (f 2 2) 0, ctx := f 4 2, layoutEpoch := BitVec.ofNat 16 (f 6 2)
    job := BitVec.ofNat 32 (f 8 4), owner := BitVec.ofNat 24 (f 0x0C 3), gyle := f 0x10 6, rngGyle := f 0x18 6
    dataPosition := BitVec.ofNat 64 (f 0x20 8), loss := BitVec.ofNat 32 (f 0x28 4), place := BitVec.ofNat 32 (f 0x2C 4)
    layoutDigest := BitVec.ofNat 64 (f 0x30 8), programDigest := BitVec.ofNat 64 (f 0x38 8)
    seeds := [0, 1, 2, 3].map (fun i => BitVec.ofNat 64 (f (0x40 + 8 * i) 8))
    objects := dir.map (fun e => (e.1, BitVec.ofNat 32 e.2.1, e.2.2.1, (bs.drop e.2.2.2.1).take e.2.2.1))
    length := len
    formGood := decide (256 ≤ bs.length) && len == bs.length && decide (f 2 2 < 2) && n == f 0x60 4 && rising
      && dir.all (fun e => e.2.2.2.1 % 64 == 0 && decide (256 + 32 * n ≤ e.2.2.2.1)
        && decide (e.2.2.2.1 + e.2.2.1 ≤ len) && e.2.2.2.2 == 0)
    digestGood := Config.sha512 bare == BitVec.ofNat 512 (f 0x70 64) }

/-- The peer list's bytes, none where it cannot be read. -/
def Dev.peerBytes (d : Dev) (x : Nat) : Option (List Byte) :=
  let r := d.ctxRead x ((d.ctx x).field 0xD0 8) (16 * (d.ctx x).field 0xD8 4)
  if r.1 = 0 then some r.2 else none

/-- Entries of the peer list: node, rank, partner, context, and the reserved bytes (R308). -/
def Dev.peers (d : Dev) (x : Nat) : List (Nat × Nat × Nat × Nat × Nat) :=
  match d.peerBytes x with
  | none => []
  | some bs =>
    (List.range (bs.length / 16)).map (fun i =>
      let f := fun (o n : Nat) => leNat ((bs.drop (16 * i + o)).take n)
      (f 0 3, f 4 1, f 8 3, f 0x0C 2, f 3 1 + f 5 3 + f 0x0B 1 + f 0x0E 2))

/-- The place word of a context: own node in [23:0], own rank in [31:24]. -/
def Dev.placeWord (d : Dev) (x : Nat) : Nat :=
  let rank := match (d.peers x).find? (fun e => e.2.2.1 == d.selfId && e.2.2.2.1 == x) with
    | some e => e.2.1
    | none => 0
  (d.ctx x).field 0xC4 3 + 2 ^ 24 * rank

/-- Peer-list bytes with those of partner and context taken as zero. -/
def barePeers (bs : List Byte) : List Byte :=
  bs.zipIdx.map (fun e => if [8, 9, 0xA, 0xC, 0xD].contains (e.2 % 16) then 0 else e.1)

/-- The digest of the layout in force (R349). -/
def Dev.layoutDigest (d : Dev) (x : Nat) : W64 :=
  (Config.sha512 (barePeers ((d.peerBytes x).getD []) ++ leBytes 4 (d.placeWord x))).setWidth 64

/-! ## Capture (R350, R353 to R355) -/

/-- Where a RESIDENT object's slot of a gyle lies: core and address (R256). -/
def Dev.resAt (d : Dev) (x : Nat) (o : Obj) (g : Nat) : Option (Nat × Nat) :=
  o.resident.bind (fun r =>
    ((d.ctx x).places.find? (fun p => p.task == r.1)).map (fun p =>
      (p.core, p.base + r.2 + (if o.isVersioned then g % 2 * (unitsOf o.size * 0x1000) else 0))))

/-- The bytes that a capture takes of an object in gyle g: none where it cannot be read. -/
def Dev.captureObj (d : Dev) (x : Nat) (o : Obj) (g : Nat) : Option (List Byte) :=
  match o.resident with
  | some _ => (d.resAt x o g).map (fun a => mreads (d.core a.1).spad a.2 o.size)
  | none =>
    (o.addrIn x).bind (fun va =>
      let r := d.ctxRead x va o.size
      if r.1 ≠ 0 then none
      else
        let blocks := (d.logEntries o).foldl (fun (bs : List Byte) (e : Nat × List Byte) =>
          (bs.take (e.1 - va) ++ e.2 ++ bs.drop (e.1 - va + 0x1000)).take o.size) r.2
        some blocks)

/-- CASKABLE objects of a context, ascending: local number and object. -/
def Dev.caskables (d : Dev) (x : Nat) : List (Nat × Obj) :=
  let c := d.ctx x
  (List.range 65536).filterMap (fun n =>
    if c.objects.any (fun p => p.1 == n) then
      (d.objOf x n).bind (fun o => if o.2.flags.getLsbD 7 then some (n, o.2) else none)
    else none)

/-- Directory places: object, size and offset of the data. -/
def dataPlaces : List (Nat × Obj) → Nat → List (Nat × Obj × Nat)
  | [], _ => []
  | (n, o) :: r, at_ => (n, o, at_) :: dataPlaces r (align64 (at_ + o.size))

/-- Bytes of an image of some objects. -/
def imageLength (os : List (Nat × Obj)) : Nat :=
  (dataPlaces os (align64 (256 + 32 * os.length))).foldl (fun m e => max m (e.2.2 + e.2.1.size)) (256 + 32 * os.length)

/-- The header of a context's image at capture, not sealed. The fields that the seal completes (R355) are free until
then. -/
def Dev.imageHeader (d : Dev) (x len count : Nat) : List Byte :=
  let c := d.ctx x
  let r := Config.freeNat d.free
  leBytes 2 1 ++ leBytes 2 0 ++ leBytes 2 x ++ leBytes 2 c.epoch ++ leBytes 4 c.job ++ leBytes 4 d.selfId
  ++ leBytes 8 c.resil.capGyle ++ leBytes 16 r ++ leBytes 4 (r / 2 ^ 128) ++ leBytes 4 (d.placeWord x)
  ++ leBytes 8 (d.layoutDigest x).toNat ++ leBytes 8 ((c.image.map (·.digest.toNat)).getD 0)
  ++ c.gyle.seeds.toList.flatMap (fun s => leBytes 8 s.toNat) ++ leBytes 4 count ++ leBytes 4 0 ++ leBytes 8 len
  ++ leBytes 64 (r / 2 ^ 160) ++ List.replicate 80 0

/-- The directory of an image. -/
def imageDir (ps : List (Nat × Obj × Nat)) : List Byte :=
  ps.flatMap (fun e => leBytes 4 e.1 ++ leBytes 4 e.2.1.flags.toNat ++ leBytes 8 e.2.1.size ++ leBytes 8 e.2.2 ++ leBytes 8 0)

/-- Every read of a capture: header, directory and data go to the staging object. -/
def Dev.captureImage (d : Dev) (x : Nat) : Dev :=
  let c := d.ctx x
  let g := c.resil.capGyle
  let os := d.caskables x
  let ps := dataPlaces os (align64 (256 + 32 * os.length))
  let pos := (c.dataPosAt.map (fun a => d.ctxNat x a 8)).getD (2 ^ 64 - 1)
  let d := d.modResil x (fun r => { r with dataPos := pos, captured := true })
  let at_ := c.rf 0x18 8
  let d := (d.drew.ctxPoke x at_ (d.imageHeader x (imageLength os) os.length ++ imageDir ps)).2
  ps.foldl (fun d e =>
    match d.captureObj x e.2.1 g with
    | some bs => (d.ctxPoke x (at_ + e.2.2) bs).2
    | none => d) d

/-- The image in the staging object, none where it cannot be read. -/
def Dev.stagingBytes (d : Dev) (x : Nat) : Option (List Byte) :=
  let at_ := (d.ctx x).rf 0x18 8
  match d.staging x with
  | none => none
  | some (_, o) =>
    let h := d.ctxRead x at_ 256
    let len := leNat ((h.2.drop 0x68).take 8)
    if h.1 ≠ 0 ∨ len < 256 ∨ o.size < len then none
    else
      let r := d.ctxRead x at_ len
      if r.1 = 0 then some r.2 else none

/-- Bytes with v in place of those from an offset on. -/
def putAt (bs : List Byte) (off : Nat) (v : List Byte) : List Byte := bs.take off ++ v ++ bs.drop (off + v.length)

/-- The header of a capture is completed: sealed, rng_gyle, data position, loss and digest (R355). -/
def Dev.sealImage (d : Dev) (x : Nat) : Dev :=
  let c := d.ctx x
  let at_ := c.rf 0x18 8
  match d.stagingBytes x with
  | none => d
  | some bs =>
    let bs := putAt bs 2 (leBytes 2 1)
    let bs := putAt bs 0x18 (leBytes 8 c.resil.capGyle ++ leBytes 8 c.resil.dataPos)
    let bs := putAt bs 0x28 (leBytes 4 (d.ctxNat x (c.rf 0x28 8) 4))
    let dg := leBytes 64 (Config.sha512 (putAt bs 0x70 (List.replicate 64 0))).toNat
    (d.ctxPoke x at_ ((putAt bs 0x70 dg).take 256)).2

/-- The image in a host range: none where the host does not answer. -/
def Dev.hostImage (d : Dev) (addr : Nat) (fail : Bool) : Option CkptImage :=
  if fail then none else some (ckptOf (d.hostReads addr (max 256 (leNat (d.hostReads (addr + 0x68) 8)))))

/-! ## RESTORE_CHECK (Table 12.5) -/

/-- Checks 1 to 4: readable and of the expected gyle, well formed and sealed, digest, job and program. -/
def Dev.sourceCheck (d : Dev) (x : Nat) (i : Option CkptImage) (expected : Option Nat) : W16 :=
  let c := d.ctx x
  match i with
  | none => Code.restoreSource
  | some i =>
    if (match expected with
      | some g => i.gyle != g
      | none => false) then Code.restoreSource
    else if i.version ≠ 1 ∨ !i.formGood ∨ !i.sealed then Code.restoreFormat
    else if !i.digestGood then Code.restoreDigest
    else if i.job.toNat ≠ c.job ∨ some i.programDigest ≠ c.image.map (·.digest) then Code.restoreJob
    else 0

/-- Checks 5 and 6. -/
def Ctx.positionCheck (c : Ctx) (i : CkptImage) : W16 :=
  match c.dataPosAt with
  | none => 0
  | some _ =>
    let diff : Int := (i.dataPosition.toNat : Int) - (c.rf 0x30 8 : Int)
    let step : Int := c.rf 0x38 4
    if step = 0 ∨ diff % step ≠ 0 then Code.restorePosition
    else if diff / step < (i.rngGyle : Int) then Code.restoreRngSkew
    else if (i.rngGyle : Int) ≠ diff / step ∨ i.rngGyle ≠ i.gyle then Code.restorePosition
    else 0

/-- Check 7. -/
def Dev.objectCheck (d : Dev) (x : Nat) (i : CkptImage) (racking : Bool) : W16 :=
  if i.objects.all (fun e =>
    match d.objOf x e.1 with
    | none => false
    | some (_, o) => o.flags == e.2.1 && (if racking then decide (e.2.2.1 ≤ o.size) else o.size == e.2.2.1)) then 0
  else Code.restoreObject

def Dev.restoreCheck (d : Dev) (x : Nat) (i : Option CkptImage) (expected : Option Nat) (racking : Bool) : W16 :=
  firstFail [d.sourceCheck x i expected, (match i with
    | some i => firstFail [(d.ctx x).positionCheck i, d.objectCheck x i racking]
    | none => 0)]

/-! ## Writing objects (R366, R371) -/

/-- Bytes put into an object's current contents from an offset on: for a versioned page its current slot, for a
RESIDENT versioned object the slot of gyle g. -/
def Dev.putCurrent (d : Dev) (x : Nat) (o : Obj) (off g : Nat) (bs : List Byte) : Dev :=
  match o.resident with
  | some _ =>
    (match d.resAt x o g with
      | some a => d.modCore a.1 (fun k => { k with spad := mwrites k.spad (a.2 + off) bs })
      | none => d)
  | none =>
    (match o.addrIn x with
      | none => d
      | some va =>
        ((piecesOf (va + off) bs.length).foldl (fun (p : Dev × List Byte) (q : Nat × Nat) =>
          let t := ((p.1.ctx x).translate q.1 false false).2
          let piece := p.2.take q.2
          (p.1.store 32 t piece, p.2.drop q.2)) (d, bs)).1)

/-- Dirty marks of a context's versioned pages cleared, and the number of pages that had one. -/
def Dev.clearDirty (d : Dev) (x : Nat) : Nat × Dev :=
  let c := d.ctx x
  let marked := c.ptab.filter (fun e => pteVersioned e.2.toNat && pteDirty e.2.toNat)
  (marked.length, d.modCtx x (fun c => marked.foldl (fun c e => c.setPte e.1 (e.2.toNat - 256)) c))

/-- The objects of a context with a log. -/
def Dev.loggedOf (d : Dev) (x : Nat) : List (Nat × Obj) :=
  (d.ctx x).objects.filterMap (fun p =>
    (tget? d.objs p.2).bind (fun o => if o.isLogged then some (p.2, o) else none))

/-- The bitmap frames of a log cleared and every index count set to 0. -/
def Dev.wipeLog (d : Dev) (o : Obj) : Dev :=
  let b := bitmapFrames o.size
  let d := (o.logFrames.take b).foldl (fun d f => (d.hbmClear f).stackWrite f 0 0x200000) d
  (o.logFrames.drop b).foldl (fun d f => d.store 32 (.t1 f 4088) (leBytes 8 0)) d

/-- Bitmaps and index counts cleared; the number of blocks that were saved. -/
def Dev.clearLogs (d : Dev) (x : Nat) : Nat × Dev :=
  let os := d.loggedOf x
  ((os.map (fun e => e.2.logged)).sum, os.foldl (fun d e => (d.wipeLog e.2).setObj e.1 { e.2 with logged := 0 }) d)

/-- Every object of an image written. -/
def Dev.writeImage (d : Dev) (x : Nat) (i : CkptImage) : Dev :=
  let d := (d.clearDirty x).2
  let d := (d.clearLogs x).2
  i.objects.foldl (fun d e =>
    match d.objOf x e.1 with
    | some (_, o) => d.putCurrent x o 0 i.gyle (e.2.2.2.take e.2.2.1)
    | none => d) d

/-! ## The end of a restore -/

/-- The context stands at the gyle of an image: number, seeds, aborts, IDLE, proof (R366). A capture that no gyle's
commit has sealed is dropped. -/
def Dev.atGyle (d : Dev) (x gyle : Nat) (seeds : List W64) (proof : W32 × W64) : Dev :=
  let d := d.modCtx x (fun c =>
    let c := (c.setField 0x80 8 gyle).setField 0x92 2 0
    let c := ((List.range 4).zip seeds).foldl (fun c p => c.setField (0x08 + 8 * p.1) 8 p.2.toNat) c
    { c with
      gyle := { c.gyle with st := .idle, cmd := none, startPending := false, cause := none, decision := none
                            applied := none, noReplay := false, coord := Coord.empty } })
  let on := (d.ctx x).proofOn
  (d.modResil x (fun r => { r with
    proof := if on then some proof else none, capture := if r.capture == .capturing then .idle else r.capture
    captured := false })).count (resilKey 0x828) 1

/-- A failed check: counted and captured, and the gyle state is HELD. -/
def Dev.restoreFailed (d : Dev) (x : Nat) (h : CmdHdr) (st : W16) : Dev :=
  let d := (d.count (resilKey 0x830) 1).errFire (resilKey 0) 1 (1 + x * 2 ^ 16)
  (d.modGyle x (fun g => { g with st := .held })).complete h st 0

/-- RESTORE with its image at hand. -/
def Dev.finishRestore (d : Dev) (x : Nat) (r : RestoreReq) (i : Option CkptImage) : Dev :=
  let d := d.modResil x (fun q => { q with waiting := none, reading := none })
  let expected := if r.expected.toNat = 2 ^ 64 - 1 then none else some r.expected.toNat
  let st := d.restoreCheck x i expected false
  match i with
  | none => d.restoreFailed x r.hdr st
  | some i =>
    if st ≠ 0 then d.restoreFailed x r.hdr st
    else ((d.writeImage x i).atGyle x i.gyle i.seeds (i.loss, i.layoutDigest)).complete r.hdr 0 0

/-! ## Reading a partner cask (R357, R358) -/

/-- The body of a CASK message (Table 12.4). -/
def caskBody (op version slot key offset bytes : Nat) : BitVec 160 :=
  bodyOf (leBytes 1 op ++ leBytes 1 version ++ leBytes 2 slot ++ leBytes 4 key ++ leBytes 8 offset ++ leBytes 4 bytes)

/-- A CASK message to the holder of a context's cask slot, by the home port of its cask traffic. -/
def Dev.sendCask (d : Dev) (x op version offset bytes : Nat) (data : List Byte) : Dev :=
  let c := d.ctx x
  let h := d.hdrFrom x 8 3 c.holder 0 0 (caskBody op version (c.rf 0x10 2) (c.rf 0x14 4) offset bytes)
  d.sendTracked x c.caskPort h data false none none true false

/-- The next READ of a cask version: its header first, then up to 4 MiB at a time. -/
def Dev.readOn (d : Dev) (x : Nat) (r : CaskReading) : Dev :=
  let len := leNat ((r.got.drop 0x68).take 8)
  let n := if r.got.length < 256 then 256 - r.got.length else min 0x400000 (len - r.got.length)
  (d.modResil x (fun q => { q with reading := some { r with upTo := r.got.length + n } })).sendCask x 2 r.version
    r.got.length n []

def Dev.startReading (d : Dev) (x version : Nat) : Dev := d.readOn x { version := version, got := [], upTo := 0 }

/-! ## Racking (R369 to R372) -/

/-- A plan entry of 32 bytes (Table 12.7). -/
def planEntryOf (b : List Byte) : PlanEntry :=
  let f := fun (o n : Nat) => leNat ((b.drop o).take n)
  { kind := f 0 1, peer := BitVec.ofNat 24 (f 1 3), srcObject := f 4 2, dstObject := f 6 2, srcOffset := f 8 8
    dstOffset := f 0x10 8, bytes := f 0x18 4, peerCtx := f 0x1C 2, slot := f 0x1E 2 }

/-- The plan of a racking, none where it cannot be read. -/
def Dev.readPlan (d : Dev) (x : Nat) (b : RackBody) : Option (List PlanEntry) :=
  (List.range b.entries).mapM (fun i =>
    let r := d.ctxRead x (b.plan + 32 * i) 32
    if r.1 = 0 then some (planEntryOf r.2) else none)

/-- Ranges that share a byte of one object. -/
def planMeets (a b : PlanEntry) : Bool :=
  a.dstObject == b.dstObject && meets (a.dstOffset, a.bytes) (b.dstOffset, b.bytes)

/-- A plan entry without a malformed field; an expect range lies in its object and outside what the own image
writes. -/
def Dev.planEntryGood (d : Dev) (x : Nat) (i : CkptImage) (e : PlanEntry) : Bool :=
  decide (1 ≤ e.kind ∧ e.kind ≤ 4) && e.srcOffset % 64 == 0 && e.dstOffset % 64 == 0 && e.bytes % 64 == 0
    && !(reservedId e.peer.toNat) && decide (e.peerCtx < 1024)
    && (e.kind != 4 || ((match d.objOf x e.dstObject with
        | some (_, o) => decide (e.dstOffset + e.bytes ≤ o.size)
        | none => false)
      && i.objects.all (fun o => o.1 != e.dstObject || !(meets (0, o.2.2.1) (e.dstOffset, e.bytes)))))

def Dev.planGood (d : Dev) (x : Nat) (i : CkptImage) (p : List PlanEntry) : Bool :=
  let expects := p.filter (fun e => e.kind == 4)
  p.all (d.planEntryGood x i)
    && (List.range expects.length).all (fun n =>
      match expects[n]? with
      | some e => (expects.drop (n + 1)).all (fun f => !(planMeets e f))
      | none => true)

/-- A racking fails: phase, capture in ERR_STATUS, the command's completion; the gyle state stays HELD. -/
def Dev.rackFailed (d : Dev) (x : Nat) (k : Rack) (st : W16) : Dev :=
  let d := d.modResil x (fun r => { r with rack := .failed, racking := none, reading := none })
  ((d.errFire (resilKey 0) 3 (3 + x * 2 ^ 16)).modGyle x (fun g => { g with st := .held })).complete k.cmd st 0

/-- Where a byte of a held version lies. -/
def caskPlace (s : CaskSlot) (older : Bool) (off : Nat) : Phys :=
  let from_ := if older != s.flipped then s.frames.length / 2 else 0
  .t1 (s.frames.getD (from_ + off / 0x200000) 0) (off % 0x200000)

/-- The bytes of a held cask version. -/
def Dev.heldBytes (d : Dev) (s : CaskSlot) (older : Bool) (off n : Nat) : List Byte :=
  (piecesOf off n).flatMap (fun p => d.physRead (caskPlace s older p.1) p.2)

/-- The bytes of a held version that a read takes from the stacks. -/
def Dev.heldReads (d : Dev) (s : CaskSlot) (older : Bool) (off n : Nat) : Dev :=
  (piecesOf off n).foldl (fun d p => d.placeRead (caskPlace s older p.1) p.2) d

/-- The version of a held slot with a gyle, as an image. -/
def Dev.heldImage (d : Dev) (slot gyle : Nat) : Option CkptImage :=
  (tget? d.casks slot).bind (fun s =>
    [false, true].findSome? (fun older =>
      let v := s.versions.get (if older then 1 else 0)
      if v.sealed && !v.lost && v.gyle == gyle then
        let len := leNat (d.heldBytes s older 0x68 8)
        if len ≤ s.size then some (ckptOf (d.heldBytes s older 0 len)) else none
      else none))

/-- A range of a source object in pieces of 65,536 bytes: offset from its start, bytes. -/
def rackPieces (n : Nat) : List (Nat × Nat) :=
  (List.range ((n + 65535) / 65536)).map (fun i => (65536 * i, min 65536 (n - 65536 * i)))

/-- The RACK messages of a send. -/
def Dev.sendRange (d : Dev) (x : Nat) (e : PlanEntry) (data : List Byte) : Dev :=
  (rackPieces e.bytes).foldl (fun d p =>
    let body := bodyOf (leBytes 1 0 ++ leBytes 1 0 ++ leBytes 2 e.dstObject ++ leBytes 8 (e.dstOffset + p.1)
      ++ leBytes 4 p.2 ++ leBytes 4 0)
    let h := d.hdrFrom x 9 3 e.peer.toNat e.peerCtx 0 body
    match d.portFor e.peer.toNat with
    | some port => d.drew.sendTracked x port h ((data.drop p.1).take p.2) false none none false true
    | none => d.sendTracked x 12 h ((data.drop p.1).take p.2) false none none false true) d

/-- The sends of a plan in entry order, up to the first whose source fails its checks (R370). -/
def Dev.rackSends (d : Dev) (x : Nat) (k : Rack) (own : CkptImage) : List PlanEntry → W16 × Dev
  | [] => (0, d)
  | e :: r =>
    if e.kind = 4 then d.rackSends x k own r
    else
      let img := if e.kind = 1 then some own else if e.kind = 2 then d.heldImage e.slot k.body.gyle
        else d.hostImage k.body.hostImage.toNat k.sendFail
      let st := d.sourceCheck x img none
      match img with
      | none => (Code.rackSourceStale, d)
      | some i =>
        if st ≠ 0 then (st, d)
        else if i.gyle ≠ k.body.gyle ∨ i.layoutEpoch ≠ k.body.baseEpoch then (Code.rackSourceStale, d)
        else
          match i.objects.find? (fun o => o.1 == e.srcObject) with
          | none => (Code.rackPlanInvalid, d)
          | some o =>
            if o.2.2.1 < e.srcOffset + e.bytes then (Code.rackPlanInvalid, d)
            else (d.drew.sendRange x e (o.2.2.2.drop e.srcOffset)).rackSends x k own r

/-- Steps 2 to 4 of R369 with the own image at hand. -/
def Dev.rackWith (d : Dev) (x : Nat) (k : Rack) (i : Option CkptImage) : Dev :=
  let d := d.modResil x (fun r => { r with reading := none })
  let st := d.restoreCheck x i (some k.body.gyle) true
  match i, d.readPlan x k.body with
  | none, _ => d.rackFailed x k Code.restoreSource
  | _, none => d.rackFailed x k Code.rackPlanInvalid
  | some i, some plan =>
    if !(d.planGood x i plan) then d.rackFailed x k Code.rackPlanInvalid
    else if st ≠ 0 then
      ((d.count (resilKey 0x830) 1).errFire (resilKey 0) 1 (1 + x * 2 ^ 16)).rackFailed x k st
    else if i.layoutEpoch ≠ k.body.baseEpoch then d.rackFailed x k Code.rackSourceStale
    else
      let k : Rack := { k with plan := plan, restored := true, seeds := i.seeds, proof := (i.loss, i.layoutDigest) }
      let d := (d.writeImage x i).modResil x (fun r => { r with racking := some k })
      let s := d.rackSends x k i plan
      if s.1 = 0 then s.2 else s.2.rackFailed x k s.1

/-! ## What a decision applied, or grants given, let go on (R364, R369) -/

/-- A restore or racking that has not yet begun its check waits for the decision to be applied and for the
context's grants. -/
def Ctx.restoreDue (c : Ctx) : Bool :=
  (c.resil.waiting.isSome || (match c.resil.racking with
    | some k => !k.restored
    | none => false)) && c.resil.reading.isNone && !(c.gyle.st == .running || c.gyle.st == .voted || c.gyle.st == .applying)

/-- A due restore or racking goes on: from staging or host range at once, from a partner cask by its first READ. -/
def Dev.resumeRestore (d : Dev) (x : Nat) : Dev :=
  let c := d.ctx x
  if !c.restoreDue || c.state == .loaded || c.state == .swapped || c.state.gone then d
  else
    match c.resil.waiting, c.resil.racking with
    | some r, _ =>
      if r.source = 1 then d.startReading x r.version
      else if r.source = 0 then d.finishRestore x r ((d.stagingBytes x).map ckptOf)
      else d.drew.finishRestore x r (d.hostImage r.addr r.hostFail)
    | none, some k =>
      let d := d.modGyle x (fun g => { g with st := .held })
      if k.body.ownSource = 1 then d.startReading x 0
      else if k.body.ownSource = 0 then d.rackWith x k ((d.stagingBytes x).map ckptOf)
      else d.drew.rackWith x k (d.hostImage k.body.ownImage.toNat k.ownFail)
    | none, none => d

/-- The bytes of a version have come whole: the restore or racking that waited for them goes on. A racking takes
either version, the one whose gyle is its own. -/
def Dev.readDone (d : Dev) (x : Nat) (r : CaskReading) : Dev :=
  let c := d.ctx x
  let i := ckptOf r.got
  match c.resil.waiting, c.resil.racking with
  | some q, _ => d.finishRestore x q (some i)
  | none, some k =>
    if r.version = 0 ∧ i.gyle ≠ k.body.gyle then d.startReading x 1 else d.rackWith x k (some i)
  | none, none => d

/-- A READ is refused: the source is not readable. -/
def Dev.readRefused (d : Dev) (x : Nat) (r : CaskReading) : Dev :=
  let c := d.ctx x
  match c.resil.waiting, c.resil.racking with
  | some q, _ => d.finishRestore x q none
  | none, some k => if r.version = 0 then d.startReading x 1 else d.rackWith x k none
  | none, none => d

end Sys2Proof.Machine
end

