-- ==== Sys2Proof/Machine/Sched.lean ====
section
/-! DEFINITION. The scheduler: placement (R231, R232), runs, pre-emption and yields (R233 to R239), swaps (R241 to
R243), eviction (R244) and remote arrivals (R236). -/

namespace Sys2Proof.Machine

/-! ## The parts of a context -/

def Ctx.tasks (c : Ctx) : List TaskImage := (c.image.map (·.tasks)).getD []
def Ctx.task (c : Ctx) (n : Nat) : Option TaskImage := c.tasks[n]?

/-- Priority class, 0 the highest. -/
def Ctx.prio (c : Ctx) : Nat := c.field 6 1 % 4
/-- Swap tier of the mode byte: true for T2. -/
def Ctx.swapsToHost (c : Ctx) : Bool := bitAt (c.field 7 1) 4
/-- A gyle is in progress (R234); a HELD context waits for its host. -/
def Ctx.active (c : Ctx) : Bool := c.gyle.st == .running || c.gyle.st == .voted || c.gyle.st == .applying

/-- Bytes of the yield save of a kind of task (R239): accumulator, cell records and control. -/
def saveBytes (kind : Nat) : Nat := if kind = 0 then 593920 else 296960

/-- Bytes of the yield saves of a context's tasks, and of those together with the grants (R241). -/
def Ctx.yieldBytes (c : Ctx) : Nat := (c.tasks.map (fun t => saveBytes t.entry.kind)).sum
def Ctx.swapBytes (c : Ctx) : Nat := c.yieldBytes + c.bounds.sum

/-- T0 units that placement charges (Table 7.6). -/
def Ctx.coreUnits (c : Ctx) : Nat :=
  (c.tasks.map (fun t => t.entry.bound + (if t.entry.kind = 0 then 128 else 64))).sum

/-- Records with their numbers: the position among those of the same cluster index. -/
def numbered {α : Type} (cl : α → Nat) (rs : List α) : List (Nat × α) :=
  ((List.range rs.length).zip rs).map (fun p => (((rs.take p.1).filter (fun r => cl r == cl p.2)).length, p.2))

def Ctx.queueRecs (c : Ctx) : List (Nat × QueueRec) := (c.image.map (fun i => numbered (·.cluster) i.queues)).getD []
def Ctx.streamRecs (c : Ctx) : List (Nat × StreamRec) := (c.image.map (fun i => numbered (·.cluster) i.streams)).getD []

/-! ## The swap reserve (R241) -/

/-- Free frames of the swap reserve, numbered die × 65,536 + frame. -/
def Dev.swapFree (d : Dev) : List Nat :=
  let taken := d.swapUsed.flatMap (·.2)
  let all := [0, 1, 2, 3].flatMap (fun die =>
    let p := d.poolOf die
    let lo := d.openFrames die
    (((List.range (d.swapShares.getD die 0)).map (· + lo)).filter (fun f =>
      decide (storeFrames die + f < p.zeroed) && !(p.toZero.contains f))).map (· + die * 65536))
  all.filter (fun f => !(taken.contains f))

/-- Frames of the reserve for a context's saves; which of the free ones is a free value. -/
def Dev.takeSwap (d : Dev) (x n : Nat) : Option Dev :=
  let fs := d.swapFree
  if fs.length < n then none
  else
    let k := Config.freeNat d.free % max fs.length 1
    let mine := tget d.swapUsed x [] ++ (fs.drop k ++ fs.take k).take n
    some { d.drew with swapUsed := tset d.swapUsed x mine }

/-- A context's frames of the reserve beyond the first n freed. -/
def Dev.keepSwap (d : Dev) (x n : Nat) : Dev :=
  let fs := tget d.swapUsed x []
  (({ d with swapUsed := if n = 0 then tdel d.swapUsed x else tset d.swapUsed x (fs.take n) })).freeFrameList (fs.drop n)

/-! ## Placement (R231) -/

/-- Tasks that contexts have placed on a core: context, kind, start and bytes of the grant. -/
def Dev.tenants (d : Dev) (core : Nat) : List (Nat × Nat × Nat × Nat) :=
  d.ctxs.flatMap (fun e => e.2.places.filterMap (fun p =>
    if p.core = core then (e.2.task p.task).map (fun t => (e.1, t.entry.kind, p.base, t.entry.bound * 0x1000))
    else none))

/-- Whether a grant of some bytes may start at b beside the ranges in use. -/
def startGood (used : List (Nat × Nat)) (bytes b : Nat) : Bool :=
  decide (b + bytes ≤ 0x400000) && !(used.any (meets (b, bytes)))

/-- The places at which a grant may start. -/
def grantStarts : List Nat := (List.range 1025).map (· * 0x1000)

/-- A start for a grant on a core beside the ranges in use and with room left for the grants of `others`; which of the
possible ones is a free value. -/
def freeBase (used : List (Nat × Nat)) (bytes pick : Nat) (others : List Nat) : Option Nat :=
  let cands := (grantStarts.filter (startGood used bytes)).filter (fun b =>
    others.all (fun n => grantStarts.any (startGood ((b, bytes) :: used) n)))
  cands[pick % max cands.length 1]?

/-- Places for tasks of one cluster index on a cluster: each with the bytes of its grant. The grants of the contexts in
`skip` count as gone. A core under test waits (R339). -/
def Dev.fitTasks (d : Dev) (skip : List Nat) (k pick : Nat) :
    List (Nat × TaskImage) → List (TaskPlace × Nat) → Option (List (TaskPlace × Nat))
  | [], ps => some ps
  | (n, t) :: r, ps =>
    let core := 16 * k + t.entry.core
    let there := d.tenants core
    let used := (there.filter (fun u => !(skip.contains u.1))).map (·.2.2)
      ++ (ps.filter (fun p => p.1.core == core)).map (fun p => (p.1.base, p.2))
    let others := (r.filter (fun q => q.2.entry.core == t.entry.core)).map (fun q => q.2.entry.bound * 0x1000)
    if d.retired Unit.core core || (d.core core).test == .running
        || there.any (fun u => (u.2.1 == 0) != (t.entry.kind == 0)) then none
    else
      match freeBase used (t.entry.bound * 0x1000) pick others with
      | none => none
      | some b =>
        d.fitTasks skip k pick r
          (ps ++ [({ task := n, core := core, slot := (kindSlot t.entry.kind).1, base := b, running := false },
            t.entry.bound * 0x1000)])

/-- Places for the tasks of a cluster index j on cluster k, where everything of R231 that k decides holds. -/
def Dev.fitCluster (d : Dev) (skip : List Nat) (x pick j k : Nat) : Option (List TaskPlace) :=
  let c := d.ctx x
  let cl := d.cluster k
  let qs := (c.queueRecs.filter (fun r => r.2.cluster == j)).length
  let ss := (c.streamRecs.filter (fun r => r.2.cluster == j)).map (·.2.lock)
  if d.retired Unit.hub k || decide (256 < cl.queues.length + qs) || decide (32 < cl.streams.length + ss.length)
      || decide (12 < cl.lockedWays + ss.sum) then none
  else
    let mine := ((List.range c.tasks.length).zip c.tasks).filter (fun p => p.2.entry.cluster == j)
    (d.fitTasks skip k pick mine []).map (fun ps => ps.map (·.1))

/-- A map of cluster indices to different clusters that fits and whose places pass a test, found in the order of a list
of clusters; m and ps are the parts already mapped. -/
def searchMap (fits : Nat → Nat → Option (List TaskPlace)) (ok : List TaskPlace → Bool) :
    List Nat → List Nat → List (Nat × Nat) → List TaskPlace → Option (List (Nat × Nat) × List TaskPlace)
  | [], _, m, ps => if ok ps then some (m, ps) else none
  | j :: r, ks, m, ps =>
    ks.findSome? (fun k =>
      match fits j k with
      | none => none
      | some qs => searchMap fits ok r (ks.filter (· != k)) (m ++ [(j, k)]) (ps ++ qs))

/-- Coordinates of a cluster in the device's 8 by 4 clusters (R16), and the cluster at coordinates. -/
def clusterXY (k : Nat) : Nat × Nat := (4 * (k / 8 % 2) + k % 4, 2 * (k / 16) + k % 8 / 4)
def clusterAt (x y : Nat) : Nat := 8 * (2 * (y / 2) + x / 4) + 4 * (y % 2) + x % 4

/-- A cluster moved by (ox − 7, oy − 3) whole clusters. -/
def shiftCluster (ox oy k : Nat) : Option Nat :=
  let p := clusterXY k
  if 7 ≤ p.1 + ox ∧ p.1 + ox < 15 ∧ 3 ≤ p.2 + oy ∧ p.2 + oy < 7 then some (clusterAt (p.1 + ox - 7) (p.2 + oy - 3))
  else none

/-- The translations of a map of cluster indices. -/
def translations (base : List (Nat × Nat)) : List (List (Nat × Nat)) :=
  (List.range 15).flatMap (fun ox => (List.range 7).filterMap (fun oy =>
    base.mapM (fun p => (shiftCluster ox oy p.2).map (fun k => (p.1, k)))))

/-- Cells of a context's tasks under a map. -/
def Ctx.cellsUnder (c : Ctx) (m : List (Nat × Nat)) : List (Nat × Nat) :=
  c.tasks.flatMap (fun t =>
    match m.find? (fun p => p.1 == t.entry.cluster) with
    | some p => (kindCells t.entry.kind).map (fun i => (p.2 * 16 + t.entry.core, i))
    | none => [])

/-- Whether an open link under a map joins cells of two clusters (R232). -/
def Ctx.crossesUnder (c : Ctx) (m : List (Nat × Nat)) : Bool :=
  let r := c.cellsUnder m
  r.any (fun a => [1, 2, 3, 4].any (fun p =>
    match cellNear a.1 a.2 p with
    | some n => n.1 / 16 != a.1 / 16 && r.contains n
    | none => false))

/-- The cluster indices that an image uses, ascending. -/
def Ctx.shape (c : Ctx) : List Nat :=
  (List.range 32).filter (fun j => c.tasks.any (fun t => t.entry.cluster == j)
    || c.queueRecs.any (fun r => r.2.cluster == j) || c.streamRecs.any (fun r => r.2.cluster == j))

def rotate {α : Type} (xs : List α) (n : Nat) : List α :=
  xs.drop (n % max xs.length 1) ++ xs.take (n % max xs.length 1)

/-- The map that every placement of a context translates, none where each index maps freely (R232): the first
placement's, or, before it, the arrangement in which the image's own links are open. -/
def Ctx.fixedMap (c : Ctx) : Option (List (Nat × Nat)) :=
  let first := (c.shape.map (fun j => (j, c.firstMap.getD j 32))).filter (fun p => p.2 < 32)
  if !c.firstMap.isEmpty then (if c.crossesUnder first then some first else none)
  else if (c.image.map Image.crosses).getD false then some (c.shape.map (fun j => (j, j)))
  else none

/-- A map and places that satisfy the core, cluster and record conditions of R231, where the grants of the contexts in
`skip` count as gone, and that pass a test; the device's choice among several is a free value. -/
def Dev.findPlaces (d : Dev) (skip : List Nat) (ok : List TaskPlace → Bool) (x : Nat) :
    Option (List (Nat × Nat) × List TaskPlace) :=
  let c := d.ctx x
  let pick := Config.freeNat d.free
  let fits := d.fitCluster skip x pick
  match c.fixedMap with
  | none => searchMap fits ok c.shape (rotate (List.range 32) pick) [] []
  | some base =>
    (rotate (translations base) pick).findSome? (fun m =>
      match m.mapM (fun p => fits p.1 p.2) with
      | none => none
      | some ps => if ok ps.flatten then some (m, ps.flatten) else none)

/-- Frames that the near objects awaiting a first placement take (R199). -/
def Dev.nearNeed (d : Dev) (x : Nat) : Nat :=
  ((d.ctx x).nearPending.map (fun p =>
    match tget? d.objs p.1 with
    | some o => pagesOf o.size * (if o.isVersioned then 2 else 1) + o.logFrames.length
    | none => 0)).sum

/-- The die of the lowest-numbered core of some places. -/
def lowestDie (ps : List TaskPlace) : Nat :=
  match ps with
  | [] => 0
  | p :: r => (r.foldl (fun m q => min m q.core) p.core) / 128

/-- Room in the swap reserve for a context's save area: with swaps to T1 the grants count too. -/
def Dev.saveRoom (d : Dev) (x : Nat) : Bool :=
  let c := d.ctx x
  decide (pagesOf (if c.swapsToHost then c.yieldBytes else c.swapBytes) ≤
    d.swapFree.length + (tget d.swapUsed x []).length)

/-- The frames of the near objects that await the placement are free on the die that it gives them (R199). -/
def Dev.nearFits (d : Dev) (x : Nat) (ps : List TaskPlace) : Bool :=
  decide (d.nearNeed x ≤ (d.freeFrames (lowestDie ps)).length)

/-- A placement that satisfies R231, where the grants of the contexts in `skip` count as gone. -/
def Dev.placement (d : Dev) (skip : List Nat) (x : Nat) : Option (List (Nat × Nat) × List TaskPlace) :=
  if d.saveRoom x then d.findPlaces skip (d.nearFits x) x else none

/-- Only near frames are missing for a placement. -/
def Dev.poolLow (d : Dev) (x : Nat) : Bool :=
  d.saveRoom x && (d.placement [] x).isNone && (d.findPlaces [] (fun _ => true) x).isSome

/-! ## Grants given and taken -/

/-- Ways that the streams of a context lock in a cluster's cache (R204). -/
def Cluster.waysOf (c : Cluster) (x : Nat) : Nat := ((c.streams.filter (fun g => g.ctx == x)).map (·.rec_.lock)).sum

/-- A context locks its ways of a cluster's cache; cached lines that the other ways cannot hold go, and which they are
is a free value (R204). -/
def Dev.lockWays (d : Dev) (x k : Nat) : Dev :=
  d.drew.modCluster k (fun c =>
    let c := if c.waysOf x = 0 then c else { c with locks := tset c.locks x (c.waysOf x) }
    { c with cache := (rotate c.cache (Config.freeNat d.free)).take c.lineCap })

/-- Queue records and streams at work on a cluster; locked ways with them (R138, R204, R212). -/
def Dev.installOn (d : Dev) (x k : Nat) (qs : List WQueue) (ss : List GStream) : Dev :=
  (d.modCluster k (fun c => { c with queues := c.queues ++ qs, streams := c.streams ++ ss })).lockWays x k

/-- The clusters of a context whose locks went back to the pool when its tasks left (R217). -/
def Dev.unlocked (d : Dev) (x : Nat) : List Nat :=
  (d.clusters.filter (fun e => e.2.waysOf x != 0 && (tget? e.2.locks x).isNone)).map (·.1)

/-- The ways that a context must lock again before it runs are free. -/
def Dev.waysFree (d : Dev) (x : Nat) : Bool :=
  (d.unlocked x).all (fun k => decide ((d.cluster k).lockedWays + (d.cluster k).waysOf x ≤ 12))

def freshQueue (x : Nat) (r : Nat × QueueRec) : WQueue :=
  { ctx := x, num := r.1, rec_ := r.2, slices := List.replicate r.2.slices { state := .free, gen := 0, tickets := [] }
    failed := false, zeroed := [], resetPending := false, nextAt := 0 }

def freshStream (x : Nat) (r : Nat × StreamRec) : GStream :=
  { ctx := x, num := r.1, rec_ := r.2, low := 0, next := 0, held := [], released := [], named := [] }

/-- A cell as the image configures it. -/
def TaskImage_cell (t : TaskImage) (i : Nat) : CellSt :=
  { CellSt.empty with
    regs := (t.cells.regs.filter (fun e => e.1 == i)).foldl (fun m e => tset m e.2.1 e.2.2) []
    firing := (t.cells.firing.filter (fun e => e.1 == i)).foldl (fun m e => tset m e.2.1 e.2.2) []
    routes := (t.cells.routes.filter (fun e => e.1 == i)).foldl (fun m e => tset m e.2.1 e.2.2) [] }

/-- The saved state of a task that has not run (R252). -/
def freshSave (n : Nat) (t : TaskImage) : SavedTask :=
  { task := n, seq := Seq.zero, loadws := [], acc := []
    cells := (kindCells t.entry.kind).map (fun i => (i, TaskImage_cell t i))
    bindings := t.cells.bindings.foldl (fun m e => tset m e.1 { cfg := e.2, pos := 0, units := 0, stopped := false }) []
    ended := none, void := false, heldApply := false, spad := [], faultStatus := 0, faultDesc := 0 }

/-- A grant on a core written: zero, then the parts given by offset. -/
def Dev.fillGrant (d : Dev) (core base bytes : Nat) (parts : List (Nat × List Byte)) : Dev :=
  d.modCore core (fun c => { c with spad := parts.foldl (fun m p => mwrites m (base + p.1) p.2) (mclear c.spad base bytes) })

/-- Near objects take their frames on the die of the placement, and their commands complete (R199). -/
def Dev.placeNear (d : Dev) (x : Nat) : Dev :=
  let c := d.ctx x
  let near := c.nearDie.getD 0
  (c.nearPending.foldl (fun d p =>
    match (tget? d.objs p.1).bind (fun o => d.objFrames { o with logFrames := [] } o.logFrames.length near) with
    | none => d
    | some r => ((r.2.setObj p.1 r.1).remap r.1).completeOpt p.2 0 (BitVec.ofNat 32 p.1)) d).modCtx x
    (fun c => { c with nearPending := [] })

/-- The clusters of a map by cluster index, 32 where an index is not used. -/
def mapList (m : List (Nat × Nat)) : List Nat :=
  (List.range 32).map (fun j => ((m.find? (fun p => p.1 == j)).map (·.2)).getD 32)

/-- A context takes its places: charges, the save area, records and locks; from LOADED also its near frames and the
initial images of its grants, and it becomes RESIDENT; from SWAPPED its swap in begins. -/
def Dev.takePlaces (d : Dev) (x : Nat) (m : List (Nat × Nat)) (ps : List TaskPlace) : Dev :=
  let c := d.ctx x
  let fresh := c.state == .loaded
  let need := pagesOf c.yieldBytes - (tget d.swapUsed x []).length
  let d := (d.drew.takeSwap x need).getD d
  let d := d.modCtx x (fun c => { (c.addCharges [c.coreUnits, 0, 0, 0]) with
    places := ps, clusterMap := mapList m
    firstMap := if c.firstMap.isEmpty then mapList m else c.firstMap
    lastDie := some (lowestDie ps), savedQueues := [], savedStreams := [], quotaPosted := false })
  let d := m.foldl (fun d p =>
    let qs := if fresh then (c.queueRecs.filter (fun r => r.2.cluster == p.1)).map (freshQueue x)
      else c.savedQueues.filter (fun q => q.rec_.cluster == p.1)
    let ss := if fresh then (c.streamRecs.filter (fun r => r.2.cluster == p.1)).map (freshStream x)
      else c.savedStreams.filter (fun g => g.rec_.cluster == p.1)
    d.installOn x p.2 (qs.map (fun q => { q with zeroed := q.zeroed.map (fun z => p.2 * 32 + z % 32) })) ss) d
  if !fresh then d.modCtx x (fun c => { c with swapping := true })
  else
    let d := ps.foldl (fun d p =>
      match c.task p.task with
      | none => d
      | some t => d.fillGrant p.core p.base (t.entry.bound * 0x1000) t.spad) d
    let d := d.modCtx x (fun c => { c with
      saved := ((List.range c.tasks.length).zip c.tasks).map (fun p => freshSave p.1 p.2) })
    ((d.placeNear x).setState x .resident).resumeRestore x

/-- A context gives its places up: charges, records, locks. -/
def Dev.dropPlaces (d : Dev) (x : Nat) : Dev :=
  let c := d.ctx x
  let d := if c.places = [] then d else d.modCtx x (fun c => c.subCharges [c.coreUnits, 0, 0, 0])
  let d := d.modCtx x (fun c => { c with places := [], clusterMap := [] })
  { d with clusters := d.clusters.map (fun e => (e.1, { e.2 with
      queues := e.2.queues.filter (fun q => q.ctx != x)
      streams := e.2.streams.filter (fun g => g.ctx != x)
      locks := tdel e.2.locks x })) }

/-! ## Tasks in slots (R229, R233, R235) -/

/-- The accumulator bytes of a kind of task. -/
def accOf (kind : Nat) (m : Mem) : Mem := m.filter (fun e => kind == 0 || e.1 % 256 / 128 + 1 == kind)
def accRest (kind : Nat) (m : Mem) : Mem := m.filter (fun e => !(kind == 0 || e.1 % 256 / 128 + 1 == kind))

/-- Two accumulator contents without a common address put together. -/
def accJoin (a b : Mem) : Mem := a.foldl (fun m e => tset m e.1 e.2) b

/-- Start and size of the neighbour ranges of a task (R86). -/
def Ctx.nbrRanges (c : Ctx) (t : TaskEntry) (p : TaskPlace) : List (Nat × Nat) :=
  [0, 1, 2, 3].map (fun i =>
    let o := t.nbr.getD i (0, 0)
    let target := (c.image.bind (fun im => im.nbrTask t (i + 1))).bind (fun u =>
      (neighbour p.core (i + 1)).bind (fun k =>
        c.places.find? (fun q => q.core == k && q.slot == (kindSlot u.kind).1)))
    match target with
    | some q => (q.base + o.1, o.2)
    | none => (0, 0))

/-- Bindings of a saved task put beside those of the core's other slot; an index that is taken gives way to a free
one. -/
def joinBindings (have_ mine : Table BindSt) : Table BindSt :=
  mine.foldl (fun m e =>
    let k := if (tget? m e.1).isSome then
        ((List.range 32).find? (fun i => (tget? m i).isNone && (tget? mine i).isNone)).getD e.1
      else e.1
    tset m k e.2) have_

/-- What a task's grant shows in its slot's registers from its placement on (R85, R86, R125). -/
def Ctx.grantSlot (c : Ctx) (t : TaskEntry) (p : TaskPlace) (s : Slot) : Slot :=
  let nb := c.nbrRanges t p
  let g := fun (i : Nat) => nb.getD i (0, 0)
  { s with
    base := p.base, bound := t.bound * 0x1000
    nbase := #v[(g 0).1, (g 1).1, (g 2).1, (g 3).1], nbound := #v[(g 0).2, (g 1).2, (g 2).2, (g 3).2] }

/-- A task takes its slot: its saved state goes back, what its save marks void starts afresh. -/
def Dev.runTask (d : Dev) (x : Nat) (p : TaskPlace) : Dev :=
  let c := d.ctx x
  match c.task p.task with
  | none => d
  | some t =>
    let kind := t.entry.kind
    let v : SavedTask := match c.saved.find? (fun v => v.task == p.task) with
      | some v => if v.void then freshSave p.task t else v
      | none => freshSave p.task t
    let s : Slot := { c.grantSlot t.entry p Slot.empty with
      valid := true, ctx := x, task := p.task, kind := kind, program := t.program, seq := v.seq
      state := if v.ended.isNone then .running else if v.faultStatus = 0 then .idle else .faulted
      accSlots := t.entry.accSlots
      loadws := v.loadws.map (fun l => { l with copied := 0 })
      nextLoadw := (v.loadws.map (fun l => l.id + 1)).foldl max 0
      faultStatus := v.faultStatus, faultDesc := v.faultDesc, stopped := v.ended.isSome && v.faultStatus != 0
      ended := v.ended, heldApply := v.heldApply }
    let slot : SlotIx := kindSlot kind
    let d := d.modCore p.core (fun k => { (k.setSlot slot s) with
      acc := accJoin v.acc (accRest kind k.acc)
      cells := v.cells.foldl (fun m e => tset m e.1 e.2) k.cells
      bindings := joinBindings k.bindings v.bindings
      ranSince := if k.ranSince.contains x then k.ranSince else x :: k.ranSince
      regionSaved := false })
    d.modCtx x (fun c => c.noteDigest p.task t.digest (repairDigest (d.rnat (coreKey p.core 2 0x104))))

/-- Contexts whose tasks hold the slots that a place needs. -/
def Dev.holders (d : Dev) (p : TaskPlace) (kind : Nat) : List Nat :=
  (d.core p.core).slots.toList.zipIdx.filterMap (fun s =>
    if s.1.valid && (kind == 0 || s.1.kind == 0 || s.2 == p.slot) then some s.1.ctx else none)

def Ctx.kindOf (c : Ctx) (p : TaskPlace) : Nat := ((c.task p.task).map (fun t => t.entry.kind)).getD 0

/-- A change of a core's split setting is staged, and its generation queued or in its apply (R233). -/
def Dev.splitPending (d : Dev) (core : Nat) : Bool :=
  let base := coreKey core 2 0
  (tget? d.apply.shadows (base + 0x10)).isSome
    && (d.apply.queue.any (fun q => q.1 == d.pageGen base)
      || (match d.apply.run with
        | some r => r.pages.contains base
        | none => false))

/-- A core that cannot take a task now though its slots are free: under test or about to be taken for one (R337),
retired, with its split setting about to change (R233), or without room for bindings. -/
def Dev.coreShut (d : Dev) (x : Nat) (p : TaskPlace) : Bool :=
  let k := d.core p.core
  let mine := ((d.ctx x).saved.find? (fun v => v.task == p.task)).map (fun v => v.bindings.length)
  let taken := k.test != .idle && (d.ctxsOn p.core).all (fun y => (d.ctx y).preempting)
  k.test == .running || taken || d.splitPending p.core || d.retired Unit.core p.core || decide (32 < k.bindings.length + mine.getD 0)

/-- The cores of a context whose split setting differs from what its tasks need (R233). -/
def Dev.toSplit (d : Dev) (x : Nat) : List (Nat × Nat) :=
  let c := d.ctx x
  c.places.filterMap (fun p =>
    let want := b2n (c.kindOf p != 0)
    if b2n (d.split p.core) = want then none else some (p.core, want))

/-- The scheduler sets ARRAY.CTL.split by staged apply; its request is one generation for all the cores. -/
def Dev.requestSplit (d : Dev) (cores : List (Nat × Nat)) : Dev :=
  let todo := cores.filter (fun p => d.pageState (coreKey p.1 2 0) == 0 && d.pageGen (coreKey p.1 2 0) == 0)
  if todo = [] then d
  else
    let g := d.ownGen
    let d := todo.foldl (fun d p =>
      let base := coreKey p.1 2 0
      let v := d.rnat (base + 0x10) / 2 * 2 + p.2
      (d.openGen base g.1).stageValue base (base + 0x10) (BitVec.ofNat 32 v)) g.2
    d.requestApply g.1 .controller

/-- Every task of a RESIDENT context takes its slot (R229); ways that its tasks had left are locked again. -/
def Dev.runCtx (d : Dev) (x : Nat) : Dev :=
  let d := (d.unlocked x).foldl (fun d k => d.lockWays x k) d
  let d := (d.ctx x).places.foldl (fun d p => d.runTask x p) d
  let d := d.modCtx x (fun c => { c with
    places := c.places.map (fun p => { p with running := true }), quantumOver := false })
  d.setState x .running

/-- Step 3 of R234 for a placed context: it runs where its cores are free, or displaces their holders. -/
def Dev.tryRun (d : Dev) (x : Nat) : Dev :=
  let c := d.ctx x
  let hs := (c.places.flatMap (fun p => d.holders p (c.kindOf p))).dedup
  if c.places.any (d.coreShut x) || !(d.waysFree x) then d
  else if hs = [] then
    let cs := d.toSplit x
    if cs = [] then d.runCtx x else d.requestSplit cs
  else if hs.all (fun h =>
      let k := d.ctx h
      k.state == .blocked || decide (c.prio < k.prio) || (k.prio == c.prio && k.quantumOver)) then
    hs.foldl Dev.preemptCtx d
  else d

/-! ## Eviction (R244) -/

/-- An open scratchpad window without a spill address pins its context. -/
def Dev.pinned (d : Dev) (x : Nat) : Bool :=
  d.windows.any (fun w => w.2.state == .open && w.2.body.owner == x && w.2.body.target == 1
    && w.2.body.spill == 0xFFFFFFFFFFFFFFFF)

/-- A list in ascending order of a key; equal keys keep their order. -/
def insertBy {α : Type} (key : α → Nat) (a : α) : List α → List α
  | [] => [a]
  | b :: r => if key a < key b then a :: b :: r else b :: insertBy key a r
def sortBy {α : Type} (key : α → Nat) (xs : List α) : List α := xs.foldl (fun r a => insertBy key a r) []

/-- Contexts that may be swapped out for x, by the sequence of their last change: idle RESIDENT ones of a lower class,
and BLOCKED ones of any class. -/
def Dev.evictable (d : Dev) (x : Nat) : List Nat × List Nat :=
  let c := d.ctx x
  let ok := fun (e : Nat × Ctx) => e.1 != x && e.2.places != [] && !e.2.swapping && !(d.pinned e.1)
  let order := fun (es : List (Nat × Ctx)) => (sortBy (fun (e : Nat × Ctx) => e.2.since) es).map (·.1)
  (order (d.ctxs.filter (fun e => ok e && e.2.state == .resident && decide (c.prio < e.2.prio) && !e.2.active)),
   order (d.ctxs.filter (fun e => ok e && e.2.state == .blocked)))

/-- Contexts whose grants stand where places of a context would lie. -/
def Dev.inWay (d : Dev) (x : Nat) (ps : List TaskPlace) : List Nat :=
  (ps.flatMap (fun p =>
    let n := (((d.ctx x).task p.task).map (fun t => t.entry.bound * 0x1000)).getD 0
    ((d.tenants p.core).filter (fun u => meets (p.base, n) u.2.2)).map (·.1))).dedup

/-- The context that R244 chooses to make T0 space for x: the needed cores are those of a placement that lacks nothing
but the space that such contexts hold. Step 1 takes the longest idle one that stands in the way; step 2, where every
context resident on those cores is BLOCKED, the one BLOCKED longest. -/
def Dev.victim (d : Dev) (x : Nat) : Option Nat :=
  let e := d.evictable x
  match (d.placement e.1 x).or (d.placement (e.1 ++ e.2) x) with
  | none => none
  | some m =>
    let there := d.inWay x m.2
    let onCores := (m.2.flatMap (fun p => (d.tenants p.core).map (·.1))).dedup
    match e.1.find? there.contains with
    | some v => some v
    | none => if onCores.all (fun y => (d.ctx y).state == .blocked) then e.2.find? there.contains else none

/-- A swap out begins; tasks that still hold slots are pre-empted first. -/
def Dev.evict (d : Dev) (v : Nat) : Dev :=
  if (d.slotsOf v).isEmpty then d.modCtx v (fun c => { c with swapping := true }) else d.preemptCtx v

/-- What follows where no placement is found: the pool's event, or the swap out that makes room, one at a time. -/
def Dev.makeRoom (d : Dev) (x : Nat) : Dev :=
  if d.poolLow x then
    if (d.ctx x).poolPosted then d
    else (d.modCtx x (fun c => { c with poolPosted := true })).ctxEvent x Code.poolExhausted 0 []
  else if d.ctxs.any (fun e => e.2.swapping) then d
  else
    match d.victim x with
    | some v => d.evict v
    | none => d

/-- A placement would exceed t0_quota (R205): the context stays where it is, and the first such failure posts
QUOTA_EXCEEDED as an event of the context, which the spec leaves open (assumption 127). -/
def Dev.overQuota (d : Dev) (x : Nat) : Dev :=
  if (d.ctx x).quotaPosted then d
  else (d.modCtx x (fun c => { c with quotaPosted := true })).ctxEvent x Code.quotaExceeded 0 []

/-- Placement of a LOADED or SWAPPED context; where it fails and a swap makes room, it begins (R231, R242, R244). -/
def Dev.tryPlace (d : Dev) (x : Nat) : Dev :=
  let c := d.ctx x
  if !(c.canCharge [c.coreUnits, 0, 0, 0]) then d.overQuota x
  else
    match d.placement [] x with
    | some m => d.takePlaces x m.1 m.2
    | none => d.makeRoom x

/-! ## Remote waits (R236) -/

/-- The collective records of a context: its bytes, where they can be read (Table 10.9). -/
def Dev.collRec (d : Dev) (x i : Nat) : Option (List Byte) :=
  let r := d.ctxRead x ((d.ctx x).field 0xE0 8 + 32 * i) 32
  if r.1 = 0 then some r.2 else none

/-- Whether a semaphore of a task is incremented by a window or a channel: the notify semaphore of a window, the step
and done semaphores of a collective record. -/
def Dev.remoteSem (d : Dev) (x task sem : Nat) : Bool :=
  d.windows.any (fun w => w.2.state != .free && w.2.body.owner == x && bitAt w.2.body.notify.toNat 15
    && bitsOf w.2.body.notify.toNat 8 0 == task && bitsOf w.2.body.notify.toNat 11 9 == sem)
  || (List.range ((d.ctx x).field 0xE8 2)).any (fun i =>
    match d.collRec x i with
    | none => false
    | some b =>
      let s := leNat ((b.drop 6).take 2)
      leNat ((b.drop 4).take 2) == task && (bitsOf s 8 6 == sem || bitsOf s 11 9 == sem))

/-- The WAIT at a point of a program: semaphore and count. -/
def waitAt (p : List W64) (pc : Nat) : Option (Nat × Nat) :=
  match p[pc]? with
  | none => none
  | some w => if w.toNat / 2 ^ 56 = 2 then some (bitsOf w.toNat 50 48, w.toNat % 2 ^ 16) else none

/-- A task stands at a remote WAIT that its semaphore does not yet satisfy. -/
def Dev.remoteOpen (d : Dev) (x task : Nat) (p : List W64) (s : Seq) : Bool :=
  match waitAt p s.pc with
  | none => false
  | some (sem, n) => d.remoteSem x task sem && decide ((s.sem.toList.getD sem 0).toNat < n)

/-- Every task of a context that has left its slots is in a remote wait. -/
def Dev.savedBlocked (d : Dev) (x : Nat) : Bool :=
  let c := d.ctx x
  c.saved != [] && c.saved.all (fun v => match c.task v.task with
    | some t => v.ended.isNone && d.remoteOpen x v.task t.program v.seq
    | none => false)

/-! ## Scheduling events (R234) -/

/-- A restore or a racking waits for the context's grants (R364). -/
def Ctx.needsGrant (c : Ctx) : Bool := c.restoreDue && (c.state == .loaded || c.state == .swapped)

/-- The contexts that a scheduling event serves, in order: class, longest time since last run, number. -/
def Dev.candidates (d : Dev) : List Nat :=
  let es := d.ctxs.filter (fun e =>
    (e.2.state == .resident || e.2.state == .swapped || e.2.state == .loaded) && !e.2.swapping
      && ((e.2.active && !e.2.halted) || e.2.needsGrant)
      && !(e.2.state == .swapped && d.savedBlocked e.1 && !e.2.needsGrant))
  (sortBy (fun (e : Nat × Ctx) => e.2.prio) (sortBy (fun (e : Nat × Ctx) => e.2.lastRun) es)).map (·.1)

/-- What a scheduling event has done so far: the device, the cores kept for contexts that wait for them, and whether a
runnable context could not be placed. -/
structure Served where
  dev : Dev
  kept : List Nat
  deferred : Bool

/-- One candidate served; the cores that it waits for are kept from those after it. -/
def Dev.serve (p : Served) (x : Nat) : Served :=
  let d := p.dev
  let d := if (d.ctx x).state == .resident then d else d.tryPlace x
  let c := d.ctx x
  let p := { p with dev := d, deferred := p.deferred || c.places.isEmpty }
  if c.state != .resident || !c.active || c.halted then p
  else if c.places.any (fun q => p.kept.contains q.core) then p
  else
    let d := d.tryRun x
    { p with dev := d, kept := if (d.ctx x).state == .running then p.kept else p.kept ++ c.places.map (·.core) }

/-- A scheduling event (R234); one at which a runnable context could not be placed is counted once (Table 8.6). The
scheduler works on a READY device only: before, it has no context to serve, and after a DEVICE-class error every context
has stopped (R329). -/
def Dev.schedule (d : Dev) : Dev :=
  if d.sec.devState ≠ .ready then d
  else
    let r := d.candidates.foldl Dev.serve { dev := d.noteEvent (islMgmt 0), kept := [], deferred := false }
    r.dev.count (schedKey 0x828) (b2n r.deferred)

/-- Every task of a context, in its slot or away, is in a remote wait with nothing queued or running. -/
def Dev.allRemote (d : Dev) (x : Nat) : Bool :=
  let c := d.ctx x
  let ss := d.slotsOf x
  let held := ss.map (fun s => (d.slot s.1 s.2).task)
  ss.all (fun s =>
      let k := d.slot s.1 s.2
      !k.stopped && k.ended.isNone && !k.busy && d.remoteOpen x k.task k.program k.seq)
    && (c.saved.filter (fun v => !(held.contains v.task))).all (fun v => match c.task v.task with
      | some t => v.ended.isNone && d.remoteOpen x v.task t.program v.seq
      | none => false)

/-- Every task of a running context is in a remote wait: it becomes BLOCKED (Table 8.4). -/
def Dev.checkBlocked (d : Dev) (x : Nat) : Dev :=
  if (d.ctx x).state == .running && !(d.slotsOf x).isEmpty && d.allRemote x then (d.setState x .blocked).schedule else d

/-- A remote semaphore of a task is incremented: in its slot or its saved state. A BLOCKED context is RUNNING again,
or RESIDENT where its tasks had yielded; a swapped one becomes runnable (R236, R243, R298). -/
def Dev.remoteArrive (d : Dev) (x task sem n : Nat) : Dev :=
  let d := d.noteEvent (islMgmt 0)
  let c := d.ctx x
  let d := match c.places.find? (fun p => p.task == task) with
    | some p => d.taskSem x p.core (if p.slot = 0 then 0 else 1) sem n
    | none => d.savedSem x task sem n
  (if c.state == .blocked then d.setState x (if (d.slotsOf x).isEmpty then .resident else .running) else d).schedule

/-! ## Yields (R235 to R239) -/

/-- A point at which a slot may yield: a tile boundary; a remote WAIT right before an ISSUE to engine 0; or, between
gyles, wherever it stands. Nothing of the slot is queued or running. -/
def Dev.yieldable (d : Dev) (core : Nat) (t : SlotIx) : Bool :=
  let s := d.slot core t
  let g := (d.ctx s.ctx).gyle.st
  let remote := match waitAt s.program s.seq.pc with
    | none => false
    | some w => d.remoteSem s.ctx s.task w.1 && (s.setPc (s.seq.pc + 1)).issueEngine == some 0
  !s.busy && (s.atBoundary || remote || s.overrun || s.stopped || g == .idle || g == .held)

/-- The saved state of the task in a slot. -/
def Dev.saveOf (d : Dev) (core : Nat) (t : SlotIx) : SavedTask :=
  let k := d.core core
  let s := d.slot core t
  let mine := fun (i : Nat) => (kindCells s.kind).contains i
  { task := s.task, seq := s.seq, loadws := s.loadws.filter (fun l => !l.consumed), acc := accOf s.kind k.acc
    cells := k.cells.filter (fun e => mine e.1)
    bindings := k.bindings.filter (fun e => bdSlot e.2.cfg == t)
    ended := s.ended, void := s.overrun, heldApply := s.heldApply, spad := []
    faultStatus := s.faultStatus, faultDesc := s.faultDesc }

/-- What a slot shows once its task has yielded: state, position and semaphores of the save (R124). -/
def Slot.yieldedOf (s : Slot) : Slot := { Slot.empty with ctx := s.ctx, task := s.task, seq := s.seq, state := .yielded }

/-- A slot emptied: its accumulator grant, cells and bindings with it. -/
def Dev.clearSlot (d : Dev) (core : Nat) (t : SlotIx) : Dev :=
  let s := d.slot core t
  let d := d.modCore core (fun k => { (k.setSlot t Slot.empty) with
    acc := accRest s.kind k.acc
    cells := k.cells.filter (fun e => !((kindCells s.kind).contains e.1))
    bindings := k.bindings.filter (fun e => bdSlot e.2.cfg != t) })
  { d with moves := tdel d.moves (moveKey core t) }

/-- A context's tasks have left a cluster: its unit stops fetching, the locked ways return to the pool, and what the
streams held is dropped, to be fetched again from the lowest unreleased sequence (R217). -/
def Dev.leaveCluster (d : Dev) (x j : Nat) : Dev :=
  if d.onCluster j x then d
  else
    d.modCluster j (fun c => { c with
      locks := tdel c.locks x
      streams := c.streams.map (fun g => if g.ctx = x then { g with held := [], next := g.low } else g) })

/-- The last task of a context has left its slot. -/
def Dev.allYielded (d : Dev) (x : Nat) : Dev :=
  let d := d.modCtx x (fun c => { c with
    preempting := false, lastRun := d.seqOf (islMgmt 0)
    places := c.places.map (fun p => { p with running := false }) })
  if (d.ctx x).state == .running then d.setState x .resident else d

def slotYieldEff (core : Nat) (t : SlotIx) (d : Dev) : Dev :=
  let s := d.slot core t
  let x := s.ctx
  if !(s.valid && s.preempt && d.yieldable core t) || (d.ctx x).state == .killed then d
  else
    let d := d.returnAll core t
    let v := d.saveOf core t
    let d := (d.modCtx x (fun c => { c with
      saved := c.saved.filter (fun o => o.task != v.task) ++ [v]
      places := c.places.map (fun p => if p.task = v.task then { p with running := false } else p) })).clearSlot core t
    let d := (d.modSlot core t (fun _ => s.yieldedOf)).leaveCluster x (core / 16)
    let d := (d.modCore core (fun k => { k with regionSaved := true })).count (coreKey core 1 0x810) 1
    let d := (d.noteEvent (islMgmt 0)).raise (schedKey 0x808) (d.cycleOf (islMgmt 0) - (d.ctx x).preemptAt)
    (if (d.slotsOf x).isEmpty then d.allYielded x else d).schedule

/-- The request reaches the slots of a context on a core. -/
def preemptRequestEff (core x : Nat) (d : Dev) : Dev :=
  if !(d.ctx x).preempting then d
  else
    ([0, 1] : List SlotIx).foldl (fun d t =>
      let s := d.slot core t
      if s.valid && s.ctx == x then d.modSlot core t (fun s => { s with preempt := true }) else d) d

/-- PREEMPT_LIMIT has passed and the slot has not yielded (R239). -/
def preemptOverrunEff (core : Nat) (t : SlotIx) (d : Dev) : Dev :=
  let s := d.slot core t
  let x := s.ctx
  if !s.valid || !(d.ctx x).preempting || s.overrun then d
  else
    let d := d.modSlot core t (fun s => { s with overrun := true, preempt := true })
    let d := (d.abortCause x 5 Code.preemptOverrun (srcCore core)).modCtx x (fun c => { c with halted := true })
    ((d.errFire (schedKey 0) 0 (x * 2 ^ 16)).count (schedKey 0x830) 1).ctxEvent x Code.preemptOverrun 0 []

/-- A parity error in the context table (Tables 8.6, 11.2 and 11.4): captured, and an error of the device. -/
def Dev.contextTableBad (d : Dev) (x : Nat) : Dev :=
  (d.errFire (schedKey 0) 2 (2 + x * 2 ^ 16)).deviceError
    { cls := 3, detector := 10, unitKind := Unit.island, unit := islMgmt 0, island := islMgmt 0, ctx := x
      status := Code.errDevice, address := 0, flags := 0, page := schedKey 0 }

/-- A context's quantum has passed (R234). `tableBad`: its entry of the context table fails its parity. -/
def quantumExpiryEff (x : Nat) (tableBad : Bool) (d : Dev) : Dev :=
  if tableBad then d.contextTableBad x
  else if (d.ctx x).state == .running then (d.modCtx x (fun c => { c with quantumOver := true })).schedule
  else d

/-! ## Swaps (R241) -/

/-- Every scratchpad window of a context is redirected to its spill area (R300). -/
def Dev.redirectedAll (d : Dev) (x : Nat) : Bool :=
  d.windows.all (fun w => w.2.state != .open || w.2.body.owner != x || w.2.body.target != 1 || w.2.redirected)

/-- The saved tasks with their grants' contents, by offset in the grant. -/
def Dev.saveGrants (d : Dev) (x : Nat) : List SavedTask :=
  let c := d.ctx x
  c.saved.map (fun v =>
    match c.places.find? (fun p => p.task == v.task) with
    | none => v
    | some p =>
      let n := ((c.task p.task).map (fun t => t.entry.bound * 0x1000)).getD 0
      let bytes : Mem := ((d.core p.core).spad.filter (fun e => p.base ≤ e.1 && e.1 < p.base + n)).map
        (fun e => (e.1 - p.base, e.2))
      { v with spad := bytes })

/-- The host range of swaps to T2 can hold n bytes: it lies in a registered range of the context's function. -/
def Dev.swapHostOk (d : Dev) (x n : Nat) : Bool :=
  let c := d.ctx x
  let a := c.field 0x60 8
  let size := c.field 0x68 8
  decide (n ≤ size) && d.host.ranges.any (fun r =>
    r.2.fn == c.fn && decide (r.2.base ≤ a) && decide (a + size ≤ r.2.base + r.2.size))

def swapOutCompleteEff (x : Nat) (d : Dev) : Dev :=
  let c := d.ctx x
  if !c.swapping || !(c.state == .resident || c.state == .blocked) || !(d.slotsOf x).isEmpty
      || !(d.redirectedAll x) then d
  else
    let fail := fun (d : Dev) =>
      (((d.modCtx x (fun c => { c with swapping := false })).errFire (schedKey 0) 1 (1 + x * 2 ^ 16)).ctxEvent x
        Code.swapSpace 0 []).schedule
    let room := if c.swapsToHost then
        (if d.swapHostOk x c.swapBytes then
          let rest : Mem := tcut d.hostMem (c.field 0x60 8) (c.field 0x60 8 + c.field 0x68 8)
          some (Dev.keepSwap { d with hostMem := rest } x 0)
        else none)
      else d.takeSwap x (pagesOf c.swapBytes - (tget d.swapUsed x []).length)
    match room with
    | none => fail d
    | some d =>
      let saved := d.saveGrants x
      let mine := d.clusters.map (·.2)
      let qs := mine.flatMap (fun k => k.queues.filter (fun q => q.ctx == x))
      let ss := mine.flatMap (fun k => k.streams.filter (fun g => g.ctx == x))
      let d := (d.dropPlaces x).modCtx x (fun c => { c with
        saved := saved, savedQueues := qs, savedStreams := ss, swapping := false })
      ((d.setState x .swapped).count (schedKey 0x810) 1).schedule

def swapInCompleteEff (x : Nat) (d : Dev) : Dev :=
  let c := d.ctx x
  let tested := c.places.any (fun p => (d.core p.core).test == .running)
  if !c.swapping || c.state != .swapped || c.places = [] || tested then d
  else
    let d := c.places.foldl (fun d p =>
      match c.task p.task, c.saved.find? (fun v => v.task == p.task) with
      | some t, some v =>
        d.modCore p.core (fun k =>
          let bytes : Mem := v.spad.foldl (fun m e => mwrite m (p.base + e.1) e.2)
            (mclear k.spad p.base (t.entry.bound * 0x1000))
          { k with spad := bytes })
      | _, _ => d) d
    let d := (d.keepSwap x (pagesOf c.yieldBytes)).modCtx x (fun c => { c with
      swapping := false, saved := c.saved.map (fun v => { v with spad := [] }) })
    let d := (d.setState x (if d.savedBlocked x then .blocked else .resident)).count (schedKey 0x818) 1
    (d.resumeRestore x).schedule

/-- The answer to a host command, which is a scheduling event whatever it does (R234). -/
def onCmd (s : State) (f : Dev → Dev) : Host.Outcome State Fault Refusal := onDev s (fun d => (f d).schedule)

def execSlotYield (core : CoreId) (slot : SlotIx) (s : State) : Host.Outcome State Fault Refusal :=
  onCore s core.1 (slotYieldEff core.1 slot)
def execPreemptRequest (core : CoreId) (ctx : CtxId) (s : State) : Host.Outcome State Fault Refusal :=
  onCore s core.1 (preemptRequestEff core.1 ctx.1)
def execPreemptOverrun (core : CoreId) (slot : SlotIx) (s : State) : Host.Outcome State Fault Refusal :=
  onCore s core.1 (preemptOverrunEff core.1 slot)
def execQuantumExpiry (ctx : Meeting CtxId Bool) (s : State) : Host.Outcome State Fault Refusal :=
  onDev s (quantumExpiryEff ctx.at_.1 ctx.fault)
def execSwapOutComplete (ctx : CtxId) (s : State) : Host.Outcome State Fault Refusal :=
  onDev s (swapOutCompleteEff ctx.1)
def execSwapInComplete (ctx : CtxId) (s : State) : Host.Outcome State Fault Refusal :=
  onDev s (swapInCompleteEff ctx.1)

end Sys2Proof.Machine
end

