-- ==== Sys2Proof/Machine/ApplyUnit.lean ====
section
/-! DEFINITION. The apply unit: requests, checks, phases, reverts (R449 to R457, R461). -/

namespace Sys2Proof.Machine

/-! ## Pages of a generation -/

/-- Register-window offsets of the pages whose gen is g, ascending. -/
def Dev.pagesUnder (d : Dev) (g : Nat) : List Nat :=
  (d.blk.filter (fun e => e.1 % 0x1000 == 0x30 && e.2.toNat == g && g != 0)).map (fun e => e.1 - 0x30)

/-- A page returns to IDLE with gen 0: its staged values go, and so does the mark of a refused write. -/
def Dev.clearPage (d : Dev) (base : Nat) : Dev :=
  let d := { d with apply := { d.apply with
    staged := d.apply.staged.filter (fun e => e.page != base), shadows := tcut d.apply.shadows base (base + 0x1000) } }
  let d := d.rsetNat (base + 0x30) 0
  (d.rsetNat (base + 0x34) (d.rnat (base + 0x34) / 8 * 8)).stageEvent base

/-- What the page keeps of the apply that named it: last_gen and reverted. -/
def Dev.namePage (d : Dev) (gen : Nat) (reverted : Bool) (base : Nat) : Dev :=
  d.rsetNat (base + 0x34) (gen % 65536 * 65536 + d.rnat (base + 0x34) % 8 + 8 * b2n reverted)

/-- A generation is open no longer, and none of its pages is conflicted. -/
def Dev.closeGen (d : Dev) (gen : Nat) : Dev :=
  { d with apply := { d.apply with conflicted := d.apply.conflicted.filter (fun g => g != gen) } }

/-! ## Requests (R451) -/

def applyRequestEff (gen : Nat) (d : Dev) : Dev :=
  if d.hostUp then d.atBlock (islMgmt 0) (fun d => d.requestApply gen .host) else d

/-- A host generation that is neither queued nor running is discarded. -/
def Dev.discardGen (d : Dev) (gen : Nat) : Dev :=
  let asked := d.apply.queue.any (fun q => q.1 == gen) || (match d.apply.run with
    | some r => r.gen == gen
    | none => false)
  if gen = 0 ∨ 0x8000 ≤ gen ∨ asked then d
  else ((d.pagesUnder gen).foldl Dev.clearPage d).closeGen gen

def applyDiscardEff (gen : Nat) (d : Dev) : Dev :=
  if d.hostUp then d.atBlock (islMgmt 0) (fun d => d.discardGen gen) else d

/-! ## Checks 1 to 5 (Table 16.7) -/

def genRange (gen : Nat) (who : Requester) : Bool :=
  match who with
  | .host => decide (1 ≤ gen ∧ gen < 0x8000)
  | _ => decide (0x8000 ≤ gen)

/-- The staged words of some pages: live key and value. -/
def Dev.stagedWords (d : Dev) (pages : List Nat) : List (Nat × Nat) :=
  (d.apply.shadows.filter (fun e => pages.contains (e.1 / 0x1000 * 0x1000))).map (fun e => (e.1, e.2.toNat))

/-- Staged cell entries of some pages, in the order staged. -/
def Dev.stagedCells (d : Dev) (pages : List Nat) : List StagedEntry :=
  d.apply.staged.filter (fun e => pages.contains e.page)

/-- A staged word names a field of the ARRAY page. -/
def isArrayKey (key off : Nat) : Bool :=
  (match pageOfKey key with
    | some p => p.kind == .array
    | none => false) && key % 0x1000 == off

/-- A staged word lies in its field's range. -/
def wordGood (key v : Nat) : Bool :=
  if key = mempoolKey 0x100 then decide (4 ≤ v ∧ v ≤ 256 ∧ v % 4 = 0)
  else if key = schedKey 0x108 then decide (4 ≤ v ∧ v ≤ 128 ∧ v % 4 = 0)
  else if key = fabricKey 0x100 then decide (1 ≤ v ∧ v < 0xFFFFFF)
  else if isArrayKey key 0x10 then decide (v ≤ 1)
  else true

/-- A staged entry has a place in its table and no reserved value, whatever region it lies in. -/
def entryGood (e : StagedEntry) : Bool :=
  let core := coreOfPage e.page
  let around := [1, 2, 3, 4].filterMap (fun p => cellNear core e.cell p)
  match e.table with
  | 0 => decide (e.index < 64) && firingGood around core e.cell e.index e.value
  | 1 => decide (e.index < 32) && routeGood around core e.cell e.index (e.value.setWidth 32)
      && e.value.toNat / 2 ^ 32 == 0
  | 2 => decide (e.index < 32) && (!(bdValid e.value)
      || (decide (bdType e.value ≤ 3) && bitsOf e.value.toNat 31 30 == 0 && e.value.toNat / 2 ^ 88 == 0))
  | _ => decide (e.index < 64)

/-! ## Check 6: cells (R154, R164, R176) -/

/-- The cell tables of a task slot with staged entries in place. -/
def Dev.slotCfg (d : Dev) (es : List StagedEntry) (core : Nat) (t : SlotIx) : CellCfg :=
  let page := coreKey core 12 0
  let cells := d.slotCells core t
  let put := fun {α : Type} (table cell : Nat) (f : W128 → α) (m : Table α) =>
    (es.filter (fun e => e.page == page && e.table == table && e.cell == cell)).foldl (fun m e => tset m e.index (f e.value)) m
  let binds : Table W128 := (es.filter (fun e => e.page == page && e.table == 2)).foldl
    (fun m e => tset m e.index e.value) ((d.core core).bindings.map (fun b => (b.1, b.2.cfg)))
  { firing := cells.flatMap (fun i => (put 0 i (fun v => v) (d.cell core i).firing).map (fun e => (i, e.1, e.2)))
    routes := cells.flatMap (fun i => (put 1 i (fun v => v.setWidth 32) (d.cell core i).routes).map (fun e => (i, e.1, e.2)))
    bindings := binds.filter (fun b => bdSlot b.2 == t)
    regs := [] }

/-- The tasks of a running context with their cell tables as they are with staged entries in place, each at the
core that holds it. -/
def Dev.liveTasks (d : Dev) (x : Nat) (es : List StagedEntry) : List TaskImage :=
  (d.slotsOf x).map (fun p =>
    let s := d.slot p.1 p.2
    let entry : TaskEntry :=
      { cluster := p.1 / 16, core := p.1 % 16, kind := s.kind, bound := s.bound / 0x1000, accSlots := s.accSlots, nbr := [] }
    { entry := entry, program := s.program, spad := [], cells := d.slotCfg es p.1 p.2, digest := 0 })

/-- An image that holds only tasks. -/
def imageOf (ts : List TaskImage) : Image :=
  { headerGood := true, size := 0, dir := [], tasks := ts, queues := [], streams := [], allocs := [], report := [],
    reportStreams := [], digest := 0 }

/-- Epochs of the valid entries, routes and bindings of an image that name a stream. -/
def imageEpochs (i : Image) (s : Nat) : List Nat :=
  (i.firings.filter (fun e => (feStreams e.2.2).contains s)).map (fun e => feEpoch e.2.2)
  ++ (i.routes.filter (fun r => reStream r.2.2 == s)).map (fun r => reEpoch r.2.2)
  ++ (i.binds.filter (fun b => bdStream b.2.2 == s)).map (fun b => bdEpoch b.2.2)

/-- Affected streams move to their next epoch (R176); a stream that nothing named before has no epoch to follow. -/
def epochsGood (old new_ : Image) (affected : List Nat) : Bool :=
  affected.all (fun s =>
    match imageEpochs old s with
    | [] => true
    | e :: _ => (imageEpochs new_ s).all (fun f => f == (e + 1) % 4))

/-- The staged cell entries of a context pass R154, R164 and R176. -/
def Dev.cellsGood (d : Dev) (es : List StagedEntry) (x : Nat) : Bool :=
  let mine := es.filter (fun e => d.entryOwner e == some x)
  let old := imageOf (d.liveTasks x [])
  let new_ := imageOf (d.liveTasks x mine)
  let affected := (mine.flatMap (fun e => d.changedStreams (coreOfPage e.page) e)).dedup
  new_.cellStatus.1 == 0 && epochsGood old new_ affected

/-- Every named cell belongs to a context, and each context's entries pass. -/
def Dev.cellRule (d : Dev) (es : List StagedEntry) : Bool :=
  es.all (fun e => (d.entryOwner e).isSome) && (es.filterMap d.entryOwner).dedup.all (d.cellsGood es)

/-! ## Check 6: reserves, split, repair and identifier (Table 16.8, R211) -/

/-- The device with the staged reserves in force. -/
def Dev.withReserves (d : Dev) (ws : List (Nat × Nat)) : Dev :=
  (ws.filter (fun w => w.1 == mempoolKey 0x100 || w.1 == schedKey 0x108)).foldl (fun d w => d.rsetNat w.1 w.2) d

/-- Frames of a die from a up to b. -/
def frameSpan (a b : Nat) : List Nat := (List.range (b - a)).map (· + a)

/-- R211 on one die: frames that leave the cask reservation hold no cask, those that join it are free. -/
def Dev.caskMoveGood (d n : Dev) (die : Nat) : Bool :=
  let p := d.poolOf die
  let old := d.poolFrames.getD die 0
  let new_ := n.poolFrames.getD die 0
  let saves := (d.swapUsed.flatMap (·.2)).map (fun f => (f / 65536, f % 65536))
  (frameSpan old new_).all (fun f => !(p.cask.contains f))
    && (frameSpan new_ old).all (fun f => decide (storeFrames die + f < p.zeroed) && !(p.used.contains f)
      && !(p.toZero.contains f) && !(saves.contains (die, f)))

/-- Save areas stay in the swap reserve. -/
def Dev.swapMoveGood (d n : Dev) : Bool :=
  (d.swapUsed.flatMap (·.2)).all (fun f =>
    let die := f / 65536
    let lo := n.openFrames die
    decide (lo ≤ f % 65536 ∧ f % 65536 < lo + n.swapShares.getD die 0))

/-- The pool that results holds every frame in use. -/
def Dev.poolHolds (d n : Dev) : Bool :=
  (List.range 4).all (fun die => (d.poolOf die).used.all (fun f => decide (f < n.openFrames die)))

/-- A staged word passes the rule of its field. -/
def Dev.wordRule (d n : Dev) (who : Requester) (w : Nat × Nat) : Bool :=
  let core := coreOfPage (w.1 / 0x1000 * 0x1000)
  if w.1 = mempoolKey 0x100 then (List.range 4).all (d.caskMoveGood n) && d.poolHolds n
  else if w.1 = schedKey 0x108 then d.swapMoveGood n && d.poolHolds n
  else if w.1 = fabricKey 0x100 then
    d.windows.all (fun e => e.2.state == .free) && d.chans.all (fun e => e.2.run.isNone)
  else if isArrayKey w.1 0x10 then d.ctxsOn core == []
  else if isArrayKey w.1 0x104 then who == .supervisor (core / 128) && w.2 == d.mergedRepair core
  else true

/-- The first check of R452 that a request fails. -/
def Dev.applyCheck (d : Dev) (gen : Nat) (who : Requester) : W16 :=
  let pages := d.pagesUnder gen
  let staged := pages.filter (fun p => (d.stagedWords [p]).length + (d.stagedCells [p]).length != 0)
  let ws := d.stagedWords pages
  let es := d.stagedCells pages
  if !(genRange gen who) then Code.applyGenInvalid
  else if staged = [] then Code.applyEmpty
  else if d.apply.conflicted.contains gen then Code.applyConflict
  else if who = .host ∧ ws.any (fun w => isArrayKey w.1 0x10 || isArrayKey w.1 0x104) then Code.applyOwner
  else if !(ws.all (fun w => wordGood w.1 w.2)) || !(es.all entryGood) then Code.applyFieldInvalid
  else if !(ws.all (d.wordRule (d.withReserves ws) who)) || !(d.cellRule es) then Code.applyInconsistent
  else 0

/-- The CASK_RESERVE rule of a generation fails. -/
def Dev.reserveRefused (d : Dev) (gen : Nat) (who : Requester) : Bool :=
  let ws := d.stagedWords (d.pagesUnder gen)
  ws.any (fun w => w.1 == mempoolKey 0x100 && !(d.wordRule (d.withReserves ws) who w))

/-! ## Revert (R456) -/

/-- An apply ends without effect: ABORT goes to every island that received PREPARE, the staged values are
discarded, and RESULT, FAIL_ISLAND and the event carry the code. -/
def Dev.applyRevert (d : Dev) (gen : Nat) (status : W16) (fail : Option Nat) : Dev :=
  let prepared := match d.apply.run with
    | some r => r.prepared
    | none => []
  let d := { d with apply := { d.apply with run := none, aborting := d.apply.aborting ++ prepared } }
  let d := (d.pagesUnder gen).foldl (fun d p => (d.clearPage p).namePage gen true p) d
  let d := (d.closeGen gen).count (applyKey 0x808) 1
  let d := match fail with
    | some i => d.rsetNat (applyKey 0x118) i
    | none => d
  let d := d.errFire (applyKey 0) 0 (status.toNat + 2 ^ 16 * (gen % 2 ^ 15))
  d.applyResult gen status

/-! ## Taking a request (R452, R453) -/

/-- The islands that host some pages, ascending without repeats. -/
def pageIslands (pages : List Nat) : List Nat :=
  allIslands.filter (fun i => (pages.map islandOfPage).contains i)

def applyTakeEff (d : Dev) : Dev :=
  match d.apply.run, d.apply.queue with
  | none, (gen, who) :: rest =>
    let d := { d with apply := { d.apply with queue := rest } }
    let pages := d.pagesUnder gen
    let status := d.applyCheck gen who
    let refused := status == Code.applyInconsistent && d.reserveRefused gen who
    let d := pages.foldl (fun d p => (d.setPageState p 2).stageEvent p) d
    if status ≠ 0 then
      let d := if refused then d.errFire (mempoolKey 0) 0 0 else d
      d.applyRevert gen status none
    else
      let r : ApplyRun :=
        { gen := gen, who := who, phase := .prepare, islands := pageIslands pages, prepared := [], failing := [],
          ready := [], swapped := [], done := [], pages := pages, startCycle := d.cycleOf (islMgmt 0) }
      { d with apply := { d.apply with run := some r } }
  | _, _ => d

/-! ## Prepare (R454, R455) -/

def Dev.setRun (d : Dev) (r : ApplyRun) : Dev := { d with apply := { d.apply with run := some r } }

/-- Cores whose page of an index is under the apply, in an island. -/
def runCores (r : ApplyRun) (isl ix : Nat) : List Nat :=
  (r.pages.map coreOfPage).dedup.filter (fun c => islOfCore c == isl && r.pages.contains (coreKey c ix 0))

/-- A slot of a core holds its next ISSUE to engine 0, or no longer. -/
def Dev.holdSlots (d : Dev) (hold : Bool) (core : Nat) : Dev :=
  (d.modSlot core 0 (fun s => { s with heldApply := hold })).modSlot core 1 (fun s => { s with heldApply := hold })

def applyPrepareEff (isl : Nat) (d : Dev) : Dev :=
  match d.apply.run with
  | none => d
  | some r =>
    if r.phase != .prepare || !(r.islands.contains isl) || r.prepared.contains isl
        || !(d.routeOpen (islMgmt 0) isl) then d
    else
      let d := d.carry (islMgmt 0) isl
      ((runCores r isl 2).foldl (Dev.holdSlots · true) d).setRun { r with prepared := r.prepared ++ [isl] }

/-- Neither half of a core's array holds a tile. -/
def Dev.arrayFree (d : Dev) (core : Nat) : Bool :=
  (d.core core).slots.toList.all (fun s => s.tile.isNone && s.descs.all (fun q => q.engine != 0))

/-- No token of a context's affected streams is in a queue or buffer of its cells. -/
def Dev.drained (d : Dev) (x : Nat) : Bool :=
  let a := d.affected x
  (d.slotsOf x).all (fun p => (d.slotCells p.1 p.2).all (fun i =>
    let c := d.cell p.1 i
    (c.queues.toList ++ c.inbound.toList ++ [c.outbound]).all (fun q => q.all (fun k => !(a.contains k.stream)))))

/-- The safe point of an island (Table 16.10). -/
def Dev.safePoint (d : Dev) (r : ApplyRun) (isl : Nat) : Bool :=
  (runCores r isl 2).all d.arrayFree
    && (runCores r isl 12).all (fun c => (((d.stagedCells [coreKey c 12 0]).filterMap d.entryOwner).dedup).all d.drained)

/-- The unit commits once every READY is in: the epoch rises and SWAP goes out. -/
def Dev.applyCommit (d : Dev) (r : ApplyRun) : Dev :=
  let d := d.rsetNat (applyKey 0x10C) (d.rnat (applyKey 0x10C) + 1)
  ((d.noteEvent (islMgmt 0)).count (applyKey 0x800) 1).setRun { r with phase := .swap }

def applyReadyEff (isl : Nat) (d : Dev) : Dev :=
  match d.apply.run with
  | none => d
  | some r =>
    if r.phase != .prepare || !(r.prepared.contains isl) || r.ready.contains isl || r.failing.contains isl
        || !(d.safePoint r isl) || !(d.routeOpen isl (islMgmt 0)) then d
    else
      let d := d.carry isl (islMgmt 0)
      let d := (runCores r isl 12).foldl (fun d c => d.modCore c (fun k => { k with swapPending := true })) d
      let r := { r with ready := r.ready ++ [isl] }
      if r.islands.all r.ready.contains then d.applyCommit r else d.setRun r

/-! ## Swap (R453, R74) -/

/-- A staged word in force, at its block and in the mirror. -/
def Dev.putWord (d : Dev) (w : Nat × Nat) : Dev :=
  let d := d.rsetNat w.1 w.2
  { d with mirror := tset d.mirror w.1 (BitVec.ofNat 32 w.2) }

/-- A cell table entry in force; written afresh, it is stopped no longer. Initial registers are those of the context's image. -/
def Dev.putEntry (d : Dev) (e : StagedEntry) : Dev :=
  let core := coreOfPage e.page
  match e.table with
  | 0 => d.modCell core e.cell (fun c => { c with
      firing := tset c.firing e.index e.value, stoppedEntries := c.stoppedEntries.filter (· != e.index) })
  | 1 => d.modCell core e.cell (fun c => { c with
      routes := tset c.routes e.index (e.value.setWidth 32), stoppedRoutes := c.stoppedRoutes.filter (· != e.index) })
  | 2 => d.setBinding core e.index { d.binding core e.index with cfg := e.value, stopped := false }
  | _ =>
    match d.entryOwner e with
    | none => d
    | some x =>
      let task := (d.slot core (d.cellSlot core e.cell)).task
      let put := fun (t : TaskImage) => { t with cells := { t.cells with
        regs := t.cells.regs.filter (fun r => r.1 != e.cell || r.2.1 != e.index) ++ [(e.cell, e.index, e.value)] } }
      d.modCtx x (fun c => { c with image := c.image.map (fun i => { i with
        tasks := i.tasks.zipIdx.map (fun t => if t.2 = task then put t.1 else t.1) }) })

/-- The repair map of a core changed: the EXACT figures of tasks whose images carry another digest are stale (R74,
R185). -/
def Dev.markStale (d : Dev) (core : Nat) : Dev :=
  ([0, 1] : List SlotIx).foldl (fun d t =>
    let s := d.slot core t
    match (d.ctx s.ctx).task s.task with
    | some i =>
      if s.valid then
        d.modCtx s.ctx (fun c => c.noteDigest s.task i.digest (repairDigest (d.rnat (coreKey core 2 0x104))))
      else d
    | none => d) d

/-- The hold of an island's slots, and of tasks that yielded under it, ends. -/
def Dev.endHold (d : Dev) (isl : Nat) : Dev :=
  let cores := (List.range 512).filter (fun c => islOfCore c == isl)
  let d := (cores.filter (fun c => (d.core c).slots.toList.any (fun s => s.heldApply))).foldl (Dev.holdSlots · false) d
  { d with ctxs := d.ctxs.map (fun (e : Nat × Ctx) => (e.1, { e.2 with
      saved := e.2.saved.map (fun v => { v with heldApply := false }) })) }

def applySwapEff (isl : Nat) (d : Dev) : Dev :=
  match d.apply.run with
  | none => d
  | some r =>
    if r.phase != .swap || !(r.islands.contains isl) || r.swapped.contains isl
        || !(d.routeOpen (islMgmt 0) isl) then d
    else
      let pages := r.pages.filter (fun p => islandOfPage p == isl)
      let d := d.carry (islMgmt 0) isl
      let d := (d.stagedWords pages).foldl Dev.putWord d
      let d := (d.stagedCells pages).foldl Dev.putEntry d
      let d := (runCores r isl 2).foldl Dev.markStale d
      let d := (runCores r isl 12).foldl (fun d c => d.modCore c (fun k => { k with swapPending := false })) d
      let d := (d.endHold isl).count (dieKey (isl / 256) 0x800) 1
      d.setRun { r with swapped := r.swapped ++ [isl] }

/-! ## Completion -/

def Dev.applyComplete (d : Dev) (r : ApplyRun) : Dev :=
  let d := { d with apply := { d.apply with run := none } }
  let d := (d.pagesUnder r.gen).foldl (fun d p => (d.clearPage p).namePage r.gen false p) d
  let d := (d.closeGen r.gen).raise (applyKey 0x828) (d.cycleOf (islMgmt 0) - r.startCycle)
  (d.applyResult r.gen 0).schedule

def applyDoneEff (isl : Nat) (d : Dev) : Dev :=
  match d.apply.run with
  | none => d
  | some r =>
    if !(r.swapped.contains isl) || r.done.contains isl || !(d.routeOpen isl (islMgmt 0)) then d
    else
      let d := d.carry isl (islMgmt 0)
      let r := { r with done := r.done ++ [isl] }
      if r.islands.all r.done.contains then d.applyComplete r else d.setRun r

/-! ## Timeouts and aborts (R456, R457) -/

/-- A cell island that has not drained sends DRAIN_FAIL; one that drains as its timeout expires sends READY. -/
def drainTimeoutEff (isl : Nat) (d : Dev) : Dev :=
  match d.apply.run with
  | none => d
  | some r =>
    if r.phase != .prepare || !(r.prepared.contains isl) || r.ready.contains isl || runCores r isl 12 == []
        || d.safePoint r isl then d
    else d.setRun { r with failing := r.failing ++ [isl] }

def drainFailEff (isl : Nat) (d : Dev) : Dev :=
  match d.apply.run with
  | none => d
  | some r =>
    if r.phase != .prepare || !(r.failing.contains isl) || !(d.routeOpen isl (islMgmt 0)) then d
    else
      let d := (d.carry isl (islMgmt 0)).count (applyKey 0x810) 1
      d.applyRevert r.gen Code.stageDrainTimeout (some isl)

def applyTimeoutEff (d : Dev) : Dev :=
  match d.apply.run with
  | none => d
  | some r =>
    if r.phase != .prepare then d
    else d.applyRevert r.gen Code.applyTimeout (r.islands.find? (fun i => !(r.ready.contains i)))

def applyAbortEff (isl : Nat) (d : Dev) : Dev :=
  if !(d.apply.aborting.contains isl) || !(d.routeOpen (islMgmt 0) isl) then d
  else
    let d := d.carry (islMgmt 0) isl
    let d := { d with apply := { d.apply with aborting := dropFirst (fun i => i == isl) d.apply.aborting } }
    let cores := (List.range 512).filter (fun c => islOfCore c == isl && (d.core c).swapPending)
    (cores.foldl (fun d c => d.modCore c (fun k => { k with swapPending := false })) d).endHold isl

/-- An affected island is reset or loses a crossing: the apply ends (R457). -/
def Dev.applyLost (d : Dev) (isl : Nat) : Dev :=
  match d.apply.run with
  | none => d
  | some r =>
    if !(r.islands.contains isl) then d
    else
      let d := { d with apply := { d.apply with run := none } }
      let d := d.rsetNat (applyKey 0x118) isl
      let d := d.errFire (applyKey 0) 1 (Code.applyIslandLost.toNat + 2 ^ 16 * (r.gen % 2 ^ 15))
      d.applyResult r.gen Code.applyIslandLost

def execApplyRequest (gen : W16) (s : State) : Host.Outcome State Fault Refusal := onDev s (applyRequestEff gen.toNat)
def execApplyDiscard (gen : W16) (s : State) : Host.Outcome State Fault Refusal := onDev s (applyDiscardEff gen.toNat)
def execApplyTake (s : State) : Host.Outcome State Fault Refusal := onDev s applyTakeEff
def execApplyPrepare (isl : Isl) (s : State) : Host.Outcome State Fault Refusal :=
  onNamed s isl (applyPrepareEff (islId isl))
def execApplyReady (isl : Isl) (s : State) : Host.Outcome State Fault Refusal := onNamed s isl (applyReadyEff (islId isl))
def execApplySwap (isl : Isl) (s : State) : Host.Outcome State Fault Refusal := onNamed s isl (applySwapEff (islId isl))
def execApplyDone (isl : Isl) (s : State) : Host.Outcome State Fault Refusal := onNamed s isl (applyDoneEff (islId isl))
def execDrainTimeout (isl : Isl) (s : State) : Host.Outcome State Fault Refusal :=
  onNamed s isl (drainTimeoutEff (islId isl))
def execDrainFail (isl : Isl) (s : State) : Host.Outcome State Fault Refusal := onNamed s isl (drainFailEff (islId isl))
def execApplyTimeout (s : State) : Host.Outcome State Fault Refusal := onDev s applyTimeoutEff
def execApplyAbort (isl : Isl) (s : State) : Host.Outcome State Fault Refusal := onNamed s isl (applyAbortEff (islId isl))

end Sys2Proof.Machine
end

