-- ==== Sys2Proof/Machine/Windows.lean ====
section
/-! DEFINITION. Windows (R294 to R302) and layout epochs (R316). -/

namespace Sys2Proof.Machine

/-- The spill address that means none (Table 10.6). -/
def noSpill : Nat := 2 ^ 64 - 1

def winSpills (b : WinBody) : Bool := b.target == 1 && b.spill.toNat != noSpill
/-- Task and offset in its grant of a scratchpad window. -/
def winTask (b : WinBody) : Nat := bitsOf b.base.toNat 31 23
def winOffset (b : WinBody) : Nat := bitsOf b.base.toNat 21 0

/-- Whether a range of context addresses has a page of an object that is versioned. -/
def Dev.versionedIn (d : Dev) (x va n : Nat) : Bool :=
  (piecesOf va n).any (fun p =>
    pteVersioned ((d.ctx x).pte (p.1 / 0x200000)) || (match d.objAt x p.1 with
      | some o => o.2.isVersioned || o.2.isLogged
      | none => false))

/-! ## Opening and closing (R294, R295) -/

/-- Windows of a context that are OPEN or CLOSING. -/
def Dev.windowsOf (d : Dev) (x : Nat) : Nat :=
  (d.windows.filter (fun w => w.2.state != .free && w.2.body.owner == x)).length

/-- A spill area holds the window and its marks in writable pages of objects that are not versioned. -/
def Dev.spillGood (d : Dev) (x : Nat) (b : WinBody) : Bool :=
  let n := b.size + ceilDiv b.size 512
  !(winSpills b) || (b.spill.toNat % 64 == 0 && (d.ctx x).rangeStatus b.spill.toNat n true == 0
    && !(d.versionedIn x b.spill.toNat n))

/-- The body of WIN_OPEN breaks R294. -/
def Dev.windowBad (d : Dev) (x : Nat) (b : WinBody) : Bool :=
  b.size % 64 != 0
  || (if b.target = 0 then (d.ctx x).rangeStatus b.base.toNat b.size true != 0
    else
      match (d.ctx x).task (winTask b) with
      | none => true
      | some t => decide (t.entry.bound * 0x1000 < (winOffset b) + b.size) || !(d.spillGood x b))

def winOpenEff (h : CmdHdr) (b : WinBody) (d : Dev) : Dev :=
  d.liveCmd h (fun d =>
    let x := h.ctx
    if !b.reservedZero || b.owner != x || decide (1 < b.target) || decide (11 < b.port)
        || bitsOf b.notify.toNat 14 12 != 0
        || (b.target == 1 && (bitAt b.base.toNat 22 || decide (2 ^ 32 ≤ b.base.toNat))) then
      d.complete h Code.cmdFieldInvalid 0
    else
      let free := (List.range 4096).filter (fun n => (d.window n).state == .free)
      if free = [] ∨ (d.ctx x).field 0xF8 2 ≤ d.windowsOf x then d.complete h Code.windowLimit 0
      else if d.windowBad x b then d.complete h Code.windowInvalid 0
      else
        let n := free.getD (Config.freeNat d.free % free.length) 0
        let w : Window := { d.window n with state := .open, body := b, redirected := false, closeCmd := none }
        (d.drew.setWindow n w).complete h 0 (BitVec.ofNat 32 (n + 2 ^ 16 * w.gen.toNat)))

def winCloseEff (h : CmdHdr) (window : Nat) (d : Dev) : Dev :=
  d.liveCmd h (fun d =>
    let w := d.window window
    if 4096 ≤ window ∨ w.state ≠ .open ∨ w.body.owner ≠ h.ctx then d.complete h Code.cmdFieldInvalid 0
    else d.setWindow window { w with state := .closing, closeCmd := some h })

/-- Phase 2 of a close: the accepted writes of the model are performed as they are recorded, so none is out. -/
def windowCloseDrainedEff (n : Nat) (d : Dev) : Dev :=
  let w := d.window n
  if w.state != .closing then d
  else
    (d.setWindow n { w with state := .free, gen := w.gen + 1, redirected := false, closeCmd := none }).completeOpt
      w.closeCmd 0 (BitVec.ofNat 32 (n + 2 ^ 16 * (w.gen + 1).toNat))

/-! ## Redirection (R300, R301) -/

/-- The owner has left RUNNING: writes to a scratchpad window go to its spill area. -/
def spillRedirectEff (n : Nat) (d : Dev) : Dev :=
  let w := d.window n
  if w.state == .free || !(winSpills w.body) || w.redirected || (d.ctx w.body.owner).state == .running then d
  else (d.noteEvent (islOfPort w.body.port)).setWindow n { w with redirected := true }

/-- Where a task of a context lies: core and start of its grant. -/
def Dev.grantAt (d : Dev) (x task : Nat) : Option (Nat × Nat) :=
  ((d.ctx x).places.find? (fun p => p.task == task)).map (fun p => (p.core, p.base))

/-- Bytes put into a task's scratchpad grant. -/
def Dev.grantPut (d : Dev) (x task off : Nat) (bs : List Byte) : Dev :=
  match d.grantAt x task with
  | some (core, base) => d.modCore core (fun k => { k with spad := mwrites k.spad (base + off) bs })
  | none => d

/-- The owner runs again: every marked granule returns to the scratchpad, and the marks are cleared. -/
def copyInEff (n : Nat) (d : Dev) : Dev :=
  let w := d.window n
  let b := w.body
  let x := b.owner
  if w.state == .free || !w.redirected || (d.ctx x).state != .running then d
  else
    let spill := b.spill.toNat
    let marks := leNat (d.ctxRead x (spill + b.size) (ceilDiv b.size 512)).2
    let d := (List.range (b.size / 64)).foldl (fun d g =>
      if bitAt marks g then d.grantPut x (winTask b) ((winOffset b) + 64 * g) (d.ctxRead x (spill + 64 * g) 64).2 else d) d
    let d := (d.ctxWrite x (spill + b.size) (List.replicate (ceilDiv b.size 512) 0)).2
    (d.noteEvent (islOfPort b.port)).setWindow n { w with redirected := false }

/-! ## Writes (R296 to R299) -/

/-- Fields of a WRITE's body. -/
def wrWindow (h : MsgHdr) : Nat := bodyField h 0x24 2
def wrOffset (h : MsgHdr) : Nat := bodyField h 0x2C 8
def wrBytes (h : MsgHdr) : Nat := bodyField h 0x34 4

/-- The first check of R296 that a write fails. -/
def Dev.writeStatus (d : Dev) (h : MsgHdr) : W16 :=
  let w := d.window (wrWindow h)
  if 4096 ≤ wrWindow h ∨ w.state ≠ .open then Code.windowClosed
  else if bodyField h 0x26 2 ≠ w.gen.toNat then Code.windowStale
  else if bodyField h 0x28 4 ≠ w.body.key.toNat then Code.windowKey
  else if wrOffset h % 64 ≠ 0 ∨ wrBytes h % 64 ≠ 0 ∨ wrBytes h < 64 ∨ 65536 < wrBytes h
      ∨ w.body.size < wrOffset h + wrBytes h then Code.windowBounds
  else 0

/-- A core whose test is running, between its save and its restore (R339). -/
def Dev.testing (d : Dev) (core : Nat) : Bool := (d.core core).test == .running

/-- The window's range has a versioned page and its owner has voted or applies a decision (R299). -/
def Dev.heldForGyle (d : Dev) (w : Window) : Bool :=
  w.body.target == 0 && (d.ctx w.body.owner).gyle.sealed
    && d.versionedIn w.body.owner w.body.base.toNat w.body.size

/-- The write's scratchpad is under test (R339). -/
def Dev.heldForTest (d : Dev) (w : Window) : Bool :=
  w.body.target == 1 && !w.redirected && (match d.grantAt w.body.owner (winTask w.body) with
    | some (core, _) => d.testing core
    | none => false)

/-- The spill marks of the granules that a write covers are set (R300). -/
def Dev.markSpill (d : Dev) (x : Nat) (b : WinBody) (off n : Nat) : Dev :=
  (List.range (n / 64)).foldl (fun d i =>
    let g := off / 64 + i
    let va := b.spill.toNat + b.size + g / 8
    let old := leNat (d.ctxRead x va 1).2
    (d.ctxWrite x va (leBytes 1 (old ||| 2 ^ (g % 8)))).2) d

/-- A write performed: where its bytes went or the status that memory answered. -/
def Dev.performWrite (d : Dev) (w : Window) (off : Nat) (bs : List Byte) : W16 × Dev :=
  let b := w.body
  let x := b.owner
  if b.target = 0 then d.ctxWrite x (b.base.toNat + off) bs
  else if w.redirected then
    let r := d.ctxWrite x (b.spill.toNat + off) bs
    if r.1 = 0 then (0, r.2.markSpill x b off bs.length) else r
  else (0, d.grantPut x (winTask b) ((winOffset b) + off) bs)

/-- The header that an answer to a write echoes: it comes from the window's owner. -/
def Dev.toOwner (d : Dev) (h : MsgHdr) : MsgHdr :=
  let w := d.window (wrWindow h)
  if w.state = .free then h else { h with dstCtx := BitVec.ofNat 16 w.body.owner }

/-- A refused write is answered with its status and the generation in force. -/
def Dev.refuseWrite (d : Dev) (p : Nat) (h : MsgHdr) (st : W16) : Dev :=
  (d.sendNack p (d.toOwner h) st (wrWindow h) (d.window (wrWindow h)).gen.toNat).count (fabricKey 0x818) 1

/-- A write that passes R296 is performed, acknowledged, and notified (R297, R298). -/
def Dev.doWrite (d : Dev) (p : Nat) (m : RxMsg) : Dev :=
  let h := m.hdr
  let st := d.writeStatus h
  if st ≠ 0 then d.refuseWrite p h st
  else
    let w := d.window (wrWindow h)
    let r := d.performWrite w (wrOffset h) (m.data.take (wrBytes h))
    if r.1 ≠ 0 then r.2.refuseWrite p h r.1
    else
      let d := r.2.noteEvent (islOfPort w.body.port)
      let n := w.body.notify.toNat
      let told := bitAt n 15 && (wrOffset h + wrBytes h == w.body.size || bitAt h.tag.toNat 31)
      let d := if told then d.remoteArrive w.body.owner (bitsOf n 8 0) (bitsOf n 11 9) 1 else d
      d.sendWack p (d.toOwner h)

/-- The port whose island checks a write: the window's home port, or the one it came by where no window is there. -/
def Dev.homePort (d : Dev) (p : Nat) (h : MsgHdr) : Nat :=
  let w := d.window (wrWindow h)
  if 4096 ≤ wrWindow h ∨ w.state = .free then p else w.body.port

/-- A write message at the head of its channel. One for another port's window crosses to that port's island, over the
die ring where it lies on another die (R296); a closed crossing keeps it waiting. -/
def writeEff (p : Nat) (d : Dev) : Dev :=
  match d.headMsg p 1 (fun m => m.hdr.type == 1) with
  | none => d
  | some m =>
    let home := d.homePort p m.hdr
    let q := d.port home
    let w := d.window (wrWindow m.hdr)
    let st := d.writeStatus m.hdr
    let behind := q.hold.any (fun o => o.hdr.type == 1 && wrWindow o.hdr == wrWindow m.hdr)
    let taken := (d.popMsg p 1).carry (islOfPort p) (islOfPort home)
    if !(d.routeOpen (islOfPort p) (islOfPort home)) then d
    else if st ≠ 0 then taken.refuseWrite home m.hdr st
    else if d.heldForGyle w || d.heldForTest w || behind then
      if q.hold.length < 64 then taken.modPort home (fun q => { q with hold := q.hold ++ [m] })
      else if d.heldForGyle w then taken.refuseWrite home m.hdr Code.windowBusy
      else d
    else taken.doWrite home m

/-! ## Layout epochs (R316) -/

/-- Collectives of a context abandoned: late data of them is answered COLL_LATE. -/
def Dev.abandonColls (d : Dev) (x : Nat) : Dev :=
  { d with chans := d.chans.map (fun (e : Nat × Chan) => (e.1, { e.2 with
      run := e.2.run.map (fun r => if r.ctx = x then { r with failed := true } else r) })) }

def layoutSetEff (h : CmdHdr) (epoch : W16) (flags : Byte) (d : Dev) : Dev :=
  d.liveCmd h (fun d =>
    let x := h.ctx
    let st := (d.ctx x).gyle.st
    let abandon := flags.getLsbD 0
    if 2 ≤ flags.toNat then d.complete h Code.cmdFieldInvalid 0
    else if !abandon && st != .idle && st != .held then d.complete h Code.gyleState 0
    else
      let d := if abandon && st == .running then (d.abortOpen x 9 srcHost).abandonColls x else d
      (d.modGyle x (fun g => { g with nextEpoch := some epoch })).complete h 0 0)

def execWinOpen (h : CmdHdr) (body : WinBody) (s : State) : Host.Outcome State Fault Refusal := onCmd s (winOpenEff h body)
def execWinClose (h : CmdHdr) (window : W16) (s : State) : Host.Outcome State Fault Refusal :=
  onCmd s (winCloseEff h window.toNat)
def execWindowCloseDrained (window : Fin 4096) (s : State) : Host.Outcome State Fault Refusal :=
  onDev s (windowCloseDrainedEff window.1)
def execSpillRedirect (window : Fin 4096) (s : State) : Host.Outcome State Fault Refusal :=
  onDev s (spillRedirectEff window.1)
def execCopyIn (window : Fin 4096) (s : State) : Host.Outcome State Fault Refusal := onDev s (copyInEff window.1)
def execLayoutSet (h : CmdHdr) (epoch : W16) (flags : Byte) (s : State) : Host.Outcome State Fault Refusal :=
  onCmd s (layoutSetEff h epoch flags)

end Sys2Proof.Machine
end

