-- ==== Sys2Proof/Machine/Collectives.lean ====
section
/-! DEFINITION. Sends (R303 to R305), collectives (R306 to R314), and the release of held messages (R299, R339). -/

namespace Sys2Proof.Machine

/-! ## A task of a context, in a slot or saved -/

def Dev.slotOf (d : Dev) (x task : Nat) : Option (Nat × SlotIx) :=
  (d.slotsOf x).find? (fun s => (d.slot s.1 s.2).task == task)

/-- A semaphore of a task. -/
def Dev.semAt (d : Dev) (x task sem : Nat) : Nat :=
  match d.slotOf x task with
  | some (core, t) => (d.slot core t).sem sem
  | none =>
    match (d.ctx x).saved.find? (fun v => v.task == task) with
    | some v => (v.seq.sem.toList.getD sem 0).toNat
    | none => 0

/-- n units of a semaphore of a task taken by a consumer. -/
def Dev.semTake (d : Dev) (x task sem n : Nat) : Dev :=
  match d.slotOf x task with
  | some (core, t) => d.modSlot core t (fun s => s.setSem sem (s.sem sem - n))
  | none => d.modCtx x (fun c => { c with saved := c.saved.map (fun v =>
      if v.task = task then
        (if h : sem < 8 then
          { v with seq := { v.seq with sem := v.seq.sem.set sem (v.seq.sem.get ⟨sem, h⟩ - BitVec.ofNat 16 n) h } }
        else v)
      else v) })

/-- A semaphore of a task raised by one, which is no remote arrival. -/
def Dev.semDone (d : Dev) (x task sem : Nat) : Dev :=
  match d.slotOf x task with
  | some (core, t) => d.semUp core t sem 1
  | none => d.savedSem x task sem 1

/-- A send or collective that fails stops its task as a failing completion does (R121, R304). -/
def Dev.taskStop (d : Dev) (x task : Nat) (status : W16) : Dev :=
  match d.slotOf x task with
  | some (core, t) => d.taskFail core t status 0
  | none =>
    let core := ((d.ctx x).places.find? (fun p => p.task == task)).map (·.core)
    let d := d.abortCause x 1 status (srcCore (core.getD 0))
    d.modCtx x (fun c => { c with saved := c.saved.map (fun v =>
      if v.task = task && v.ended.isNone then { v with ended := some status, faultStatus := status, faultDesc := 0 } else v) })

/-- Bytes of a task's scratchpad grant. -/
def Dev.grantGet (d : Dev) (x task off n : Nat) : List Byte :=
  match d.grantAt x task with
  | some (core, base) => mreads (d.core core).spad (base + off) n
  | none => []

/-- Bytes of a task's scratchpad grant by the image. -/
def Ctx.grantSize (c : Ctx) (task : Nat) : Nat := ((c.task task).map (fun t => t.entry.bound * 0x1000)).getD 0

/-- A context is in a gyle in which its engines work. -/
def Ctx.inWork (c : Ctx) : Bool :=
  c.state == .running && !c.gyle.startPending && (c.gyle.st == .running || c.gyle.st == .voted)

/-! ## Sends (R303, R304) -/

/-- The n bytes at an offset of a record, as a value. -/
def rn (b : List Byte) (off n : Nat) : Nat := leNat ((b.drop off).take n)

/-- A send entry, its status where it cannot be read. -/
def Dev.sendEntry (d : Dev) (x i : Nat) : W16 × List Byte := d.ctxRead x ((d.ctx x).field 0xF0 8 + 32 * i) 32

/-- What is wrong with a send entry: SEND_INVALID, PARTNER_NOT_ADMITTED or the failure of its source. -/
def Dev.sendStatus (d : Dev) (x : Nat) (b : List Byte) : W16 :=
  let c := d.ctx x
  let hbm := bitAt (rn b 3 1) 1
  let n := rn b 4 4
  if bitAt (rn b 2 1) 7 || decide (4 ≤ rn b 3 1) || decide (n < 64) || decide (0x400000 < n) || n % 64 != 0
      || decide (11 < rn b 0x13 1) || rn b 0x1C 4 % 64 != 0
      || (if hbm then decide (c.vaLimit < rn b 8 8 + n) else decide (c.grantSize (rn b 0 2) < rn b 8 8 + n)) then
    Code.sendInvalid
  else if !(d.reaches (rn b 0x10 3) (rn b 0x13 1)) then Code.partnerNotAdmitted
  else if hbm then c.rangeStatus (rn b 8 8) n false
  else 0

/-- A send's data cut into WRITE messages in ascending offset; the last carries the mark where notify is set. -/
def Dev.sendPieces (d : Dev) (x id : Nat) (b data : List Byte) : Dev :=
  let n := (rn b 4 4 + 65535) / 65536
  (List.range n).foldl (fun d i =>
    let bs := (data.drop (65536 * i)).take 65536
    let body := bodyOf (leBytes 2 (rn b 0x14 2) ++ leBytes 2 (rn b 0x16 2) ++ leBytes 4 (rn b 0x18 4)
      ++ leBytes 8 (rn b 0x1C 4 + 65536 * i) ++ leBytes 4 bs.length)
    d.sendTracked x (rn b 0x13 1) (d.hdrFrom x 1 1 (rn b 0x10 3) 0 0 body) bs
      (bitAt (rn b 3 1) 0 && i + 1 == n) (some id) none false false) d

/-- One send of a list fires. -/
def Dev.fireSend (d : Dev) (x : Nat) (b : List Byte) : Dev :=
  let st := d.sendStatus x b
  if st ≠ 0 then d.taskStop x (rn b 0 2) st
  else
    let data := if bitAt (rn b 3 1) 1 then (d.ctxRead x (rn b 8 8) (rn b 4 4)).2 else d.grantGet x (rn b 0 2) (rn b 8 8) (rn b 4 4)
    let id := (d.ctx x).sendNext
    let s : SendSt :=
      { id := id, task := rn b 0 2
        doneSem := if bitAt (rn b 2 1) 6 then some (bitsOf (rn b 2 1) 5 3) else none }
    (d.modCtx x (fun c => { c with sends := c.sends ++ [s], sendNext := id + 1 })).sendPieces x id b data

/-- A unit of a trigger semaphore fires the sends of its consumer in list order. -/
def sendFireEff (core : Nat) (t : SlotIx) (sem : Nat) (d : Dev) : Dev :=
  let s := d.slot core t
  let x := s.ctx
  if !s.valid || !(d.ctx x).inWork || s.sem sem == 0 then d
  else
    let es := (List.range ((d.ctx x).field 0xEA 2)).map (d.sendEntry x)
    match es.find? (fun e => e.1 != 0) with
    | some e => (d.semTake x s.task sem 1).taskFail core t e.1 0
    | none =>
      let mine := es.filter (fun e => rn e.2 0 2 == s.task && bitsOf (rn e.2 2 1) 2 0 == sem)
      if mine = [] then d else mine.foldl (fun d e => d.fireSend x e.2) (d.semTake x s.task sem 1)

/-- A send fails: its messages await no answer any more. -/
def Dev.sendFail (d : Dev) (x id : Nat) (status : W16) : Dev :=
  match (d.ctx x).sends.find? (fun s => s.id == id) with
  | none => d
  | some s =>
    (d.modCtx x (fun c => { c with
      sends := c.sends.filter (fun s => s.id != id), msgs := c.msgs.filter (fun m => m.sendId != some id) })).taskStop x
        s.task status

/-- A send whose every message has been answered with WACK is complete. -/
def Dev.sendCheck (d : Dev) (x id : Nat) : Dev :=
  let c := d.ctx x
  match c.sends.find? (fun s => s.id == id) with
  | none => d
  | some s =>
    if c.msgs.any (fun m => m.sendId == some id) then d
    else
      let d := d.modCtx x (fun c => { c with sends := c.sends.filter (fun s => s.id != id) })
      match s.doneSem with
      | some k => d.semDone x s.task k
      | none => d

/-- A message answered WINDOW_BUSY is sent again after 10 µs. -/
def sendResendEff (x : Nat) (tag : W32) (d : Dev) : Dev :=
  match (d.ctx x).msgs.find? (fun m => m.tag == tag && m.busy) with
  | none => d
  | some m =>
    (d.modCtx x (fun c => { c with
      msgs := c.msgs.map (fun k => if k.tag = tag then { k with busy := false } else k) })).sendMsg m.port m.hdr m.data

/-- A send's message has not been answered within write_timeout of its first sending. -/
def writeTimeoutEff (x : Nat) (tag : W32) (d : Dev) : Dev :=
  match (d.ctx x).msgs.find? (fun m => m.tag == tag) with
  | none => d
  | some m =>
    match m.sendId with
    | some id => d.sendFail x id Code.remoteTimeout
    | none => d

/-! ## The job's shape (R307, R308) -/

/-- A peer list that keeps R308, with the index of the own entry: ranks per node and index. -/
def Dev.shape (d : Dev) (x : Nat) : Option (Nat × Nat) :=
  let ps := d.peers x
  let e := fun (i : Nat) => ps.getD i (0, 0, 0, 0, 0)
  let r := (ps.takeWhile (fun p => p.1 == (e 0).1)).length
  let good := [1, 2, 4, 8].contains r && ps.length % max r 1 == 0
    && (List.range ps.length).all (fun i =>
      (e i).2.1 == i % r && (e i).1 == (e (i / r * r)).1 && (e i).2.2.2.2 == 0
        && (decide (i < r) || decide ((e (i - r)).1 < (e i).1)))
  if !good then none
  else
    ((List.range ps.length).find? (fun i =>
      (e i).1 == (d.ctx x).field 0xC4 3 && (e i).2.2.1 == d.selfId && (e i).2.2.2.1 == x)).map (fun i => (r, i))

def log2 (r : Nat) : Nat := if r = 8 then 3 else if r = 4 then 2 else if r = 2 then 1 else 0

/-! ## The schedule (R309) -/

/-- A step of the schedule with partner index p. -/
def mkStep (ps : List (Nat × Nat × Nat × Nat × Nat)) (phase step : Nat) (send : Bool) (p first count : Nat)
    (land : Bool) : CollStep :=
  let e := ps.getD p (0, 0, 0, 0, 0)
  { phase := phase, step := step, send := send, partner := BitVec.ofNat 24 e.2.2.1, ctx := e.2.2.2.1, first := first
    count := count, land := land, after := 0, afterRecv := 0, ctsSent := false, ctsTag := 0, ctsSeen := false
    got := 0, out := false, done := false }

/-- The range held at step s of phase A by rank j: first element and count. -/
def heldAt (elements j : Nat) : Nat → Nat × Nat
  | 0 => (0, elements)
  | s + 1 =>
    let h := heldAt elements j s
    if j / 2 ^ s % 2 = 0 then (h.1, h.2 / 2) else (h.1 + h.2 / 2, h.2 / 2)

/-- The half that rank j does not keep at step s. -/
def otherAt (elements j s : Nat) : Nat × Nat :=
  let h := heldAt elements j s
  if j / 2 ^ s % 2 = 0 then (h.1 + h.2 / 2, h.2 / 2) else (h.1, h.2 / 2)

/-- Levels at which position q of n receives in the up phase, and the level at which it sends. -/
def upLevels (q n : Nat) : Nat → Nat → List Nat × Option Nat
  | 0, _ => ([], none)
  | fuel + 1, l =>
    if q % 2 ^ (l + 1) = 2 ^ l then ([], some l)
    else
      let r := upLevels q n fuel (l + 1)
      (if q + 2 ^ l < n then l :: r.1 else r.1, r.2)

/-- The steps of rank j at position q, in order. -/
def scheduleOf (ps : List (Nat × Nat × Nat × Nat × Nat)) (r me elements : Nat) : List CollStep :=
  let j := me % r
  let q := me / r
  let n := ps.length / r
  let l := log2 r
  let near := fun (s : Nat) => q * r + (j ^^^ 2 ^ s)
  let far := fun (p : Nat) => p * r + j
  let seg := heldAt elements j l
  let up := upLevels q n 17 0
  let a := (List.range l).flatMap (fun s =>
    let o := otherAt elements j s
    let k := heldAt elements j (s + 1)
    [mkStep ps 0 s true (near s) o.1 o.2 false, mkStep ps 0 s false (near s) k.1 k.2 true])
  let bUp := up.1.map (fun v => mkStep ps 1 v false (far (q + 2 ^ v)) seg.1 seg.2 true)
  let bMid := match up.2 with
    | some v => [mkStep ps 1 v true (far (q - 2 ^ v)) seg.1 seg.2 false,
        mkStep ps 2 v false (far (q - 2 ^ v)) seg.1 seg.2 false]
    | none => []
  let bDown := up.1.reverse.map (fun v => mkStep ps 2 v true (far (q + 2 ^ v)) seg.1 seg.2 false)
  let c := (List.range l).reverse.flatMap (fun s =>
    let k := heldAt elements j (s + 1)
    let o := otherAt elements j s
    [mkStep ps 3 s true (near s) k.1 k.2 false, mkStep ps 3 s false (near s) o.1 o.2 false])
  a ++ bUp ++ bMid ++ bDown ++ c

/-- Each sending waits for the adds and for the receipts into the buffer that come before it (R310). -/
def withAfter : List CollStep → Nat → Nat → List CollStep
  | [], _, _ => []
  | s :: r, adds, recvs =>
    { s with after := if s.send then adds else 0, afterRecv := if s.send then recvs else 0 }
      :: withAfter r (if !s.send && s.land then adds + 1 else adds) (if !s.send && !s.land then recvs + 1 else recvs)

/-! ## Progress -/

def CollRun.eb (r : CollRun) : Nat := if r.bf16 then 2 else 4

/-- Body of COLL_DATA and COLL_CTS (Table 10.4). The offset is the range's byte offset in the buffer. -/
def collBody (chan phase step seq offset elements : Nat) : BitVec 160 :=
  bodyOf (leBytes 1 chan ++ leBytes 1 phase ++ leBytes 1 step ++ leBytes 1 0 ++ leBytes 2 seq ++ leBytes 2 0
    ++ leBytes 4 offset ++ leBytes 4 elements ++ leBytes 4 0)

def Chan.seq (c : Chan) : Nat := c.collSeq - 1

def Dev.modRun (d : Dev) (c : Nat) (f : CollRun → CollRun) : Dev :=
  let k := d.chan c
  d.setChan c { k with run := k.run.map f }
def Dev.modStep (d : Dev) (c i : Nat) (f : CollStep → CollStep) : Dev :=
  d.modRun c (fun r => { r with steps := r.steps.modify i f })

/-- A range of the buffer may be overwritten: no sending before it that reads from it is still to be answered. -/
def freeRange (steps : List CollStep) (i first count : Nat) : Bool :=
  (steps.take i).all (fun s => !s.send || s.done || decide (s.first + s.count ≤ first) || decide (first + count ≤ s.first))

/-- A clear-to-send for a receipt (R311). -/
def Dev.sendCts (d : Dev) (c i : Nat) (r : CollRun) (s : CollStep) : Dev :=
  let tag := BitVec.ofNat 32 ((d.ctx r.ctx).msgNext % 2 ^ 31)
  let h := d.hdrFrom r.ctx 5 0 s.partner.toNat s.ctx tag
    (collBody c s.phase s.step (d.chan c).seq (s.first * r.eb) s.count)
  ((d.modCtx r.ctx (fun k => { k with msgNext := k.msgNext + 1 })).sendMsg r.port h []).modStep c i (fun s =>
    { s with ctsSent := true, ctsTag := tag })

/-- The data of a sending, in messages of up to 65,536 bytes. -/
def Dev.sendColl (d : Dev) (c i : Nat) (r : CollRun) (s : CollStep) : Dev :=
  let per := 65536 / r.eb
  let d := (List.range (ceilDiv s.count per)).foldl (fun d k =>
    let first := s.first + per * k
    let n := min per (s.count - per * k)
    let h := d.hdrFrom r.ctx 4 2 s.partner.toNat s.ctx 0 (collBody c s.phase s.step (d.chan c).seq (first * r.eb) n)
    d.sendTracked r.ctx r.port h (d.grantGet r.ctx r.task (r.bufOff + first * r.eb) (n * r.eb)) false none (some c)
      false false) d
  d.modStep c i (fun s => { s with out := true })

/-- A step goes as far as it can: a clear-to-send, or the data of a sending. Sendings keep the order of the schedule
(R309). -/
def Dev.stepGo (d : Dev) (c i : Nat) : Dev :=
  match (d.chan c).run with
  | none => d
  | some r =>
    match r.steps[i]? with
    | none => d
    | some s =>
      let have_ := d.semAt r.ctx r.task r.readySem
      let before := r.steps.take i
      if !s.send then
        let adds := (before.filter (fun k => !k.send && k.land)).length
        let ok := if s.land then decide (adds ≤ r.readyUsed + have_) else freeRange r.steps i s.first s.count
        if s.ctsSent || !ok then d else d.sendCts c i r s
      else
        let recvd := before.all (fun k => k.send || k.land || k.done)
        let need := s.after - r.readyUsed
        let ahead := before.any (fun k => k.send && !k.out)
        if s.out || !s.ctsSeen || ahead || !recvd || decide (have_ < need) || (d.grantAt r.ctx r.task).isNone then d
        else
          ((d.semTake r.ctx r.task r.readySem need).modRun c (fun r => { r with readyUsed := r.readyUsed + need })).sendColl
            c i { r with readyUsed := r.readyUsed + need } s

/-- Sendings whose every message has been answered are done. -/
def Dev.stepsDone (d : Dev) (c : Nat) : Dev :=
  d.modRun c (fun r =>
    let mine := (d.ctx r.ctx).msgs.filter (fun m => m.channel == some c)
    { r with steps := r.steps.map (fun s =>
        if s.send && s.out && !(mine.any (fun m => bodyField m.hdr 0x25 1 == s.phase && bodyField m.hdr 0x26 1 == s.step)) then
          { s with done := true }
        else s) })

/-- A collective goes on as far as it can, and ends when all its steps are done (R310). -/
def Dev.collGo (d : Dev) (c : Nat) : Dev :=
  match (d.chan c).run with
  | none => d
  | some r =>
    if r.failed then d
    else
      let d := (List.range r.steps.length).foldl (fun d i => d.stepGo c i) (d.stepsDone c)
      match (d.chan c).run with
      | none => d
      | some r =>
        if r.steps.all (·.done) then
          ((d.setChan c { d.chan c with run := none }).count (fabricKey 0x820) 1).remoteArrive r.ctx r.task r.doneSem 1
        else d

/-- Every running collective goes on: a semaphore that one of them consumes may have risen. -/
def Dev.collPoll (d : Dev) : Dev := (d.chans.map (·.1)).foldl Dev.collGo d

/-- The cycle of the home port's island at which a collective's deadline expires (R312, Table 10.10). -/
def Dev.collDeadlineAt (d : Dev) (r : CollRun) : Nat :=
  let us := (d.ctx r.ctx).field 0xDC 4
  r.startCycle + 1600 * (if us = 0 then 1000000 else us)

/-- A collective fails: cause 7, and the adder task stops (R312). -/
def Dev.collFail (d : Dev) (c : Nat) (status : W16) (source : W32) : Dev :=
  match (d.chan c).run with
  | none => d
  | some r =>
    if r.failed then d
    else
      let d := (d.modRun c (fun r => { r with failed := true })).modCtx r.ctx (fun k => { k with
        msgs := k.msgs.filter (fun m => m.channel != some c) })
      (d.abortCause r.ctx 7 status source).taskStop r.ctx r.task status

/-- The deadline expires with receipts or answers missing (R312). -/
def Dev.collExpires (d : Dev) (c : Nat) (r : CollRun) : Dev :=
  (d.collFail c Code.collDeadline (srcIsland (islOfPort r.port))).count (fabricKey 0x828) 1

/-- A receipt or an answer of a collective comes: an expiry of an earlier cycle is recorded before it; in the cycle of
the expiry the arrival wins, and is counted (R312). -/
def Dev.collArrives (d : Dev) (c : Nat) : Dev :=
  match (d.chan c).run with
  | none => d
  | some r =>
    let now := d.cycleOf (islOfPort r.port)
    if r.failed then d
    else if d.collDeadlineAt r < now then d.collExpires c r
    else d.count (fabricKey 0x830) (b2n (now == d.collDeadlineAt r))

/-! ## Starting (R306, R310) -/

/-- Fields of a collective record (Table 10.9). -/
def crTask (b : List Byte) : Nat := rn b 4 2
def crStart (b : List Byte) : Nat := bitsOf (rn b 6 2) 2 0

/-- What is wrong with a record that is to be started. -/
def Dev.collStatus (d : Dev) (x : Nat) (recs : List (List Byte)) (b : List Byte) : W16 :=
  let chan := rn b 0 1
  let eb := if rn b 1 1 = 1 then 2 else 4
  let n := rn b 8 4
  let size := (d.ctx x).grantSize (crTask b)
  if decide (63 < chan) || (d.chan chan).owner != some x then Code.channelInvalid
  else
    match d.shape x with
    | none => Code.collInvalid
    | some (r, me) =>
      let land := if 2 ≤ r then n * eb / 2 else n * eb
      let port := ((recs.find? (fun k => rn k 0 1 == chan)).map (fun k => rn k 2 1)).getD 12
      if decide (1 < rn b 1 1) || decide (11 < rn b 2 1) || rn b 3 1 != 0 || bitsOf (rn b 6 2) 15 12 != 0
          || rn b 0x18 8 != 0 || n % (32 * r) != 0 || n == 0 || port != rn b 2 1
          || decide (size < rn b 0x0C 4 + n * eb) || decide (size < rn b 0x10 4 + land) || decide (size < rn b 0x14 4 + 4)
      then Code.collInvalid
      else if (scheduleOf (d.peers x) r me n).all (fun s => d.reaches s.partner.toNat (rn b 2 1)) then 0
      else Code.partnerNotAdmitted

/-- A run with the clear-to-sends that came before its start. -/
def CollRun.withEarly (r : CollRun) (early : List (Nat × Nat × Nat × Nat × Nat)) (seq : Nat) : CollRun :=
  { r with steps := r.steps.map (fun s =>
      if s.send && early.contains (seq, s.phase, s.step, s.partner.toNat, s.ctx) then { s with ctsSeen := true } else s) }

/-- A record's collective starts: the add count is written and the step semaphore raised. -/
def Dev.startColl (d : Dev) (x : Nat) (recs : List (List Byte)) (b : List Byte) : Dev :=
  let st := d.collStatus x recs b
  if st ≠ 0 then d.taskStop x (crTask b) st
  else
    match d.shape x with
    | none => d
    | some (r, me) =>
      let c := rn b 0 1
      let steps := withAfter (scheduleOf (d.peers x) r me (rn b 8 4)) 0 0
      let adds := (steps.filter (fun s => !s.send && s.land)).length
      let k := d.chan c
      let run : CollRun :=
        { ctx := x, task := crTask b, bf16 := rn b 1 1 == 1, port := rn b 2 1
          stepSem := bitsOf (rn b 6 2) 8 6, readySem := bitsOf (rn b 6 2) 5 3, doneSem := bitsOf (rn b 6 2) 11 9
          bufOff := rn b 0x0C 4, landOff := rn b 0x10 4, elements := rn b 8 4, steps := steps, startCycle := d.cycleOf (islOfPort (rn b 2 1)), readyUsed := 0
          failed := false }
      let chan : Chan :=
        { k with
          collSeq := k.collSeq + 1
          early := k.early.filter (fun e => e.1 != k.collSeq)
          run := some (run.withEarly k.early k.collSeq) }
      let d := (d.noteEvent (islOfPort run.port)).setChan c chan
      ((d.grantPut x run.task (rn b 0x14 4) (leBytes 4 adds)).remoteArrive x run.task run.stepSem 1).collGo c

/-- A unit of a start semaphore starts the next record of its consumer; it waits while the task runs a collective
or the record's channel is taken. -/
def collectiveStartEff (core : Nat) (t : SlotIx) (sem : Nat) (d : Dev) : Dev :=
  let s := d.slot core t
  let x := s.ctx
  if !s.valid || !(d.ctx x).inWork || s.sem sem == 0 then d
  else
    let all := (List.range ((d.ctx x).field 0xE8 2)).map (d.collRec x)
    if all.any (·.isNone) then (d.semTake x s.task sem 1).taskFail core t Code.collInvalid 0
    else
      let recs := all.filterMap id
      let mine := recs.filter (fun b => crTask b == s.task && crStart b == sem)
      let key := s.task * 8 + sem
      match mine[tget (d.ctx x).collNext key 0]? with
      | none => d
      | some b =>
        let running := d.chans.any (fun (e : Nat × Chan) => match e.2.run with
          | some r => r.ctx == x && r.task == s.task && !r.failed
          | none => false)
        let taken := (d.chan (rn b 0 1)).run.isSome && (d.chan (rn b 0 1)).owner == some x
        if running || taken then d
        else
          let d := d.modCtx x (fun c => { c with collNext := tset c.collNext key (tget c.collNext key 0 + 1) })
          (d.semTake x s.task sem 1).startColl x recs b

/-- The deadline expires, once its cycle has come (R312). -/
def collDeadlineEff (c : Nat) (d : Dev) : Dev :=
  match (d.chan c).run with
  | none => d
  | some r => if r.failed || decide (d.cycleOf (islOfPort r.port) < d.collDeadlineAt r) then d else d.collExpires c r

/-! ## Receipt of data and of clear-to-sends (R311, R314, R315) -/

/-- What a collective message's own fields say: EPOCH_MISMATCH, COLL_LATE or that it is of this attempt. -/
def Dev.collStale (d : Dev) (h : MsgHdr) : W16 :=
  let x := h.dstCtx.toNat
  let c := d.ctx x
  if h.layoutEpoch.toNat ≠ c.field 0xC0 2 then Code.epochMismatch
  else if c.state.gone || !(d.sameAttempt x h) || h.job.toNat != c.field 0x94 4 then Code.collLate
  else 0

/-- The receipt that data belongs to: its channel's run, the step's index, or the code it is refused with. -/
def Dev.collFind (d : Dev) (h : MsgHdr) : W16 × Nat × Nat :=
  let c := bodyField h 0x24 1
  match (d.chan c).run with
  | none => (Code.collOrder, c, 0)
  | some r =>
    if r.ctx ≠ h.dstCtx.toNat ∨ bodyField h 0x28 2 ≠ (d.chan c).seq then (Code.collOrder, c, 0)
    else if r.failed then (Code.collLate, c, 0)
    else
      match r.steps.zipIdx.find? (fun s => !s.1.send && s.1.ctsSent && !s.1.done && s.1.phase == bodyField h 0x25 1
          && s.1.step == bodyField h 0x26 1 && s.1.partner == h.src && s.1.ctx == h.srcCtx.toNat
          && decide (s.1.first * r.eb ≤ bodyField h 0x2C 4)
          && decide (bodyField h 0x2C 4 + bodyField h 0x30 4 * r.eb ≤ (s.1.first + s.1.count) * r.eb)) with
      | none => (Code.collOrder, c, 0)
      | some s => (0, c, s.2)

/-- A collective message of another gyle, attempt, job or layout epoch is counted and answered (R314, R315). -/
def Dev.nackStale (d : Dev) (p : Nat) (h : MsgHdr) : Dev :=
  (d.count (fabricKey 0x838) 1).sendNack p h (d.collStale h) 0 0

/-- Data is put where its step says; the receipt is recorded when the whole range has come. -/
def Dev.landColl (d : Dev) (p : Nat) (m : RxMsg) : Dev :=
  let h := m.hdr
  if d.collStale h ≠ 0 then d.nackStale p h
  else
    let d := if (d.collFind h).1 = 0 then d.collArrives (d.collFind h).2.1 else d
    let st := (d.collFind h).1
    let c := (d.collFind h).2.1
    let i := (d.collFind h).2.2
    if st ≠ 0 then d.sendNack p h st 0 0
    else
      match (d.chan c).run.bind (fun r => (r.steps[i]?).map (fun s => (r, s))) with
      | none => d
      | some (r, s) =>
        let n := bodyField h 0x30 4
        let off := bodyField h 0x2C 4
        let at_ := if s.land then r.landOff + (off - s.first * r.eb) else r.bufOff + off
        let full := decide (s.count ≤ s.got + n)
        let d := (d.grantPut r.ctx r.task at_ (m.data.take (n * r.eb))).modStep c i (fun s =>
          { s with got := s.got + n, done := full })
        let d := (d.noteEvent (islOfPort r.port)).sendWack p h
        (if full && s.land then d.remoteArrive r.ctx r.task r.stepSem 1 else d).collGo c

/-- The scratchpad that data goes to is under test (R339). -/
def Dev.collHeld (d : Dev) (h : MsgHdr) : Bool :=
  match (d.chan (bodyField h 0x24 1)).run with
  | none => false
  | some r =>
    d.collStale h == 0 && (d.collFind h).1 == 0 && (match d.grantAt r.ctx r.task with
      | some (core, _) => d.testing core
      | none => false)

def collDataEff (p : Nat) (d : Dev) : Dev :=
  match d.headMsg p 2 (fun m => m.hdr.type == 4) with
  | none => d
  | some m =>
    if d.collHeld m.hdr then
      if (d.port p).hold.length < 64 then (d.popMsg p 2).modPort p (fun q => { q with hold := q.hold ++ [m] }) else d
    else (d.popMsg p 2).landColl p m

/-- A clear-to-send is recorded, before the own start if need be. -/
def collCtsEff (p : Nat) (d : Dev) : Dev :=
  match d.headMsg p 0 (fun m => m.hdr.type == 5) with
  | none => d
  | some m =>
    let h := m.hdr
    let c := bodyField h 0x24 1
    let d := d.popMsg p 0
    if d.collStale h ≠ 0 then d.nackStale p h
    else
      let k := d.chan c
      let seq := bodyField h 0x28 2
      let e := (seq, bodyField h 0x25 1, bodyField h 0x26 1, h.src.toNat, h.srcCtx.toNat)
      if k.owner ≠ some h.dstCtx.toNat then d
      else
        match k.run with
        | some r =>
          if seq = k.seq then
            if r.failed then d.sendNack p h Code.collLate 0 0
            else (d.modRun c (fun r => r.withEarly [e] seq)).collGo c
          else if k.collSeq ≤ seq then d.setChan c { k with early := k.early ++ [e] } else d
        | none => if k.collSeq ≤ seq then d.setChan c { k with early := k.early ++ [e] } else d

/-! ## Held messages (R299, R339) -/

/-- A held message may go: what held it has ended. -/
def Dev.mayGo (d : Dev) (m : RxMsg) : Bool :=
  if m.hdr.type = 1 then
    d.writeStatus m.hdr != 0
      || (!(d.heldForGyle (d.window (wrWindow m.hdr))) && !(d.heldForTest (d.window (wrWindow m.hdr))))
  else !(d.collHeld m.hdr)

/-- The first held message that may go is rechecked and performed, in recording order. -/
def heldWriteReleaseEff (p : Nat) (d : Dev) : Dev :=
  match (d.port p).hold.find? d.mayGo with
  | none => d
  | some m =>
    let d := d.modPort p (fun q => { q with hold := dropFirst (· == m) q.hold })
    if m.hdr.type = 1 then d.doWrite p m else d.landColl p m

def execSendFire (core : CoreId) (slot : SlotIx) (sem : Fin 8) (s : State) : Host.Outcome State Fault Refusal :=
  onCore s core.1 (sendFireEff core.1 slot sem.1)
def execSendResend (ctx : CtxId) (tag : W32) (s : State) : Host.Outcome State Fault Refusal :=
  onDev s (sendResendEff ctx.1 tag)
def execCollectiveStart (core : CoreId) (slot : SlotIx) (sem : Fin 8) (s : State) : Host.Outcome State Fault Refusal :=
  onCore s core.1 (collectiveStartEff core.1 slot sem.1)
def execCollDeadline (channel : Fin 64) (s : State) : Host.Outcome State Fault Refusal :=
  onDev s (collDeadlineEff channel.1)
def execCollData (port : PortId) (s : State) : Host.Outcome State Fault Refusal := onDev s (collDataEff port.1)
def execCollCts (port : PortId) (s : State) : Host.Outcome State Fault Refusal := onDev s (collCtsEff port.1)

end Sys2Proof.Machine
end

