-- ==== Sys2Proof/Machine/Contexts.lean ====
section
/-! DEFINITION. Context commands (R225 to R230), kill and sparge (R245 to R247). -/

namespace Sys2Proof.Machine

/-! ## FN_ASSIGN -/

def fnAssignEff (h : CmdHdr) (ctx fn : W16) (d : Dev) : Dev :=
  d.adminCmd h true (fun d =>
    if 1024 ≤ ctx.toNat then d.complete h Code.contextInvalid 0
    else if 64 < fn.toNat then d.complete h Code.cmdFieldInvalid 0
    else if (d.ctx ctx.toNat).state ≠ .free then d.complete h Code.contextState 0
    else (d.modCtx ctx.toNat (fun c => c.setField 4 2 fn.toNat)).complete h 0 0)

/-! ## CTX_LOAD (R228) -/

/-- Frames of a context's page table (R193, Table 7.6). -/
def Ctx.tabSize (c : Ctx) : Nat := pagesOf (c.vaLimit / 0x200000 * 8)

/-- The page table's frames taken and charged, with the status that refuses them. -/
def Dev.takeTable (d : Dev) (x : Nat) : W16 × Dev :=
  let c := d.ctx x
  let n := c.tabSize
  if !(c.canCharge [0, n, 0, 0]) then (Code.quotaExceeded, d)
  else
    match d.takeFrames (placeDies 0 0 0 n) with
    | none => (Code.poolExhausted, d)
    | some r => (0, r.2.modCtx x (fun c => { (c.addCharges [0, n, 0, 0]) with tabFrames := r.1 }))

/-- The allocation list, entry by entry; `at_` is the offset of the next entry in the image. -/
def Dev.allocList (d : Dev) (x : Nat) (bounds : List Nat) : List AllocEntry → Nat → LoadStatus × Dev
  | [], _ => ((0, 0), d)
  | e :: r, at_ =>
    let a := d.allocate x bounds e
    if a.1 ≠ 0 then ((a.1, at_), d) else a.2.2.2.allocList x bounds r (at_ + 32)

/-- The device with no context placed: what the cores in service can ever offer. -/
def Dev.vacant (d : Dev) : Dev :=
  { d with ctxs := d.ctxs.map (fun e => (e.1, { e.2 with places := [] })), clusters := [] }

/-- The checks of R228 in order; with SUCCESS the device holds the image, its page table and its objects. -/
def Dev.loadImage (d : Dev) (x : Nat) (i : Image) : LoadStatus × Dev :=
  let emuOne := bitAt ((d.ctx x).field 7 1) 1
  let st := firstBad ([i.formatStatus, i.programStatus] ++ i.tasks.map (fun t => t.descStatus emuOne) ++ [i.cellStatus])
  if st.1 ≠ 0 then (st, d)
  else
    let d := d.modCtx x (fun c => { c with image := some i })
    let t := d.takeTable x
    if t.1 ≠ 0 then ((t.1, 0), d)
    else
      let a := t.2.allocList x (t.2.ctx x).bounds i.allocs (i.wholeAt 7)
      let d := a.2
      let c := d.ctx x
      let g := d.gristStatus x i
      if a.1.1 ≠ 0 then a
      else if g.1 ≠ 0 then (g, d)
      else if c.quota 0 < c.charged 0 + c.coreUnits then ((Code.quotaExceeded, i.wholeAt 1), d)
      else if (d.vacant.findPlaces [] (fun _ => true) x).isNone then ((Code.placementImpossible, i.wholeAt 1), d)
      else ((0, 0), d)

def ctxLoadEff (h : CmdHdr) (i : Image) (d : Dev) : Dev :=
  d.ctxCmd h (fun d =>
    let x := h.ctx
    if d.sec.lifecycle = 0 then d.complete h Code.lifecycle 0
    else if (d.ctx x).state ≠ .free then d.complete h Code.contextState 0
    else
      let r := d.loadImage x i
      if r.1.1 ≠ 0 then d.complete h r.1.1 (BitVec.ofNat 32 r.1.2)
      else
        let d := (r.2.drew.modCtx x (fun c =>
          { (((c.setField 0x80 8 0).setField 0x92 2 0).setField 0x70 8 (Config.freeNat r.2.free)) with
            gyle := Gyle.reset, health := Health.zero, fhPos := 0, gPos := 0, perfPos := 0, ringFailed := []
            perfLost := false, perfUnread := 0, poolPosted := false, quotaPosted := false, stale := [] })).setState x .loaded
        d.complete h 0 0)

/-! ## The end of a context (R245, R246) -/

/-- Pending commands of a context complete with a status. -/
def Dev.endCmds (d : Dev) (x : Nat) (status : W16) : Dev :=
  let c := d.ctx x
  let d := d.completeOpt c.gyle.cmd status 0
  let d := d.completeOpt (c.resil.waiting.map (·.hdr)) status 0
  let d := d.completeOpt (c.resil.racking.map (·.cmd)) status 0
  let d := c.nearPending.foldl (fun d p => d.completeOpt p.2 status 0) d
  let mine := d.host.copies.filter (fun e => e.2.hdr.queue == .context && e.2.hdr.ctx == x)
  let d := mine.foldl (fun d e => d.complete e.2.hdr status 0) d
  { d with host := { d.host with copies := d.host.copies.filter (fun e =>
      !(e.2.hdr.queue == .context && e.2.hdr.ctx == x)) } }

/-- Every hold of a context on an object is released (Table 7.7). -/
def Dev.releaseAll (d : Dev) (x : Nat) : Dev :=
  (d.ctx x).objects.foldl (fun d e =>
    match tget? d.objs e.2 with
    | some o => d.releaseHold x e.2 o none
    | none => d) (d.modCtx x (fun c => { c with nearPending := [] }))

/-- The open windows of a context take no further write (Table 10.7). -/
def Dev.closeWindowsOf (d : Dev) (x : Nat) : Dev :=
  { d with windows := d.windows.map (fun w =>
      (w.1, if w.2.body.owner = x ∧ w.2.state = .open then { w.2 with state := .closing } else w.2)) }

/-- A context's sends, collectives and messages are dropped. -/
def Dev.dropTraffic (d : Dev) (x : Nat) : Dev :=
  let d := d.modCtx x (fun c => { c with sends := [], msgs := [], collNext := [] })
  { d with chans := d.chans.map (fun e =>
      (e.1, match e.2.run with
        | some r => if r.ctx = x then { e.2 with run := none } else e.2
        | none => e.2)) }

/-- The slots of a context that ends: a pending pre-emption is over, and a descriptor that has not started ends with
CONTEXT_KILLED (R245, Table 8.7). -/
def Dev.endSlots (d : Dev) (x : Nat) : Dev :=
  (d.slotsOf x).foldl (fun d s => d.modSlot s.1 s.2 (fun k => { k with
    preempt := false
    descs := k.descs.map (fun q => if q.st = .queued then { q with st := .finished Code.contextKilled } else q) })) d

/-- A context leaves the life of Table 8.4: commands, windows, objects and saves go; `next` is what it becomes. -/
def Dev.endCtx (d : Dev) (x : Nat) (status : W16) (next : CtxState) : Dev :=
  let d := (((d.endCmds x status).closeWindowsOf x).releaseAll x).endSlots x
  let d := (d.dropTraffic x).modCtx x (fun c => { c with
    gyle := Gyle.reset
    saved := [], savedQueues := [], savedStreams := [], swapping := false, preempting := false, halted := false
    quantumOver := false, probe := none, probeSeen := [], resil := Resil.reset })
  d.setState x next

/-- A kill (R245): the gyle votes ABORT with cause 11 where its vote is still open, and the context is KILLED. A vote
of a LOCAL context has no one to reach. -/
def Dev.kill (d : Dev) (x : Nat) (cmd : Option CmdHdr) : Dev :=
  if (d.ctx x).state.gone then d
  else
    let d := d.abortCause x 11 Code.contextKilled (if cmd.isSome then srcHost else 0)
    let d := if (d.ctx x).coordMode = 0 then d else d.castVote x
    let d := (d.endCtx x Code.contextKilled .killed).modCtx x (fun c => { c with killCmd := cmd })
    d.count (schedKey 0x820) 1

def ctxKillEff (h : CmdHdr) (d : Dev) : Dev := d.liveCmd h (fun d => d.kill h.ctx (some h))

/-- Every task of a killed context has stopped: nothing of it is queued or running. A kill that completes is a
scheduling event (R234). -/
def tasksStoppedEff (x : Nat) (d : Dev) : Dev :=
  if (d.ctx x).state == .killed && (d.slotsOf x).all (fun s => !(d.slot s.1 s.2).busy) then
    (d.setState x .sparging).schedule
  else d

/-- A grant scrubbed and its slot, accumulator and cells cleared. -/
def Dev.scrubPlace (d : Dev) (x : Nat) (p : TaskPlace) : Dev :=
  let n := (((d.ctx x).task p.task).map (fun t => t.entry.bound * 0x1000)).getD 0
  let t : SlotIx := if p.slot = 0 then 0 else 1
  let s := d.slot p.core t
  let d := if s.ctx = x ∧ (s.valid ∨ s.state = .yielded) then d.clearSlot p.core t else d
  d.fillGrant p.core p.base n []

/-- A context becomes FREE: grants, records, frames, channels and charges are returned. Its settings stay. -/
def Dev.freeCtx (d : Dev) (x : Nat) : Dev :=
  let c := d.ctx x
  let d := c.places.foldl (fun d p => d.scrubPlace x p) d
  let d := ((d.dropPlaces x).keepSwap x 0).freeFrameList c.tabFrames
  let d := (d.dropXlate x)
  let d := { d with chans := d.chans.map (fun (e : Nat × Chan) => (e.1, if e.2.owner = some x then Chan.reset else e.2)) }
  let k := d.ctx x
  let d := d.setCtx x { Ctx.reset with desc := (k.setField 0xC8 8 0).desc, since := k.since }
  ((d.setState x .free).completeOpt c.killCmd 0 0).completeOpt c.unloadCmd 0 0

/-- Whether a context holds a window that is not FREE. -/
def Dev.hasWindows (d : Dev) (x : Nat) : Bool := d.windows.any (fun w => w.2.body.owner == x && w.2.state != .free)

/-- Every core of a context has been scrubbed; the scratchpad of a core under test is scrubbed after its test (R339). -/
def spargeCompleteEff (x : Nat) (d : Dev) : Dev :=
  let tested := (d.ctx x).places.any (fun p => (d.core p.core).test == .running)
  if (d.ctx x).state == .sparging && !(d.hasWindows x) && !tested then (d.freeCtx x).schedule else d

def ctxUnloadEff (h : CmdHdr) (d : Dev) : Dev :=
  d.liveCmd h (fun d =>
    let x := h.ctx
    let c := d.ctx x
    if c.state = .running ∨ c.state = .blocked then d.complete h Code.contextState 0
    else
      let d := (d.endCtx x Code.gyleAborted .sparging).modCtx x (fun c => { c with unloadCmd := some h })
      if c.places = [] ∧ !(d.hasWindows x) then d.freeCtx x else d)

def ctxResumeEff (h : CmdHdr) (d : Dev) : Dev :=
  d.liveCmd h (fun d =>
    if (d.ctx h.ctx).halted then
      (d.modCtx h.ctx (fun c => { c with halted := false })).complete h 0 0
    else d.complete h Code.contextState 0)

/-! ## CTX_SET (Tables 8.1, 9.8 and 10.10) -/

/-- When the host may change a field. -/
inductive SetRule where
  | never
  | always
  | free
  /-- FREE, by the physical function -/
  | pfFree
  | loadedOrFree
  | notSwapped
  /-- gyle state IDLE or HELD -/
  | quiet
  | pfQuiet
  /-- always; where a gyle runs, it takes effect at the next gyle start -/
  | later
  | pfLater
  | reserved
  deriving DecidableEq, Repr

/-- The fields of a descriptor: offset, size, rule. -/
def descFields : List (Nat × Nat × SetRule) :=
  [(0x00, 4, .never), (0x04, 2, .pfFree), (0x06, 1, .always), (0x07, 1, .always), (0x08, 32, .always),
   (0x28, 1, .free), (0x29, 3, .reserved), (0x2C, 4, .always), (0x30, 4, .always), (0x34, 4, .always),
   (0x38, 4, .always), (0x3C, 4, .always), (0x40, 4, .always), (0x44, 4, .loadedOrFree), (0x48, 8, .loadedOrFree),
   (0x50, 8, .loadedOrFree), (0x58, 4, .loadedOrFree), (0x5C, 4, .reserved), (0x60, 8, .notSwapped),
   (0x68, 8, .notSwapped), (0x70, 16, .never)]
  ++ [(0x80, 9, .never), (0x89, 1, .quiet), (0x8A, 1, .later), (0x8B, 1, .later), (0x8C, 4, .quiet), (0x90, 2, .quiet),
   (0x92, 2, .never), (0x94, 4, .quiet), (0x98, 4, .quiet), (0x9C, 4, .later), (0xA0, 8, .quiet), (0xA8, 8, .quiet),
   (0xB0, 4, .quiet), (0xB4, 4, .later), (0xB8, 8, .reserved)]
  ++ [(0xC0, 2, .never), (0xC2, 2, .reserved), (0xC4, 4, .quiet), (0xC8, 8, .pfQuiet), (0xD0, 8, .quiet),
   (0xD8, 4, .quiet), (0xDC, 4, .later), (0xE0, 8, .quiet), (0xE8, 2, .quiet), (0xEA, 2, .quiet), (0xEC, 4, .later),
   (0xF0, 8, .quiet), (0xF8, 2, .pfLater), (0xFA, 6, .reserved)]

/-- Whether a gyle runs, has voted or is being applied. -/
def Ctx.busyGyle (c : Ctx) : Bool := c.active

/-- What a context's state and the sender say to a write of a field: 0 where it is allowed. -/
def SetRule.status (r : SetRule) (c : Ctx) (fn : Nat) : W16 :=
  let st := fun (b : Bool) => if b then 0 else Code.contextState
  let pf := fun (w : W16) => if fn ≠ 0 then Code.cmdFunction else w
  match r with
  | .never => Code.contextState
  | .always | .later | .reserved => 0
  | .free => st (c.state == .free)
  | .pfFree => pf (st (c.state == .free))
  | .loadedOrFree => st (c.state == .free || c.state == .loaded)
  | .notSwapped => st (c.state != .swapped)
  | .quiet => st (!c.busyGyle)
  | .pfQuiet => pf (st (!c.busyGyle))
  | .pfLater => pf 0

/-- A value that a field may not take: reserved bits, values out of range (CMD_FIELD_INVALID). -/
def badField (off : Nat) (c : Ctx) : Bool :=
  let v := fun (n : Nat) => c.field off n
  match off with
  | 0x04 => decide (64 < v 2)
  | 0x06 => decide (4 ≤ v 1)
  | 0x07 => decide (32 ≤ v 1)
  | 0x28 => decide (v 1 < 30) || decide (42 < v 1)
  | 0x3C => decide (1 ≤ v 4) && decide (v 4 ≤ 65535)
  | 0x89 => decide (3 ≤ v 1)
  | 0x8B => decide (2 ≤ v 1)
  | 0x8C => decide (2 ^ 24 ≤ v 4)
  | 0x90 => decide (1024 ≤ v 2)
  | 0xC4 => decide (2 ^ 24 ≤ v 4)
  | 0xD8 => decide (v 4 < 1) || decide (65535 < v 4)
  | 0xE8 | 0xEA | 0xF8 => decide (4096 < v 2)
  | _ => false

/-- A quota below the current charge (QUOTA_EXCEEDED). -/
def lowQuota (off : Nat) (c : Ctx) : Bool :=
  [(0x2C, 0), (0x30, 1), (0x34, 2), (0x38, 3)].any (fun p => p.1 == off && decide (c.quota p.2 < c.charged p.2))

/-- Channels of a mask that another context holds (CHANNEL_INVALID). -/
def Dev.chanTaken (d : Dev) (x mask : Nat) : Bool :=
  (List.range 64).any (fun n => bitAt mask n && (match (d.chan n).owner with
    | some y => y != x
    | none => false))

/-- The channels of a mask granted to a context, its others returned (R306). -/
def Dev.grantChans (d : Dev) (x mask : Nat) : Dev :=
  (List.range 64).foldl (fun d n =>
    if bitAt mask n then (if (d.chan n).owner = some x then d else d.setChan n { Chan.reset with owner := some x })
    else if (d.chan n).owner = some x then d.setChan n Chan.reset else d) d

/-- Bytes put into a descriptor. -/
def Ctx.setBytes (c : Ctx) (off : Nat) (bs : List Byte) : Ctx := { c with desc := mwrites c.desc off bs }

def ctxSetEff (h : CmdHdr) (offset : W16) (value : List Byte) (d : Dev) : Dev :=
  d.ctxCmd h (fun d =>
    let x := h.ctx
    let c := d.ctx x
    let a := offset.toNat
    let n := value.length
    let touched := descFields.filter (fun f => decide (f.1 < a + n) && decide (a < f.1 + f.2.1))
    let new := c.setBytes a value
    let st := firstFail (touched.map (fun f => f.2.2.status c h.fn))
    if n = 0 ∨ 32 < n ∨ 256 < a + n then d.complete h Code.cmdFieldInvalid 0
    else if touched.any (fun f => f.2.2 == .reserved && new.field f.1 f.2.1 != 0) then
      d.complete h Code.cmdFieldInvalid 0
    else if st ≠ 0 then d.complete h st 0
    else if touched.any (fun f => badField f.1 new) then d.complete h Code.cmdFieldInvalid 0
    else if touched.any (fun f => lowQuota f.1 new) then d.complete h Code.quotaExceeded 0
    else if touched.any (fun f => f.1 == 0xC8) && d.chanTaken x (new.field 0xC8 8) then
      d.complete h Code.channelInvalid 0
    else
      let waits := fun (i : Nat) => c.busyGyle && touched.any (fun f =>
        (f.2.2 == .later || f.2.2 == .pfLater) && decide (f.1 ≤ i) && decide (i < f.1 + f.2.1))
      let bytes := (List.range n).zip value |>.map (fun p => (a + p.1, p.2))
      let d := d.modCtx x (fun c =>
        let now := bytes.filter (fun p => !(waits p.1))
        let next := bytes.filter (fun p => waits p.1)
        { (now.foldl (fun c p => c.setBytes p.1 [p.2]) c) with
          gyle := { c.gyle with nextDesc := c.gyle.nextDesc ++ next } })
      let d := if touched.any (fun f => f.1 == 0xC8) then d.grantChans x ((d.ctx x).field 0xC8 8) else d
      d.complete h 0 0)

def execObjCreate (h : CmdHdr) (entry : AllocEntry) (s : State) : Host.Outcome State Fault Refusal :=
  onCmd s (objCreateEff h entry)
def execObjAttach (h : CmdHdr) (entry : AllocEntry) (s : State) : Host.Outcome State Fault Refusal :=
  onCmd s (objAttachEff h entry)
def execObjRelease (h : CmdHdr) (object : W32) (s : State) : Host.Outcome State Fault Refusal :=
  onCmd s (objReleaseEff h object)
def execObjMoveUp (h : CmdHdr) (object range : W32) (s : State) : Host.Outcome State Fault Refusal :=
  onCmd s (objMoveUpEff h object range)
def execObjMoveDown (h : CmdHdr) (object range : W32) (s : State) : Host.Outcome State Fault Refusal :=
  onCmd s (objMoveDownEff h object range)
def execFnAssign (h : CmdHdr) (ctx fn : W16) (s : State) : Host.Outcome State Fault Refusal :=
  onCmd s (fnAssignEff h ctx fn)
def execCtxLoad (h : CmdHdr) (image : Image) (s : State) : Host.Outcome State Fault Refusal := onCmd s (ctxLoadEff h image)
def execCtxUnload (h : CmdHdr) (s : State) : Host.Outcome State Fault Refusal := onCmd s (ctxUnloadEff h)
def execCtxKill (h : CmdHdr) (s : State) : Host.Outcome State Fault Refusal := onCmd s (ctxKillEff h)
def execCtxResume (h : CmdHdr) (s : State) : Host.Outcome State Fault Refusal := onCmd s (ctxResumeEff h)
def execCtxSet (h : CmdHdr) (offset : W16) (value : List Byte) (s : State) : Host.Outcome State Fault Refusal :=
  onCmd s (ctxSetEff h offset value)
def execTasksStopped (ctx : CtxId) (s : State) : Host.Outcome State Fault Refusal := onDev s (tasksStoppedEff ctx.1)
def execSpargeComplete (ctx : CtxId) (s : State) : Host.Outcome State Fault Refusal :=
  onDev s (spargeCompleteEff ctx.1)

end Sys2Proof.Machine
end

