-- ==== Sys2Proof/Machine/Digest.lean ====
section
/-! DEFINITION. The configuration that an island holds, its digest passes and what a mismatch does (R325). -/

namespace Sys2Proof.Machine

/-! ## Configuration as bytes -/

/-- The 32 bytes of a queue record (Table 5.2). -/
def queueBytes (q : QueueRec) : List Byte :=
  leBytes 2 q.slices ++ leBytes 2 q.sliceRows ++ leBytes 2 q.participants.toNat ++ leBytes 1 q.doneSem
  ++ leBytes 1 q.stealAge ++ leBytes 4 q.strideA.toNat ++ leBytes 4 q.strideOut.toNat ++ leBytes 4 q.strideZmask.toNat
  ++ leBytes 4 q.strideAmax.toNat ++ leBytes 4 q.strideOscale.toNat ++ leBytes 1 q.cluster ++ leBytes 3 0

/-- The 32 bytes of a grist stream record (Table 7.8). -/
def streamBytes (s : StreamRec) : List Byte :=
  leBytes 4 s.object ++ leBytes 2 s.consumers.toNat ++ leBytes 1 s.window ++ leBytes 1 s.lock ++ leBytes 8 s.schedule
  ++ leBytes 4 s.entries ++ leBytes 1 s.cluster ++ leBytes 11 0

/-- The cores of a core island (Table 13.1). -/
def coresOfIsl (isl : Nat) : List Nat :=
  (List.range 8).map (fun k => isl / 256 * 128 + isl % 256 % 8 * 16 + isl % 256 / 8 * 8 + k)

/-- The configuration of a core, each part with the context that it belongs to: cell tables and bindings of its tasks,
and, of no context, its repair setting and its split field. -/
def Dev.coreConfig (d : Dev) (core : Nat) : List (Option Nat × List Byte) :=
  let k := d.core core
  let owner := fun (t : SlotIx) => if (d.slot core t).valid then some (d.slot core t).ctx else none
  k.cells.map (fun (e : Nat × CellSt) => (owner (d.cellSlot core e.1),
      e.2.firing.flatMap (fun f => leBytes 16 f.2.toNat) ++ e.2.routes.flatMap (fun r => leBytes 4 r.2.toNat)))
  ++ k.bindings.map (fun (e : Nat × BindSt) => (owner (bdSlot e.2.cfg), leBytes 16 e.2.cfg.toNat))
  ++ [(none, leBytes 4 (d.rnat (coreKey core 2 0x104)) ++ leBytes 4 (d.rnat (coreKey core 2 0x10)))]

/-- The configuration that an island holds: tables and repair settings of its cores, queue and stream records of its
hub, the staged fields of the management island of die 0. -/
def Dev.islandConfig (d : Dev) (isl : Nat) : List (Option Nat × List Byte) :=
  match islKind isl with
  | 0 => (coresOfIsl isl).flatMap d.coreConfig
  | 1 => (coresOfIsl isl).flatMap d.coreConfig
  | 2 =>
    let c := d.cluster (isl / 256 * 8 + isl % 8)
    c.queues.map (fun (q : WQueue) => (some q.ctx, queueBytes q.rec_))
    ++ c.streams.map (fun (g : GStream) => (some g.ctx, streamBytes g.rec_))
  | 6 =>
    if isl = islMgmt 0 then
      [mempoolKey 0x100, schedKey 0x108, fabricKey 0x100].map (fun k => (none, leBytes 4 (d.rnat k)))
    else []
  | _ => []

/-- The digest of a configuration. The apply unit records it at each configuration epoch; what the device itself
loads between epochs it records too, so that the digest recorded is that of the configuration as it was written
(assumption 131). -/
def configDigest (c : List (Option Nat × List Byte)) : W64 := crc64 (c.flatMap (·.2))

/-- Bytes with some bits upset: place and the bits that are inverted. -/
def upsetAt (flips : List (Nat × Byte)) (pos : Nat) (bs : List Byte) : List Byte :=
  bs.zipIdx.map (fun b => (flips.filter (fun f => f.1 == pos + b.2)).foldl (fun v f => v ^^^ f.2) b.1)

/-- A configuration as the island holds it, with some of its bits upset. -/
def upsetConfig (flips : List (Nat × Byte)) : Nat → List (Option Nat × List Byte) → List (Option Nat × List Byte)
  | _, [] => []
  | pos, p :: r => (p.1, upsetAt flips pos p.2) :: upsetConfig flips (pos + p.2.length) r

/-! ## Passes -/

/-- Contexts with a task placed in an island. -/
def Dev.ctxsIn (d : Dev) (isl : Nat) : List Nat :=
  (d.ctxs.filter (fun e => e.2.places.any (fun p => islOfCore p.core == isl))).map (·.1)

/-- A pass that ends without mismatch counts for each context with tasks in the island; one that mismatches only shows
where the next began, which it does as the first one since the gyle's start. -/
def Dev.passSeen (d : Dev) (isl : Nat) (good : Bool) : Dev :=
  (d.ctxsIn isl).foldl (fun d x => d.modGyle x (fun g =>
    if good || !(g.digestSeen.contains isl) then { g with digestSeen := isl :: g.digestSeen } else g)) d

/-- A digest mismatch: of the DEVICE class where configuration of no context is wrong, else of the GYLE class for the
contexts whose configuration is (Table 11.2). -/
def Dev.digestFail (d : Dev) (isl : Nat) (wrong : List (Option Nat)) : Dev :=
  let d := d.errFire (islKey isl 0) 1 (1 * 2 ^ 8)
  let xs := (wrong.filterMap id).dedup
  let device := wrong.contains none
  let d := d.detect
    { cls := if device then 3 else 1, detector := 0x0C, unitKind := Unit.island, unit := isl, island := isl
      ctx := xs.headD 0xFFFF, status := if device then Code.errDevice else Code.errGyle, address := 0, flags := 0
      page := islKey isl 0 }
  xs.foldl (fun d y => d.abortCause y 10 Code.errGyle (srcIsland isl)) d

/-- An island completes a digest pass: it compares the digest of the configuration that it holds, some of whose bits
may be upset, with the one recorded. -/
def digestPassEff (isl : Nat) (flips : List (Nat × Byte)) (d : Dev) : Dev :=
  let d := d.count (islKey isl 0x828) 1
  let c := d.islandConfig isl
  let held := upsetConfig flips 0 c
  if configDigest held = configDigest c then d.passSeen isl true
  else
    let wrong := ((c.zip held).filter (fun p => p.1.2 != p.2.2)).map (fun p => p.1.1)
    (d.passSeen isl false).digestFail isl wrong

def execDigestPass (isl : Isl) (flips : List (Nat × Byte)) (s : State) : Host.Outcome State Fault Refusal :=
  onNamed s isl (digestPassEff (islId isl) flips)

end Sys2Proof.Machine
end

