-- ==== Sys2Proof/Machine/Casks.lean ====
section
/-! DEFINITION. The cask interval and the choice of cask gyles (R359 to R361). -/

namespace Sys2Proof.Machine

/-- The interval of R360 for a cost in µs, as fail rate and gyle time give it: √(2C ÷ λ) rounded to the nearest
integer, within cask_min and cask_max. Where the mean gyle takes less than 1 µs the quotient has no value, and the
result is a free value between the two bounds (assumption 19). -/
def Ctx.intervalFor (c : Ctx) (cost draw : Nat) : Nat :=
  let lo := c.caskMin
  let hi := c.caskMax
  let rate := c.rf 0 4
  let us := c.resil.gyleUs
  if c.resil.gyleTimes = [] then lo
  else if rate = 0 then hi
  else if cost = 0 then lo
  else if us = 0 then lo + Config.freeNat draw % max (hi + 1 - lo) 1
  else
    let n := (isqrt (4 * (2 * cost * 3600000000000000) / (us * us * rate)) + 1) / 2
    max lo (min n hi)

/-- A participant learns its next cask gyle; one that has begun already is missed (R361). Answers whether it is
missed. -/
def Dev.takeSchedule (d : Dev) (x n : Nat) : Bool × Dev :=
  let c := d.ctx x
  let begun := decide (n < c.num) || (n == c.num && c.gyle.st != .idle && !c.gyle.startPending)
  if begun then (true, d) else (false, d.modResil x (fun r => { r with nextCask := some n }))

/-- SCHED to every participant of a coordinating context; those on this device take it here. None of them has begun
the gyle that is named, which lies two gyles ahead of the coordinator. -/
def Dev.sendSched (d : Dev) (c n : Nat) : Dev :=
  (d.participants c).foldl (fun (d : Dev) (w : Nat × Nat) =>
    if w.1 = d.selfId then (d.takeSchedule w.2 n).2
    else
      let h := d.hdrFrom c 8 3 w.1 w.2 0 (caskBody 5 0 0 0 n 0)
      match d.portFor w.1 with
      | some port => d.drew.sendTracked c port h [] false none none true false
      | none => d) d

/-- The coordinator records a REPORT. With every participant's report on one cask gyle it records the job cask gyle
where all have sealed it, and schedules the next. -/
def Dev.recordReport (d : Dev) (c : Nat) (who : Nat × Nat) (gyle cost : Nat) (sealed : Bool) : Dev :=
  let d := d.noteEvent (islMgmt 0)
  let d := d.modResil c (fun r => { r with reports :=
    (who.1, who.2, gyle, cost, sealed) :: r.reports.filter (fun e => !(e.1 == who.1 && e.2.1 == who.2)) })
  let me := d.ctx c
  let ps := d.participants c
  let on := me.resil.reports.filter (fun e => e.2.2.1 == gyle && ps.contains (e.1, e.2.1))
  if ps = [] ∨ !(ps.all (fun p => on.any (fun e => e.1 == p.1 && e.2.1 == p.2))) then d
  else
    let all := on.all (fun e => e.2.2.2.2)
    let cost := (on.map (fun e => e.2.2.2.1)).foldl max 0
    let n := if all then max (gyle + me.intervalFor cost d.free) (me.num + 2) else me.num + 2
    (d.drew.modResil c (fun r => { r with jobCask := if all then gyle else r.jobCask })).sendSched c n

/-- A report on a cask gyle, by the context's coordination (R361). A missed one is counted and posted as an event;
HOST posts a seal as well, with the fields of Table 12.4. -/
def Dev.report (d : Dev) (x gyle : Nat) (sealed : Bool) : Dev :=
  let c := d.ctx x
  let cost := if sealed then c.resil.cost else 0
  let body := caskBody 6 (b2n (!sealed)) 0 0 gyle cost
  let d := if sealed then d else
    (d.count (resilKey 0x818) 1).ctxEvent x Code.caskMissed (BitVec.ofNat 32 gyle) (leBytes 20 body.toNat)
  if c.coordMode = 0 then
    d.modResil x (fun r => { r with nextCask := some ((if sealed then gyle else c.num) + r.interval) })
  else if c.coordMode = 1 then
    if c.coordinator = d.selfId then d.recordReport c.coordCtx (d.selfId, x) gyle cost sealed
    else
      match d.portFor c.coordinator with
      | some port =>
        d.drew.sendTracked x port (d.hdrFrom x 8 3 c.coordinator c.coordCtx 0 body) [] false none none true false
      | none => d
  else if sealed then d.ctxEvent x 0 (BitVec.ofNat 32 gyle) (leBytes 20 body.toNat)
  else d

/-- The interval and the cost of a context after a seal (R360). -/
def Dev.newInterval (d : Dev) (x : Nat) : Dev :=
  let c := d.ctx x
  d.drew.modResil x (fun r => { r with interval := c.intervalFor r.cost d.free })

/-- The cask gyle that a block which enables casks starts from: none has been sealed, so it lies cask_min gyles
ahead (assumption 20). -/
def Dev.firstCask (d : Dev) (x : Nat) : Dev :=
  let c := d.ctx x
  if c.casksOn && c.resil.nextCask.isNone && c.coordMode != 2 then
    d.modResil x (fun r => { r with nextCask := some (c.num + c.caskMin) })
  else d

end Sys2Proof.Machine
end

