-- ==== Sys2Proof/Machine/Gyles.lean ====
section
/-! DEFINITION. Gyles: start (R253, R314), captures (R353 to R355), votes (R261, R325, R368), decisions (R267 to
R270), commit, abort and replay (R271 to R274) and the gyle commands (R276, Table 9.6). -/

namespace Sys2Proof.Machine

/-! ## Records (Tables 2.5, 2.6 and 9.9) -/

/-- The format-health record of a context. -/
def Ctx.healthBytes (c : Ctx) (x : Nat) (commit : Bool) : List Byte :=
  let h := c.health
  let es := h.entries.filter (fun e => e.2.converted != 0 || e.2.overflow != 0)
  let flags := b2n h.saturated + 2 * b2n (decide (0 < h.nonfiniteTiles)) + 4 * b2n c.gyle.replay
  leBytes 2 1 ++ leBytes 2 x ++ leBytes 1 (b2n (!commit)) ++ leBytes 1 flags ++ leBytes 2 0 ++ leBytes 8 c.num
  ++ leBytes 2 c.epoch ++ leBytes 2 es.length ++ leBytes 4 (64 + 176 * es.length)
  ++ leBytes 8 ((es.map (fun e => 2 ^ e.1)).sum) ++ leBytes 8 h.tiles ++ leBytes 4 h.nonfiniteTiles ++ List.replicate 20 0
  ++ es.flatMap (fun e =>
      leBytes 8 e.2.converted ++ leBytes 8 e.2.overflow ++ leBytes 8 e.2.underflow ++ leBytes 8 e.2.zero
      ++ leBytes 4 e.2.nanIn ++ leBytes 4 e.2.infIn ++ leBytes 8 0
      ++ (List.range 32).flatMap (fun i => leBytes 4 (tget e.2.hist i 0)))

/-- The first cause of an aborted gyle: the context's own, else the decision's with its origin as a partner. -/
def Gyle.firstCause (g : Gyle) : Cause :=
  match g.cause, g.decision with
  | some c, _ => c
  | none, some k =>
    { cause := k.cause, status := k.status, source := if k.origin = 0 then 0 else srcPartner k.origin.toNat }
  | none, none => { cause := 0, status := 0, source := 0 }

/-- The gyle record of a context; `fh` is the slot of its format-health record. -/
def Dev.gyleBytes (d : Dev) (x : Nat) (commit : Bool) (pages blocks fh : Nat) : List Byte :=
  let c := d.ctx x
  let k := if commit then { cause := 0, status := 0, source := 0 } else c.gyle.firstCause
  leBytes 2 1 ++ leBytes 2 x ++ leBytes 1 (b2n (!commit)) ++ leBytes 1 k.cause ++ leBytes 2 k.status.toNat
  ++ leBytes 8 c.num ++ leBytes 2 c.epoch ++ leBytes 2 c.aborts ++ leBytes 4 k.source.toNat
  ++ leBytes 8 c.gyle.hostTime.toNat ++ leBytes 8 c.gyle.seqBegin ++ leBytes 8 (d.seqOf (islMgmt 0))
  ++ leBytes 4 pages ++ leBytes 4 blocks ++ leBytes 4 fh ++ leBytes 4 0

/-- Both records of a gyle end go to their rings, the format-health counts start again, and the gyle record is
answered (R49, R278, R279). -/
def Dev.endRecords (d : Dev) (x : Nat) (commit : Bool) (pages blocks : Nat) : List Byte × Dev :=
  let c := d.ctx x
  let slots := c.field 0x44 4
  let gslots := c.field 0xB0 4
  let w := d.ringPut x 0 (c.field 0x48 8) slots 16384 c.fhPos (c.healthBytes x commit)
  let fh := if w.1 then c.fhPos % max slots 1 else 0xFFFFFFFF
  let rec_ := w.2.gyleBytes x commit pages blocks fh
  let v := w.2.ringPut x 1 (c.field 0xA8 8) gslots 64 c.gPos rec_
  (rec_, v.2.modCtx x (fun c => { c with
    fhPos := (c.fhPos + 1) % max slots 1, gPos := (c.gPos + 1) % max gslots 1, health := Health.zero }))

/-! ## Start (R253) -/

/-- The queues of a context are to be reset, wherever they are (R149). -/
def Dev.resetQueues (d : Dev) (x : Nat) : Dev :=
  let mark := fun (q : WQueue) => { q with resetPending := true }
  let d := d.modCtx x (fun c => { c with savedQueues := c.savedQueues.map mark })
  { d with clusters := d.clusters.map (fun e => (e.1, { e.2 with
      queues := e.2.queues.map (fun q => if q.ctx = x then mark q else q) })) }

/-- A gyle start is recorded: the context is RUNNING its gyle and the actions of Table 9.1 are due. -/
def Dev.startGyle (d : Dev) (x : Nat) (replay : Bool) : Dev :=
  let d := (d.noteEvent (islMgmt 0)).modGyle x (fun g => { g with
    st := .running, startPending := true, cause := none, endedTasks := [], digestSeen := [], decision := none
    noReplay := false, replay := replay })
  let now := d.cycleOf (islMgmt 0)
  let seq := d.seqOf (islMgmt 0)
  let coord := d.coordinates x
  let d := (d.modResil x (fun r => { r with startCycle := now, readyCycle := none })).modGyle x (fun g => { g with
    seqBegin := seq, coord := { g.coord with deadlineRuns := coord } })
  ((if replay then d.count (gyleKey 0x810) 1 else d).resetQueues x).takeEarly x

/-- Action 1: the sequencer of every slot, and what the slot held for its tile program. -/
def Dev.startSlots (d : Dev) (x : Nat) : Dev :=
  let g := (d.ctx x).num
  (d.slotsOf x).foldl (fun d s => d.modSlot s.1 s.2 (fun k =>
    let q : Seq := { Seq.zero with g := (Seq.zero.g.set 6 (BitVec.ofNat 32 (g % 2))).set 7 (BitVec.ofNat 32 g) }
    { k with seq := q, state := .running, stall := .none, loadws := [], planes := [], tile := none, tickets := []
             stopped := false, ended := none, faultStatus := 0, faultDesc := 0, starved := false })) d

/-- An entry of a table as the image has it. -/
def fromImage {α : Type} (image live : Table α) (k : Nat) : Table α :=
  match tget? image k with
  | some v => tset live k v
  | none => live

/-- The configuration that an error has stopped or touched is loaded from the image again: instruction memory, firing,
route and binding entries, and queue records (R328). -/
def Dev.reloadConfig (d : Dev) (x : Nat) : Dev :=
  let c := d.ctx x
  let d := (d.slotsOf x).foldl (fun d s =>
    match c.task (d.slot s.1 s.2).task with
    | none => d
    | some t =>
      let d := d.modSlot s.1 s.2 (fun k => { k with program := t.program })
      let d := d.modSlotCells s.1 s.2 (fun i k =>
        let img := TaskImage_cell t i
        { k with
          firing := k.stoppedEntries.foldl (fromImage img.firing) k.firing, stoppedEntries := []
          routes := k.stoppedRoutes.foldl (fromImage img.routes) k.routes, stoppedRoutes := [] })
      d.modCore s.1 (fun k => { k with bindings := k.bindings.map (fun b =>
        let cfg := (tget? t.cells.bindings b.1).getD b.2.cfg
        (b.1, if bdSlot b.2.cfg = s.2 then { b.2 with cfg := if b.2.stopped then cfg else b.2.cfg, stopped := false }
          else b.2)) })) d
  { d with clusters := d.clusters.map (fun e => (e.1, { e.2 with queues := e.2.queues.map (fun q =>
      match c.queueRecs.find? (fun r => q.ctx == x && r.1 == q.num && r.2.cluster == q.rec_.cluster) with
      | some r => { q with rec_ := r.2 }
      | none => q) })) }

/-- Action 3: tokens discarded and counted, registers, COUNT and ACC state reloaded, bindings at their start. -/
def Dev.startCells (d : Dev) (x : Nat) : Dev :=
  (d.slotsOf x).foldl (fun d s =>
    let d := d.count (coreKey s.1 12 0x848) (d.slotTokens s.1 s.2)
    let t := (d.ctx x).task (d.slot s.1 s.2).task
    let d := d.modSlotCells s.1 s.2 (fun i c =>
      let regs := match t with
        | some t => (TaskImage_cell t i).regs
        | none => c.regs
      { c.flushed with regs := regs, counting := [], tokenCount := [] })
    let d := d.modCore s.1 (fun k => { k with bindings := k.bindings.map (fun b =>
      (b.1, if bdSlot b.2.cfg = s.2 then { b.2 with pos := 0, units := 0 } else b.2)) })
    { d with moves := tdel d.moves (moveKey s.1 s.2) }) d

/-- Action 4: streams at sequence 0 with nothing held (R217). -/
def Dev.startStreams (d : Dev) (x : Nat) : Dev :=
  { d with clusters := d.clusters.map (fun e => (e.1, { e.2 with streams := e.2.streams.map (fun g =>
      if g.ctx = x then { g with low := 0, next := 0, held := [], released := [], named := [] } else g) })) }

/-- Action 5: lines of HOST_BACKED objects invalidated (R209). -/
def Dev.startCaches (d : Dev) (x : Nat) : Dev :=
  (d.ctx x).objects.foldl (fun d p =>
    match (tget? d.objs p.2).bind (fun o => o.hostRange.map (fun r => (r.2, pagesOf o.size * 0x200000))) with
    | some r =>
      { d with clusters := d.clusters.map (fun e => (e.1, { e.2 with cache := e.2.cache.filter (fun l =>
          decide (l * 128 < 2 ^ 60 + r.1) || decide (2 ^ 60 + r.1 + r.2 ≤ l * 128)) })) }
    | none => d) d

/-- Settings written since the last gyle take effect: descriptor bytes, epoch, FP32_EMU, seeds, resilience block
(R277, R316, R317, R351). -/
def Dev.startSettings (d : Dev) (x : Nat) : Dev :=
  let d := d.modCtx x (fun c =>
    let c := c.gyle.nextDesc.foldl (fun c p => c.setBytes p.1 [p.2]) c
    let c := match c.gyle.nextEpoch with
      | some e => c.setField 0xC0 2 e.toNat
      | none => c
    let seed := fun (i : Nat) => BitVec.ofNat 64 (c.field (0x08 + 8 * i) 8)
    { c with
      health := Health.zero, ringFailed := []
      gyle := { c.gyle with nextDesc := [], nextEpoch := none, emuOne := bitAt (c.field 7 1) 1
                            seeds := #v[seed 0, seed 1, seed 2, seed 3] } })
  match (d.ctx x).resil.nextBlock with
  | some b => (d.modResil x (fun r => { r with block := b, nextBlock := none })).firstCask x
  | none => d

/-- A message is of an earlier gyle or attempt than its context is in; attempts count modulo 256, so of two that
differ the one up to 127 behind is earlier (assumption 129). -/
def Dev.earlierAttempt (d : Dev) (x : Nat) (h : MsgHdr) : Bool :=
  let c := d.ctx x
  let behind := (c.field 0x92 2 + 256 - h.attempt.toNat) % 256
  decide (h.gyle.toNat < c.field 0x80 6)
    || (h.gyle.toNat == c.field 0x80 6 && decide (1 ≤ behind ∧ behind < 128))

/-- Every collective and send abandoned, channels at coll_seq 0, and held writes of an earlier gyle or attempt for
versioned windows discarded and counted (R314). -/
def Dev.startFabric (d : Dev) (x : Nat) : Dev :=
  let d := d.modCtx x (fun c => { c with
    sends := [], collNext := [], msgs := c.msgs.filter (fun m => m.cask || m.rack) })
  let d := { d with chans := d.chans.map (fun (e : Nat × Chan) =>
    (e.1, if e.2.owner = some x then { e.2 with collSeq := 0, early := [], run := none } else e.2)) }
  let stale := fun (m : RxMsg) =>
    let w := d.window (bodyField m.hdr 0x24 2)
    m.hdr.type == 1 && w.state == .open && w.body.owner == x && w.body.target == 0
      && d.versionedIn x w.body.base.toNat w.body.size && d.earlierAttempt x m.hdr
  let gone := (d.ports.map (fun (e : Nat × Port) => (e.2.hold.filter stale).length)).sum
  ({ d with ports := d.ports.map (fun (e : Nat × Port) =>
      (e.1, { e.2 with hold := e.2.hold.filter (fun m => !(stale m)) })) }).count (fabricKey 0x838) gone

/-- A capture begins with action 8 of a cask gyle's first attempt; one whose predecessor is still being drained or
exported is skipped, and one that does not fit the staging object stops (R353, R359). -/
def Dev.startCapture (d : Dev) (x : Nat) : Dev :=
  let c := d.ctx x
  if !c.casksOn || c.gyle.replay || c.aborts != 0 || c.resil.nextCask != some c.num then d
  else
    let d := d.modResil x (fun r => { r with nextCask := none })
    let size := match d.staging x with
      | some o => o.2.size
      | none => 0
    if c.resil.drainAt.isSome || c.resil.capture == .draining then
      (d.count (resilKey 0x810) 1).report x c.num false
    else if size < imageLength (d.caskables x) then
      (d.ctxEvent x Code.stagingInvalid (BitVec.ofNat 32 c.num) []).report x c.num false
    else d.modResil x (fun r => { r with capture := .capturing, captured := false, capGyle := c.num })

/-- The actions of Table 9.1, once every queue of the context has been reset. -/
def gyleStartEff (x : Nat) (d : Dev) : Dev :=
  let c := d.ctx x
  let waits := d.clusters.any (fun e => e.2.queues.any (fun q => q.ctx == x && q.resetPending))
  if c.gyle.st != .running || !c.gyle.startPending || c.state != .running || waits then d
  else
    let d := ((((d.startSlots x).startCells x).startStreams x).startCaches x).startSettings x
    let d := (d.startFabric x).reloadConfig x
    let d := (d.slotsOf x).foldl (fun d s => d.modSlot s.1 s.2 (fun k => k.setSem 0 1)) d
    (d.modGyle x (fun g => { g with startPending := false })).startCapture x

/-! ## Captures (R355) -/

/-- The last read of a capture completes; where the gyle's other vote conditions held before, the time since then is
the cask cost. -/
def captureCompleteEff (x : Nat) (d : Dev) : Dev :=
  let c := d.ctx x
  if c.resil.capture != .capturing || c.resil.captured then d
  else
    let d := d.captureImage x
    let cost := match c.resil.readyCycle with
      | some r => (d.cycleOf (islMgmt 0) - r) / 500
      | none => 0
    d.modResil x (fun r => { r with cost := cost })

/-- A COMMIT of the gyle that a capture is of ends it: the header is completed and the image sealed, drained where a holder is named, and
reported (R355, R357, R360, R361). -/
def Dev.sealCapture (d : Dev) (x : Nat) : Dev :=
  let c := d.ctx x
  if c.resil.capture != .capturing || c.resil.capGyle != c.num then d
  else
    let g := c.resil.capGyle
    let d := (d.sealImage x).modResil x (fun r => { r with
      capture := .sealed, caskGyle := g, drainAt := if c.holder = 0 then none else some 0 })
    (d.newInterval x).report x g true

/-! ## Votes -/

/-- Every condition of COMMIT_READY but the capture: END completions, collectives, acknowledged writes, and a digest
pass of every island (R261, R305, R313, R325). -/
def Dev.voteReady (d : Dev) (x : Nat) : Bool :=
  let c := d.ctx x
  (List.range c.tasks.length).all (fun n => c.gyle.endedTasks.contains n)
    && d.chans.all (fun e => match e.2.run with
      | some r => r.ctx != x
      | none => true)
    && c.sends.isEmpty && c.msgs.all (fun m => m.cask || m.rack)
    && c.places.all (fun p => decide (2 ≤ c.gyle.digestSeen.count (islOfCore p.core)))

/-- The restore proof (R368): whether the loss of the gyle that would commit agrees with the image's. -/
def Dev.proofHolds (d : Dev) (x : Nat) : Bool :=
  let c := d.ctx x
  match c.resil.proof with
  | none => true
  | some (l0, dg) =>
    let l := d.ctxNat x (c.rf 0x28 8) 4
    let z := l0.toNat
    if dg = d.layoutDigest x then l == z
    else
      let diff := fabs (fsub l z)
      let lim := fmul (c.rf 0x3C 4) (fabs z)
      !(ofF32 diff).isNan && !(ofF32 lim).isNan && !((ofF32 diff).greater (ofF32 lim))

/-- A failed proof (R368). -/
def Dev.proofFails (d : Dev) (x : Nat) : Dev :=
  let d := (d.abortCause x 10 Code.restoreProof 0).modGyle x (fun g => { g with noReplay := true })
  (d.count (resilKey 0x838) 1).errFire (resilKey 0) 2 (2 + x * 2 ^ 16)

/-- The context votes: ABORT once a cause is recorded, COMMIT_READY once every condition holds. -/
def voteEff (x : Nat) (d : Dev) : Dev :=
  let c := d.ctx x
  if c.gyle.st != .running then d
  else if c.gyle.cause.isSome then d.castVote x
  else if c.gyle.startPending || !(d.voteReady x) then d
  else if c.resil.capture == .capturing && !c.resil.captured then
    let now := d.cycleOf (islMgmt 0)
    d.modResil x (fun r => { r with readyCycle := some (r.readyCycle.getD now) })
  else if d.proofHolds x then d.castVote x
  else (d.proofFails x).castVote x

/-- A GYLE_VOTE message reaches its coordinator. -/
def gyleVoteEff (p : Nat) (d : Dev) : Dev :=
  match d.headMsg p 0 (fun m => m.hdr.type == 6 && (ballotOf m.data).type == 1) with
  | none => d
  | some m =>
    let b := ballotOf m.data
    let d := d.popMsg p 0
    if 1024 ≤ m.hdr.dstCtx.toNat then d
    else d.recordVote m.hdr.dstCtx.toNat (m.hdr.src.toNat, m.hdr.srcCtx.toNat) b m.hdr.attempt.toNat

/-- A GYLE_DECIDE message reaches a participant. -/
def gyleDecideMessageEff (p : Nat) (d : Dev) : Dev :=
  match d.headMsg p 0 (fun m => m.hdr.type == 6 && (ballotOf m.data).type == 2) with
  | none => d
  | some m =>
    let b := ballotOf m.data
    let d := d.popMsg p 0
    if 1024 ≤ m.hdr.dstCtx.toNat then d
    else
      d.decideHere m.hdr.dstCtx.toNat b.job
        { gyle := b.gyle, commit := b.value == 0, cause := b.cause, status := b.status
          origin := BitVec.ofNat 24 b.origin, attempt := m.hdr.attempt.toNat }

/-- The vote deadline expires with votes missing, once its cycle has come (R267). -/
def voteDeadlineEff (x : Nat) (d : Dev) : Dev :=
  if d.coordinates x && (d.ctx x).gyle.coord.deadlineRuns && decide ((d.ctx x).deadlineAt ≤ d.cycleOf (islMgmt 0)) then
    d.expireVotes x
  else d

/-- No decision within decide_timeout: the vote goes out again and GYLE_DECISION_OVERDUE is raised (R270). -/
def decideTimeoutEff (x : Nat) (d : Dev) : Dev :=
  if (d.ctx x).gyle.st == .voted then
    (((d.noteEvent (islMgmt 0)).sendVote x).errFire (gyleKey 0) 2 (2 + x * 2 ^ 16)).ctxEvent x Code.gyleDecisionOverdue 0 []
  else d

/-! ## Commit and abort -/

/-- Task slots stand at instruction 0 between gyles (R252). No task is in a remote wait then, so that a BLOCKED context
is RUNNING again, or RESIDENT where its tasks had yielded. -/
def Dev.rewind (d : Dev) (x : Nat) : Dev :=
  let back := fun (s : Seq) => { s with pc := 0, sem := s.sem.set 0 0 }
  let d := (d.slotsOf x).foldl (fun d s => d.modSlot s.1 s.2 (fun k =>
    { k with seq := back k.seq, state := if k.state == .faulted then .faulted else .idle, stall := .none
             tickets := [], loadws := [], planes := [], tile := none })) d
  let d := d.modCtx x (fun c => { c with saved := c.saved.map (fun v => { v with seq := back v.seq, loadws := [] }) })
  if (d.ctx x).state == .blocked then d.setState x (if (d.slotsOf x).isEmpty then .resident else .running) else d

/-- Dirty pages of a context flip: cur inverted, dirty cleared (R271). -/
def Dev.flipPages (d : Dev) (x : Nat) : Nat × Dev :=
  let marked := (d.ctx x).ptab.filter (fun e => pteVersioned e.2.toNat && pteDirty e.2.toNat)
  (marked.length, d.modCtx x (fun c => marked.foldl (fun c e =>
    let v := e.2.toNat - 256
    c.setPte e.1 (if pteCur v then v - 128 else v + 128)) c))

/-- Blocks saved in the logs of a context are put back, the last index entry first, and the logs cleared (R272). -/
def Dev.restoreLogs (d : Dev) (x : Nat) : Nat × Dev :=
  let d := (d.loggedOf x).foldl (fun d e =>
    (d.logEntries e.2).reverse.foldl (fun d b =>
      let t := ((d.ctx x).translate b.1 false false).2
      d.store 32 t b.2) d) d
  d.clearLogs x

/-- After an abort the other slot of a RESIDENT versioned object is undefined, in its grant or in the saved grant of a
swapped task (Table 9.5). -/
def Dev.spoilSlots (d : Dev) (x g : Nat) : Dev :=
  (d.ctx x).objects.foldl (fun d p =>
    match (tget? d.objs p.2).bind (fun o => if o.isVersioned then o.resident.map (fun r => (o, r)) else none) with
    | none => d
    | some (o, r) =>
      let bs := fun (a : Nat) => freeBytes d.free a o.size
      match d.resAt x o (g + 1) with
      | some a => d.drew.modCore a.1 (fun k => { k with spad := mwrites k.spad a.2 (bs a.2) })
      | none =>
        let at_ := r.2 + (g + 1) % 2 * (unitsOf o.size * 0x1000)
        d.drew.modCtx x (fun c => { c with saved := c.saved.map (fun v =>
          if v.task = r.1 then { v with spad := mwrites v.spad at_ (bs at_) } else v) })) d

/-- A stream with every sequence released. -/
def GStream.ended (g : GStream) : GStream :=
  { g with held := [], released := [], low := g.rec_.entries, next := g.rec_.entries }

/-- Every sequence of a context's streams is released at a gyle's end; those that were held are counted (R213). -/
def Dev.endStreams (d : Dev) (x : Nat) : Dev :=
  let d := d.modCtx x (fun c => { c with savedStreams := c.savedStreams.map GStream.ended })
  d.clusters.foldl (fun d e =>
    let n := ((e.2.streams.filter (fun g => g.ctx == x)).map (·.held.length)).sum
    (d.modCluster e.1 (fun c => { c with streams := c.streams.map (fun g =>
      if g.ctx = x then g.ended else g) })).count (hubKey e.1 3 0x810) n) d

/-- A mean over the last 16 commits in µs, and the times. -/
def Resil.commitTime (r : Resil) (now : Nat) : Resil :=
  let ts := ((now - r.startCycle) / 500 :: r.gyleTimes).take 16
  { r with gyleTimes := ts, gyleUs := ts.sum / max ts.length 1, proof := none }

/-- A COMMIT decision applied (R271). -/
def gyleCommitApplyEff (x : Nat) (d : Dev) : Dev :=
  let c := d.ctx x
  let g := c.num
  match c.gyle.st, c.gyle.decision with
  | .applying, some k =>
    if !k.commit then d
    else
      let d := d.noteEvent (islMgmt 0)
      let f := d.flipPages x
      let l := (f.2.dropXlate x).clearLogs x
      let d := l.2.sealCapture x
      let r := (d.count (gyleKey 0x848) f.1).endRecords x true f.1 l.1
      let d := r.2.modCtx x (fun c => (c.setField 0x80 8 ((g + 1) % 2 ^ 48)).setField 0x92 2 0)
      let now := d.cycleOf (islMgmt 0)
      let d := (d.modResil x (fun r => r.commitTime now)).modGyle x (fun y => { y with
        st := .idle, cmd := none, cause := none, decision := none, applied := some (g, true) })
      let d := (((d.count (gyleKey 0x800) 1).endStreams x).rewind x).completeOpt c.gyle.cmd 0 0
      (d.resumeRestore x).schedule
  | _, _ => d

/-- Whether an aborted gyle is replayed, and the status of its command where it is not (R274). -/
def Ctx.replays (c : Ctx) : Bool × W16 :=
  let cause := c.gyle.firstCause.cause
  let may := c.autoReplay && !c.halted && !c.state.gone && !c.gyle.noReplay
    && !(c.waitRepair && (cause == 7 || cause == 9))
  (may && decide (c.aborts < c.replayLimit),
    if may && decide (c.replayLimit ≤ c.aborts) then Code.gyleReplayLimit else Code.gyleAborted)

/-- An ABORT decision applied, once the context's tasks have come to where R235 stops them, nothing of it is queued or
running, and no capture read is out (R272, R354). A device in the error state replays nothing (R329). -/
def gyleAbortApplyEff (x : Nat) (d : Dev) : Dev :=
  let c := d.ctx x
  let g := c.num
  let quiet := (d.slotsOf x).all (fun s => !(d.slot s.1 s.2).busy
      && (!(d.executes s.1 s.2) || (d.slot s.1 s.2).stall != .none))
    && !(c.resil.capture == .capturing && !c.resil.captured)
  match c.gyle.st, c.gyle.decision with
  | .applying, some k =>
    if k.commit || !quiet then d
    else
      let d := (d.slotsOf x).foldl (fun d s => d.returnAll s.1 s.2) (d.noteEvent (islMgmt 0))
      let f := d.clearDirty x
      let l := f.2.restoreLogs x
      let d := (l.2.spoilSlots x g).count (gyleKey 0x850) l.1
      let r := d.endRecords x false f.1 l.1
      let d := ((r.2.count (gyleKey 0x808) 1).endStreams x).rewind x
      let d := d.modCtx x (fun c => c.setField 0x92 2 (min 65535 (c.aborts + 1)))
      let e := if d.sec.devState = .error then (false, Code.gyleAborted) else (d.ctx x).replays
      let d := d.ctxEvent x (d.ctx x).gyle.firstCause.status 0 (r.1.take 48)
      let d := d.modGyle x (fun y => { y with applied := some (g, false) })
      if e.1 then (d.startGyle x true).schedule
      else
        let d := d.modGyle x (fun y => { y with st := .held, cmd := none, cause := none, decision := none })
        ((d.completeOpt c.gyle.cmd e.2 0).resumeRestore x).schedule
  | _, _ => d

/-! ## Commands (Tables 9.6 and 9.7) -/

/-- A gyle command: refused for a halted context (R247). -/
def Dev.gyleCmd (d : Dev) (h : CmdHdr) (f : Dev → Dev) : Dev :=
  d.liveCmd h (fun d => if (d.ctx h.ctx).halted then d.complete h Code.contextHalted 0 else f d)

/-- Jobs being coordinated. -/
def Dev.jobs (d : Dev) : Nat := (d.ctxs.filter (fun e => d.coordinates e.1 && e.2.inGyle)).length

def gyleBeginEff (h : CmdHdr) (gyle hostTime : W64) (d : Dev) : Dev :=
  d.gyleCmd h (fun d =>
    let x := h.ctx
    let c := d.ctx x
    if 2 ^ 48 ≤ gyle.toNat then d.complete h Code.cmdFieldInvalid 0
    else if c.gyle.st ≠ .idle then d.complete h Code.gyleState 0
    else if gyle.toNat ≠ c.num then d.complete h Code.gyleNumber 0
    else if d.coordinates x && (!(d.plistGood x) || decide (64 ≤ d.jobs)) then d.complete h Code.gyleJobInvalid 0
    else (d.modGyle x (fun g => { g with cmd := some h, hostTime := hostTime })).startGyle x false)

def gyleAbortEff (h : CmdHdr) (gyle : W64) (d : Dev) : Dev :=
  d.gyleCmd h (fun d =>
    let c := d.ctx h.ctx
    if 2 ^ 48 ≤ gyle.toNat then d.complete h Code.cmdFieldInvalid 0
    else if c.gyle.st ≠ .running then d.complete h Code.gyleState 0
    else if gyle.toNat ≠ c.num then d.complete h Code.gyleNumber 0
    else (d.abortOpen h.ctx 12 srcHost).complete h 0 0)

/-- The decision of a host for a context's running gyle. -/
def Dev.hostDecides (d : Dev) (x : Nat) (commit : Bool) (cause : Nat) : Dev :=
  let c := d.ctx x
  d.drew.decideHere x c.job
    { gyle := c.num, commit := commit, cause := if commit then 0 else cause
      status := if commit then 0 else openCode (Config.freeNat d.free), origin := 0, attempt := c.aborts }

def gyleDecideEff (h : CmdHdr) (gyle : W64) (outcome : Byte) (d : Dev) : Dev :=
  d.gyleCmd h (fun d =>
    let c := d.ctx h.ctx
    if 2 ^ 48 ≤ gyle.toNat ∨ 1 < outcome.toNat then d.complete h Code.cmdFieldInvalid 0
    else if c.coordMode ≠ 2 ∨ !(c.gyle.st == .running || c.gyle.st == .voted) then d.complete h Code.gyleState 0
    else if gyle.toNat ≠ c.num then d.complete h Code.gyleNumber 0
    else (d.hostDecides h.ctx (outcome == 0) 13).complete h 0 0)

def gyleResolveEff (h : CmdHdr) (gyle : W64) (outcome : Byte) (d : Dev) : Dev :=
  d.gyleCmd h (fun d =>
    let c := d.ctx h.ctx
    let commit := outcome == 0
    let again := fun (d : Dev) (done : Bool) =>
      if done = commit then d.complete h 0 0
      else (d.errFire (gyleKey 0) 1 (1 + h.ctx * 2 ^ 16)).complete h Code.gyleResolveConflict 0
    if 2 ^ 48 ≤ gyle.toNat ∨ 1 < outcome.toNat then d.complete h Code.cmdFieldInvalid 0
    else if (c.gyle.st == .running || c.gyle.st == .voted) && gyle.toNat == c.num then
      (d.hostDecides h.ctx commit 16).complete h 0 0
    else
      match c.gyle.st, c.gyle.decision, c.gyle.applied with
      | .applying, some k, _ => if k.gyle = gyle.toNat then again d k.commit else d.complete h Code.gyleNumber 0
      | .running, _, some (g, done) => if g = gyle.toNat then again d done else d.complete h Code.gyleNumber 0
      | .voted, _, some (g, done) => if g = gyle.toNat then again d done else d.complete h Code.gyleNumber 0
      | _, _, some (g, done) => if g = gyle.toNat then again d done else d.complete h Code.gyleState 0
      | .idle, _, none => d.complete h Code.gyleState 0
      | .held, _, none => d.complete h Code.gyleState 0
      | _, _, none => d.complete h Code.gyleNumber 0)

def gyleReplayEff (h : CmdHdr) (d : Dev) : Dev :=
  d.gyleCmd h (fun d =>
    if (d.ctx h.ctx).gyle.st ≠ .held then d.complete h Code.gyleState 0
    else (d.modGyle h.ctx (fun g => { g with cmd := some h })).startGyle h.ctx true)

def execGyleBegin (h : CmdHdr) (gyle hostTime : W64) (s : State) : Host.Outcome State Fault Refusal :=
  onCmd s (gyleBeginEff h gyle hostTime)
def execGyleAbort (h : CmdHdr) (gyle : W64) (s : State) : Host.Outcome State Fault Refusal := onCmd s (gyleAbortEff h gyle)
def execGyleDecide (h : CmdHdr) (gyle : W64) (outcome : Byte) (s : State) : Host.Outcome State Fault Refusal :=
  onCmd s (gyleDecideEff h gyle outcome)
def execGyleResolve (h : CmdHdr) (gyle : W64) (outcome : Byte) (s : State) : Host.Outcome State Fault Refusal :=
  onCmd s (gyleResolveEff h gyle outcome)
def execGyleReplay (h : CmdHdr) (s : State) : Host.Outcome State Fault Refusal := onCmd s (gyleReplayEff h)
def execGyleStart (ctx : CtxId) (s : State) : Host.Outcome State Fault Refusal := onDev s (gyleStartEff ctx.1)
def execCaptureComplete (ctx : CtxId) (s : State) : Host.Outcome State Fault Refusal :=
  onDev s (captureCompleteEff ctx.1)
def execVote (ctx : CtxId) (s : State) : Host.Outcome State Fault Refusal := onDev s (voteEff ctx.1)
def execGyleVote (port : PortId) (s : State) : Host.Outcome State Fault Refusal := onDev s (gyleVoteEff port.1)
def execGyleDecideMessage (port : PortId) (s : State) : Host.Outcome State Fault Refusal :=
  onDev s (gyleDecideMessageEff port.1)
def execVoteDeadline (ctx : CtxId) (s : State) : Host.Outcome State Fault Refusal := onDev s (voteDeadlineEff ctx.1)
def execDecideTimeout (ctx : CtxId) (s : State) : Host.Outcome State Fault Refusal := onDev s (decideTimeoutEff ctx.1)
def execGyleCommitApply (ctx : CtxId) (s : State) : Host.Outcome State Fault Refusal :=
  onDev s (gyleCommitApplyEff ctx.1)
def execGyleAbortApply (ctx : CtxId) (s : State) : Host.Outcome State Fault Refusal :=
  onDev s (gyleAbortApplyEff ctx.1)

end Sys2Proof.Machine
end

