-- ==== Sys2Proof/Machine/Power.lean ====
section
/-! DEFINITION. Power capping, frequency and voltage (R466 to R468, R474 to R476), thermal limits and the trip
(R477 to R479), and the POWER page (R489). -/

namespace Sys2Proof.Machine

/-! ## Limits (R475, R467) -/

/-- The bin maximum in MHz. -/
def Dev.binMax (d : Dev) : Nat := if d.fuses.binM then 1000 else 1100

/-- The lowest value of the overlay entries of a type for a die, or `dflt` where that is lower. -/
def Dev.ovLowest (d : Dev) (type die dflt : Nat) : Nat := (d.ovValues type die).foldl min dflt

/-- The throttle start of a die (Table 17.4). -/
def Dev.throttleAt (d : Dev) (die : Nat) : Nat := d.ovLowest 6 die 100

/-- The lowest of the limits of R475, and never below 550 MHz. -/
def Dev.freqTarget (d : Dev) (die : Nat) : Nat :=
  let p := d.diePower die
  max 550 (min (min p.capLimit p.thermalLimit) (min p.currentLimit (d.ovLowest 4 die d.binMax)))

/-- The AVS target of a die for a frequency: the fused value plus the guard of the overlay, at most 850 mV. -/
def Dev.avsTarget (d : Dev) (die freq : Nat) : Nat :=
  min 850 (Config.avsTable d.fuses.avs die freq (d.diePower die).hottest + (d.ovValues 5 die).foldl max 0)

/-- The core and hub islands of a die. -/
def computeIslands (die : Nat) : List Nat := (List.range 24).map (· + 256 * die)

/-- The compute frequency and the AVS target of a die follow its limits (R467, R475). -/
def Dev.setFreq (d : Dev) (die : Nat) : Dev :=
  let p := d.diePower die
  let f := d.freqTarget die
  let d := d.setDiePower die { p with freq := f, vcore := d.avsTarget die f }
  let d := (computeIslands die).foldl (fun d i => d.modIsland i (fun s => { s with freq := f })) d
  if f = p.freq then d else d.count (powerKey die 0x818) 1

/-- STATUS.limit: every limit that sets the frequency in force (Table 17.10). -/
def Dev.limitBits (d : Dev) (die : Nat) : Nat :=
  let p := d.diePower die
  let sets := fun (l : Nat) => l ≤ p.freq && decide (l < d.binMax)
  b2n (sets p.capLimit) + 2 * b2n (sets p.thermalLimit) + 4 * b2n (sets (d.ovLowest 4 die d.binMax))
  + 8 * b2n (sets p.currentLimit) + 16 * b2n (decide (d.binMax ≤ p.freq))

/-- The lowest duty among a die's stacks. -/
def DiePower.lowDuty (p : DiePower) : Nat := p.hotDuty.toList.foldl min p.duty

/-- POWER.STATUS of a die. cap_unmet is kept in the register itself. -/
def Dev.powerStatus (d : Dev) (die : Nat) : Nat :=
  let p := d.diePower die
  d.limitBits die + 32 * b2n (bitAt (d.rnat (powerKey die 0x14)) 5) + 64 * b2n p.issueHold
  + 128 * b2n (decide (p.lowDuty < 16))

/-! ## The 1 ms tick (R474, R476) -/

/-- One die's part of a tick: its estimated power, its design-current limit, and one step of its cap limit, down
while the package is above the cap; whether it steps up below the cap is the controller's choice. -/
def Dev.powerDie (d : Dev) (exceeds : Bool) (die : Nat) (x : Nat × Nat) : Dev :=
  let p := d.diePower die
  let limit := if exceeds then max 550 (min p.capLimit d.binMax - 50)
    else if Config.freeNat d.free % 2 = 0 then min 1100 (p.capLimit + 50) else p.capLimit
  let d := d.drew.setDiePower die { p with power := x.1, currentLimit := x.2, capLimit := limit }
  let d := d.setFreq die
  let bits := d.limitBits die
  let d := d.count (powerKey die 0x800) (b2n (bitAt bits 0))
  let d := d.count (powerKey die 0x808) (b2n (bitAt bits 1))
  d.count (powerKey die 0x810) (b2n p.issueHold)

/-- The duty that the cap allows every stack: down one step a tick while the cap is exceeded with every die at
550 MHz, up one step once it is met. -/
def Dev.capDuty (d : Dev) (exceeds slowest : Bool) : Dev :=
  let duty := (d.diePower 0).duty
  let key := powerKey 0 0x14
  let unmet := exceeds && slowest && decide (duty ≤ 4)
  let next := if exceeds then (if slowest then max 4 (duty - 1) else duty) else min 16 (duty + 1)
  let d := (List.range 4).foldl (fun d i => d.setDiePower i { d.diePower i with duty := next }) d
  if unmet then
    let d := d.rsetNat key (d.rnat key ||| 32)
    if bitAt (d.rnat (powerKey 0 0x18)) 3 then d else d.errFire (powerKey 0 0) 3 (3 * 2 ^ 8)
  else d.rsetNat key (d.rnat key - (d.rnat key &&& 32))

def powerTickEff (r : PowerReading) (d : Dev) : Dev :=
  let exceeds := decide (d.rnat (powerKey 0 0x100) < r.package)
  let slowest := (List.range 4).all (fun i => (d.diePower i).freq == 550)
  let d := d.rsetNat (powerKey 0 0x118) r.package
  let d := d.capDuty exceeds slowest
  r.dies.zipIdx.foldl (fun d e => if e.2 < 4 then d.powerDie exceeds e.2 e.1 else d) d

/-- A cap outside 1,200 to 3,000 W is ignored; another takes effect at the next tick, in register and mirror. -/
def powerCapEff (watts : Nat) (d : Dev) : Dev :=
  if 1200 ≤ watts ∧ watts ≤ 3000 then
    let d := d.rsetNat (powerKey 0 0x100) watts
    { d with mirror := tset d.mirror (powerKey 0 0x100) (BitVec.ofNat 32 watts) }
  else d

/-- The host's write of the cap reaches the controller (R474). -/
def powerCapWriteEff (watts : Nat) (d : Dev) : Dev := d.atBlock (islMgmt 0) (powerCapEff watts)

/-- What a device error that no detector of Table 11.2 reports says of itself: the detector code is left open. -/
def openDetection (d : Dev) (kind unit island : Nat) : Detection :=
  { cls := 3, detector := Config.freeNat d.free % 256, unitKind := kind, unit := unit, island := island, ctx := 0xFFFF,
    status := Code.errDevice, address := 0, flags := 0, page := 0 }

/-- A regulator fails (R468): the die runs at 550 MHz and the command is retried once. -/
def vrRegulationTimeoutEff (die : Nat) (retryFailed : Bool) (d : Dev) : Dev :=
  let d := (d.errFire (powerKey die 0) 1 (1 * 2 ^ 8)).count (powerKey die 0x820) 2
  let d := d.setDiePower die { d.diePower die with capLimit := 550 }
  let d := d.setFreq die
  if retryFailed then d.drew.deviceError (openDetection d Unit.controller 0 (islMgmt die)) else d

/-! ## Temperature (R477 to R479) -/

/-- The trip: THERMTRIP_N is asserted and latched, and the clocks of every core and hub island stop. -/
def thermtripEff (die sensor : Nat) (d : Dev) : Dev :=
  let d := { d with pins := { d.pins with thermtrip := true } }
  let d := ((List.range 4).flatMap computeIslands).foldl
    (fun d i => d.modIsland i (fun s => { s with clocksStopped := true })) d
  d.errFire (powerKey die 0) 0 sensor

/-- The thermal limit of a die after a sample: down one step a millisecond from the throttle start until the
reading is at or below the start less 2, then up one step every 10 ms. -/
def DiePower.throttle (p : DiePower) (start hottest fmax : Nat) (ms1 ms10 : Bool) : DiePower :=
  let low := decide (hottest + 2 ≤ start)
  let lowering := decide (start ≤ hottest) || (p.lowering && !low)
  let limit := if lowering then (if ms1 then max 550 (min p.thermalLimit fmax - 50) else p.thermalLimit)
    else if low && ms10 then min 1100 (p.thermalLimit + 50) else p.thermalLimit
  { p with hottest := hottest, lowering := lowering, thermalLimit := limit
           issueHold := if 105 ≤ hottest then true else if hottest ≤ 100 then false else p.issueHold }

/-- The duty of one stack after a sample. -/
def stackDuty (old temp : Nat) (ms1 : Bool) : Nat :=
  if 92 ≤ temp then (if ms1 then max 4 (old - 1) else old) else if temp ≤ 88 then 16 else old

/-- A stack's reading: its duty and HBM.STATUS.temperature. -/
def Dev.stackSample (d : Dev) (die j temp : Nat) (ms1 : Bool) : Dev :=
  let p := d.diePower die
  let key := hbmKey (4 * die + j) 0 0x14
  let v := d.rnat key
  let d := d.rsetNat key (v / 2 ^ 24 * 2 ^ 24 + temp % 256 * 2 ^ 16 + v % 2 ^ 16)
  if h : j < 4 then
    d.setDiePower die { p with hotDuty := p.hotDuty.set j (stackDuty (p.hotDuty[j]) temp ms1) h }
  else d

def thermalSampleEff (die : Nat) (t : DieTemps) (ms1 ms10 : Bool) (d : Dev) : Dev :=
  let d := if t.badSensor then d.errFire (powerKey die 0) 2 (t.sensor + 2 * 2 ^ 8) else d
  let d := t.stackTemps.zipIdx.foldl (fun d e => d.stackSample die e.2 e.1 ms1) d
  if 115 ≤ t.hottest ∨ t.stackTemps.any (fun x => decide (105 ≤ x)) then thermtripEff die t.sensor d
  else
    let p := d.diePower die
    (d.setDiePower die (p.throttle (d.throttleAt die) t.hottest d.binMax ms1 ms10)).setFreq die

def execPowerTick (r : PowerReading) (s : State) : Host.Outcome State Fault Refusal := onDev s (powerTickEff r)
def execPowerCapWrite (watts : Nat) (s : State) : Host.Outcome State Fault Refusal := onDev s (powerCapWriteEff watts)
def execVrRegulationTimeout (die : DieId) (retryFailed : Bool) (s : State) : Host.Outcome State Fault Refusal :=
  onDev s (vrRegulationTimeoutEff die.1 retryFailed)
def execThermalSample (die : DieId) (t : DieTemps) (ms1 ms10 : Bool) (s : State) : Host.Outcome State Fault Refusal :=
  onDev s (thermalSampleEff die.1 t ms1 ms10)
def execThermtrip (die : DieId) (sensor : Nat) (s : State) : Host.Outcome State Fault Refusal :=
  onDev s (thermtripEff die.1 sensor)

end Sys2Proof.Machine
end

