-- ==== Sys2Proof/Machine/Islands.lean ====
section
/-! DEFINITION. Crossings between islands (R379 to R384), reset notices and lost crossings (R382), frequencies
(R378) and droop (R385). -/

namespace Sys2Proof.Machine

/-- The channel number that a crossing's control events use. -/
def eventChannel : Nat := 64

/-! ## Transfers and events (R379 to R381) -/

/-- A group of a die-to-die link fails its CRC and is retried: counted, captured and recorded as CORRECTED (Tables
11.2 and 13.7). The number of the crossing is a free value. -/
def Dev.linkRetry (d : Dev) (src dst : Nat) : Dev :=
  let a := src / 256
  let b := dst / 256
  let n := Config.freeNat d.free % 256
  let d := (d.drew.count (islKey src 0x830) 1).errFire (islKey src 0) 2 (n + 2 * 2 ^ 8)
  d.detect
    { cls := 0, detector := 0x0B, unitKind := Unit.dieLink, unit := min a b * 4 + max a b, island := src, ctx := 0xFFFF
      status := 0, address := 0, flags := 0, page := islKey src 0 }

/-- A parity error on a core's crossing: the hub's page shows it, with a core of the core island (Table 16.12). Which
of its eight cores it is, is a free value. -/
def Dev.crossParity (d : Dev) (core hub : Nat) : Dev :=
  d.drew.errFire (hubKey (hub / 256 * 8 + hub % 256 - 16) 0 0) 1 (core % 256 / 8 * 8 + Config.freeNat d.free % 8)

/-- What a transfer that is found bad leaves: a group of a die-to-die link is retried, a core's crossing reports its
parity error; for other crossings the spec names no detector. -/
def Dev.badTransfer (d : Dev) (src dst : Nat) : Dev :=
  if src / 256 ≠ dst / 256 then d.linkRetry src dst
  else if islKind src ≤ 1 ∧ islKind dst = 2 then d.crossParity src dst
  else if islKind src = 2 ∧ islKind dst ≤ 1 then d.crossParity dst src
  else d

/-- A value crosses from an island to a neighbour (R379, R380). -/
def crossingTransferEff (src dst : Nat) (bad : Bool) (d : Dev) : Dev :=
  let d := if bad && d.crossOpen src dst then d.badTransfer src dst else d
  d.hop src dst

/-! ## The merged log (R388, R389) -/

/-- A link from a stamp's event to another's: an earlier event of the same island, or an event of the sending island
whose sequence the transfer carried. -/
def Stamp.leadsTo (a b : Stamp) : Bool :=
  (a.island == b.island && decide (a.sequence < b.sequence))
    || (a.island == b.causeIsland && decide (a.sequence ≤ b.causeSequence))

/-- The merged log of the stamps, in ascending sequence, die and island. -/
def Dev.mergedLog (d : Dev) : List Stamp := sortBy (fun s => s.sequence * 65536 + s.island) d.stamps

/-- The merged log of the error records, in the same order. -/
def Dev.mergedRecords (d : Dev) : List ErrRec := sortBy (fun r => r.sequence * 65536 + r.island) d.ras.log

/-- An event pulse on its way: the request toggle inverts and the receiver takes one pulse. The acknowledgement
returns at a later tick. -/
def Dev.sendPulse (d : Dev) (src dst : Nat) : Dev :=
  let x := d.cross src dst
  let c := d.seqOf src
  let d := d.setCross src dst { x with req := tset x.req eventChannel (!(tget x.req eventChannel false)) }
  (d.receive dst c).stamp dst src 0 c

/-- An event channel awaits its acknowledgement. -/
def Cross.awaits (x : Cross) : Bool := tget x.req eventChannel false != tget x.ack eventChannel false

/-- A control event: sent where the channel is free; else pending, and further ones merge into it. -/
def crossingEventEff (src dst : Nat) (d : Dev) : Dev :=
  let x := d.cross src dst
  if !(d.crossOpen src dst) then d
  else if !x.awaits then d.sendPulse src dst
  else if x.pending then d.count (islKey src 0x810) 1
  else d.setCross src dst { x with pending := true }

/-- Every event channel sees its acknowledgement; a pending event is sent. -/
def Dev.ackEvents (d : Dev) : Dev :=
  d.crossings.foldl (fun d e =>
    let src := e.1 / 1024
    let dst := e.1 % 1024
    if e.2.awaits then
      let x := d.cross src dst
      let d := d.setCross src dst { x with
        ack := tset x.ack eventChannel (tget x.req eventChannel false), pending := false }
      if x.pending then d.sendPulse src dst else d
    else d) d

/-! ## Lost crossings (R382) -/

/-- The unit that a lost crossing is held against: a die-to-die link, or the island that does not answer. -/
def lostUnit (src dst : Nat) : Nat × Nat :=
  let a := src / 256
  let b := dst / 256
  if a ≠ b then (Unit.dieLink, min a b * 4 + max a b) else (Unit.island, dst)

/-- LINK_DOWN: ISLAND and DIE pages, the apply that named the island, and the device error. The number of the
crossing is a free value. -/
def Dev.lostCrossing (d : Dev) (src dst : Nat) : Dev :=
  let n := Config.freeNat d.free % 256
  let d := d.drew.errFire (islKey src 0) 0 n
  let d := d.errFire (dieKey (src / 256) 0) 0 (dst % 256)
  let d := if islKind src = 6 ∧ islKind dst = 5 then d.errFire (dieKey (src / 256) 0) 2 (dst % 256) else d
  let d := (d.applyLost src).applyLost dst
  let u := lostUnit src dst
  d.deviceError { cls := 3, detector := 0x0D, unitKind := u.1, unit := u.2, island := src, ctx := 0xFFFF,
                  status := Code.errDevice, address := 0, flags := 0, page := islKey src 0 }

/-- One direction of a crossing as a reset notice leaves it: nothing pending, toggles at their start, closed. -/
def Cross.flushed : Cross := { Cross.reset with closed := true }

/-- The cell links between two islands as a reset notice leaves them. -/
def Dev.flushLinks (d : Dev) (a b : Nat) : Dev :=
  { d with crossings := d.crossings.filter (fun e => decide (e.1 < linkKeyStep)
      || (e.1 % linkKeyStep != crossKey a b && e.1 % linkKeyStep != crossKey b a)) }

/-- The neighbour dst sees the notice of src. Outside start-up and device reset that is a device error. -/
def resetNoticeEff (src dst : Nat) (d : Dev) : Dev :=
  if crossChannels src dst = 0 then d
  else
    let d := (d.receive dst (d.seqOf src)).flushLinks src dst
    let d := (d.setCross src dst Cross.flushed).setCross dst src Cross.flushed
    if d.sec.devState == .booting then d else d.lostCrossing dst src

/-- The island src has waited 4,096 of its cycles for an acknowledgement from dst. -/
def crossingTimeoutEff (src dst : Nat) (d : Dev) : Dev :=
  if crossChannels src dst = 0 then d else d.lostCrossing src dst

/-! ## Frequency and droop (R378, R385) -/

/-- Whether an island may run at a frequency (Table 13.2). -/
def Dev.freqGood (d : Dev) (isl mhz : Nat) : Bool :=
  match islKind isl with
  | 0 => decide (550 ≤ mhz ∧ mhz ≤ d.binMax)
  | 1 => decide (550 ≤ mhz ∧ mhz ≤ d.binMax)
  | 2 => decide (550 ≤ mhz ∧ mhz ≤ d.binMax)
  | 3 => mhz == 1600
  | 4 => mhz == 1600
  | 5 => mhz == 2000
  | 6 => mhz == 500
  | _ => mhz == 1000

/-- An island changes its own frequency; no other island and no crossing is told. -/
def frequencyChangeEff (isl mhz : Nat) (d : Dev) : Dev :=
  if d.freqGood isl mhz then d.modIsland isl (fun s => { s with freq := mhz }) else d

def droopStartEff (isl : Nat) (d : Dev) : Dev :=
  let s := d.island isl
  if s.run != .run || s.stretching then d
  else (d.setIsland isl { s with stretching := true }).count (islKey isl 0x818) 1

def droopEndEff (isl stretched : Nat) (d : Dev) : Dev :=
  let s := d.island isl
  if !s.stretching then d
  else (d.setIsland isl { s with stretching := false }).count (islKey isl 0x820) stretched

/-- The answer of a command that names two islands. -/
def onPair (s : State) (src dst : Isl) (f : Dev → Dev) : Host.Outcome State Fault Refusal :=
  if dst.nn.1 = 34 ∧ dst.d.1 ≠ 0 then .fault (.noSuchIsland (islId dst)) else onNamed s src f

def execCrossingTransfer (src : Isl) (dst : Meeting Isl Bool) (s : State) : Host.Outcome State Fault Refusal :=
  onPair s src dst.at_ (crossingTransferEff (islId src) (islId dst.at_) dst.fault)
def execCrossingEvent (src dst : Isl) (s : State) : Host.Outcome State Fault Refusal :=
  onPair s src dst (crossingEventEff (islId src) (islId dst))
def execResetNotice (src dst : Isl) (s : State) : Host.Outcome State Fault Refusal :=
  onPair s src dst (resetNoticeEff (islId src) (islId dst))
def execCrossingTimeout (src dst : Isl) (s : State) : Host.Outcome State Fault Refusal :=
  onPair s src dst (crossingTimeoutEff (islId src) (islId dst))
def execFrequencyChange (isl : Isl) (mhz : Nat) (s : State) : Host.Outcome State Fault Refusal :=
  onNamed s isl (frequencyChangeEff (islId isl) mhz)
def execDroopStart (isl : Isl) (s : State) : Host.Outcome State Fault Refusal := onNamed s isl (droopStartEff (islId isl))
def execDroopEnd (isl : Isl) (stretched : Nat) (s : State) : Host.Outcome State Fault Refusal :=
  onNamed s isl (droopEndEff (islId isl) stretched)

end Sys2Proof.Machine
end

