-- ==== Sys2Proof/Machine/Links.lean ====
section
/-! DEFINITION. The link layer of a TAP port (R283 to R290), and the lookup of a message's partner (R291 to R293,
R433). -/

namespace Sys2Proof.Machine

/-! ## Going down and coming up (R286) -/

/-- The flits that wait on a virtual channel, from the next whole message on. -/
def wholeFrom : List Flit → List Flit
  | [] => []
  | .head h :: r => .head h :: r
  | _ :: r => wholeFrom r

/-- A port's link state forgotten: replay buffer, partly sent and partly received messages. Whole messages stay in
its receive buffer. -/
def Port.dropLink (q : Port) : Port :=
  { q with
    replay := [], resend := 0, resent := 0, txSeq := 0, ack := 1023, ackDue := false, nakDue := false
    discarding := false, part := Vector.replicate 4 none, freed := Vector.replicate 4 0
    tx := q.tx.map wholeFrom
    rxFlits := Vector.ofFn (fun (v : Fin 4) => ((q.rx.get v).map RxMsg.flits).sum) }

def Dev.setPortState (d : Dev) (p code : Nat) : Dev :=
  d.rsetNat (tapKey p 0x14) (d.rnat (tapKey p 0x14) / 4 * 4 + code)

/-- The oldest group has been resent RETRY_LIMIT times: the port goes down and retrains at once. -/
def Dev.portDown (d : Dev) (p : Nat) : Dev :=
  let d := ((d.modPort p Port.dropLink).setPortState p 1).count (tapKey p 0x848) 1
  (d.errFire (tapKey p 0) 0 0).devEvent Code.linkDown (BitVec.ofNat 32 p) []

/-- Every unacknowledged group is to be sent again, or the port goes down. -/
def Dev.resendAll (d : Dev) (p : Nat) : Dev :=
  let q := d.port p
  if q.replay = [] then d
  else if d.rnat (tapKey p 0x104) % 256 ≤ q.resent then d.portDown p
  else d.setPort p { q with resend := q.replay.length, resent := q.resent + 1 }

def retryTimeoutEff (p : Nat) (d : Dev) : Dev := if d.portUp p then d.resendAll p else d

/-- A port in training comes up: both ends start from the first group with every credit. -/
def portTrainedEff (p : Nat) (d : Dev) : Dev :=
  if d.rnat (tapKey p 0x14) % 4 = 1 ∧ d.rnat (tapKey p 0x10) % 2 = 1 then
    (d.modPort p (fun q => { q.dropLink with credits := Port.reset.credits })).setPortState p 2
  else d

/-- TAP.CTL.enable: 0 holds the port down, 1 lets it train. A RETIRED port stays down (Table 11.7). -/
def Dev.enablePort (d : Dev) (p : Nat) (enable : Bool) : Dev :=
  if (d.hist 5 p).state == .retired then d
  else
    let v := d.rnat (tapKey p 0x10) / 2 * 2 + b2n enable
    let d := d.rsetNat (tapKey p 0x10) v
    let d := { d with mirror := tset d.mirror (tapKey p 0x10) (BitVec.ofNat 32 v) }
    if enable then (if d.rnat (tapKey p 0x14) % 4 = 0 then d.setPortState p 1 else d)
    else (d.modPort p Port.dropLink).setPortState p 0

/-- The host's write of a port's enable bit reaches its island. -/
def tapEnableWriteEff (p : Nat) (enable : Bool) (d : Dev) : Dev :=
  if d.hostUp then d.atBlock (islOfPort p) (fun d => d.enablePort p enable) else d

/-! ## Sending a group (R283, R287) -/

/-- Flits that a channel may send: as many as it waits with and holds credits for. -/
def Port.takeFlits (q : Port) (v : Fin 4) (n : Nat) : List Flit × Port :=
  let fs := (q.tx.get v).take (min n (q.credits.get v))
  (fs, { q with
    tx := q.tx.set v.1 ((q.tx.get v).drop fs.length) v.2
    credits := q.credits.set v.1 (q.credits.get v - fs.length) v.2 })

/-- Up to eight flits for a group, the channels served in ascending order. -/
def Port.fillGroup (q : Port) : List Flit × Port :=
  ([0, 1, 2, 3] : List (Fin 4)).foldl (fun (a : List Flit × Port) v =>
    let t := a.2.takeFlits v (8 - a.1.length)
    (a.1 ++ t.1, t.2)) ([], q)

/-- The credits that a link word returns: in units of eight flits, of the first channel that has eight freed flits. -/
def Port.returnCredits (q : Port) : Nat × Fin 4 × Port :=
  match ([0, 1, 2, 3] : List (Fin 4)).find? (fun v => decide (8 ≤ q.freed.get v)) with
  | none => (0, 0, q)
  | some v =>
    let n := min 63 (q.freed.get v / 8)
    (n, v, { q with freed := q.freed.set v.1 (q.freed.get v - 8 * n) v.2 })

/-- The link word of a group: its number and credits, the acknowledgement that is due, and the CRC (Table 10.1). -/
def Port.wordOf (q : Port) (g : SentGroup) : LinkWord :=
  let w : LinkWord :=
    { seq := g.seq, ack := q.ack, nak := q.nakDue, ackValid := q.ackDue, credit := g.credit, creditVc := g.creditVc
      crc := 0 }
  { w with crc := groupCrc g.flits w }

/-- A group leaves the link layer: its link word carries the acknowledgement, which is then given. -/
def Port.emit (q : Port) (g : SentGroup) : Port :=
  { q with sent := some (g.flits, q.wordOf g), ackDue := false, nakDue := false }

def isIdle : Flit → Bool
  | .idle _ => true
  | _ => false

/-- Flits of a group other than idle ones. -/
def SentGroup.busy (g : SentGroup) : Nat := (g.flits.filter (fun f => !(isIdle f))).length

/-- Idle flits that fill a group up to eight; what they carry is a free value. -/
def Dev.idleFlits (d : Dev) (n : Nat) : List Flit :=
  (List.range n).map (fun i => .idle ((List.range 256).map (fun k => Config.freeByte d.free (256 * i + k))))

/-- A port sends a group with its link word: one of its replay buffer that is to be sent again, or a new one, filled
up with idle flits (R283 to R287). -/
def linkWordSendEff (p : Nat) (d : Dev) : Dev :=
  if !(d.portUp p) then d
  else
    let q := d.port p
    match (if 0 < q.resend then q.replay[q.replay.length - q.resend]? else none) with
    | some g =>
      ((d.setPort p { q.emit g with resend := q.resend - 1 }).count (tapKey p 0x810) 1).count (tapKey p 0x800) g.busy
    | none =>
      if 128 ≤ q.replay.length then d
      else
        let f := q.fillGroup
        let r := f.2.returnCredits
        let g : SentGroup :=
          { seq := q.txSeq, flits := f.1 ++ d.idleFlits (8 - f.1.length), credit := r.1, creditVc := r.2.1 }
        let q := r.2.2.emit g
        (d.drew.setPort p { q with replay := q.replay ++ [g], txSeq := q.txSeq + 1 }).count (tapKey p 0x800) f.1.length

/-! ## Receiving a group (R284 to R287, R290) -/

/-- The link word's acknowledgement: groups up to it leave the replay buffer; one that names no group of it and is
not the last acknowledged is an error. A NAK asks for the rest again. -/
def Dev.takeAck (d : Dev) (p : Nat) (w : LinkWord) : Dev :=
  if !w.ackValid then d
  else
    let q := d.port p
    let before := match q.replay with
      | g :: _ => g.seq - 1
      | [] => q.txSeq - 1
    let d :=
      if w.ack = before then d
      else if q.replay.any (fun g => g.seq == w.ack) then
        let rest := (q.replay.dropWhile (fun g => g.seq != w.ack)).drop 1
        d.setPort p { q with replay := rest, resend := min q.resend rest.length, resent := 0 }
      else d.errFire (tapKey p 0) 2 2
    if w.nak then d.resendAll p else d

/-- The messages of a partner other than ADMIT carry a tag flit where they are encrypted (R433). -/
def Dev.tagged (d : Dev) (h : MsgHdr) : Bool := (d.partner h.src.toNat).encrypted && h.type != 0x07

/-- Every flit of a message is there. -/
def Dev.whole (d : Dev) (m : RxMsg) : Bool :=
  m.data.length == 256 * m.hdr.dataFlits && (!(d.tagged m.hdr) || m.tag.isSome)

/-- A message leaves the receive buffer unanswered. -/
def Dev.freeFlits (d : Dev) (p : Nat) (m : RxMsg) : Dev :=
  d.modPort p (fun q => { q with
    rxFlits := q.rxFlits.set m.hdr.vc.1 (q.rxFlits.get m.hdr.vc - m.flits) m.hdr.vc.2
    freed := q.freed.set m.hdr.vc.1 (q.freed.get m.hdr.vc + m.flits) m.hdr.vc.2 })

/-- An encrypted message opened; none where its tag fails or its counter is not new. The sending port of the nonce
is the partner's, which no field names: the one under which the tag holds. -/
def Dev.openMsg (d : Dev) (p : Nat) (m : RxMsg) : Option (RxMsg × Dev) :=
  if !(d.tagged m.hdr) then some (m, d)
  else
    let k := m.hdr.src.toNat * 4 + m.hdr.vc.1
    match m.tag with
    | none => none
    | some (tag, ctr) =>
      if ctr.toNat ≤ tget (d.port p).counters k 0 then none
      else
        ((List.range 12).findSome? (fun from_ => Config.aesGcmOpen (d.partner m.hdr.src.toNat).keyRx
          (nonceOf m.hdr.vc.1 from_ ctr.toNat) (hdrBytes m.hdr) m.data tag)).map (fun plain =>
            ({ m with data := plain }, d.modPort p (fun q => { q with counters := tset q.counters k ctr.toNat })))

/-- A message whose tag or counter is refused: counted, captured and reported (R433, Tables 15.12 and 15.13). -/
def Dev.decryptFail (d : Dev) (m : RxMsg) : Dev :=
  ((d.count (secKey 0x810) 1).errFire (secKey 0) 2 Code.decryptFailed.toNat).devEvent Code.decryptFailed
    (BitVec.ofNat 32 m.hdr.src.toNat) []

/-- A whole message whose partner is known joins its channel's receive buffer, or is discarded (R293, R433). -/
def Dev.admitMsg (d : Dev) (p : Nat) (m : RxMsg) (put : Dev → RxMsg → Dev) : Dev :=
  if m.hdr.type != 0x07 && !(d.admitted m.hdr.src.toNat) then (d.count (fabricKey 0x810) 1).freeFlits p m
  else
    match d.openMsg p m with
    | none => (d.decryptFail m).freeFlits p m
    | some (m, d) => put d m

/-- A message of a type that Table 10.4 has. -/
def knownType (h : MsgHdr) : Bool := decide (1 ≤ h.type.toNat) && decide (h.type.toNat ≤ 9)

/-- The last flit of a message has come: the port's island records it (R290, R386). -/
def Dev.recordMsg (d : Dev) (p : Nat) (m : RxMsg) : Dev :=
  let isl := islOfPort p
  let d := (d.receive isl m.hdr.sequence.toNat).stamp isl 0xFFFF m.hdr.src.toNat m.hdr.sequence.toNat
  let put := fun (d : Dev) (m : RxMsg) => d.modPort p (fun q => { q with
    rx := q.rx.set m.hdr.vc.1 (q.rx.get m.hdr.vc ++ [m]) m.hdr.vc.2 })
  if !(knownType m.hdr) then (d.count (tapKey p 0x840) 1).freeFlits p m
  else if reservedId m.hdr.src.toNat || reservedId m.hdr.dst.toNat then d.freeFlits p m
  else
    match m.admitted with
    | none => put d m
    | some false => d.freeFlits p m
    | some true => d.admitMsg p m put

/-- The virtual channel of a flit; an idle flit has none. -/
def flitVc (f : Flit) : Option (Fin 4) :=
  match f with
  | .idle _ => none
  | .head h => some h.vc
  | .data v _ => some v
  | .tagFlit v _ _ => some v

/-- Flits of the receive buffer that a channel reserves (R287). -/
def reserveOf (v : Fin 4) : Nat := if v = 0 then 64 else 320

/-- A flit is received: it begins, goes on with or ends the message of its channel. A flit for which neither the
channel's reserve has room nor a credit was returned came without credit. One that belongs to no message is dropped. -/
def Dev.takeFlit (d : Dev) (p : Nat) (f : Flit) : Dev :=
  match flitVc f with
  | none => d
  | some v =>
    let q := d.port p
    let d := if reserveOf v ≤ q.rxFlits.get v + q.freed.get v then d.errFire (tapKey p 0) 1 1 else d
    let d := (d.count (tapKey p 0x808) 1).modPort p (fun q => { q with
      rxFlits := q.rxFlits.set v.1 (q.rxFlits.get v + 1) v.2 })
    let part := (d.port p).part.get v
    let next : Option RxMsg := match f, part with
      | .head h, _ => some { hdr := h, data := [], tag := none, admitted := none }
      | .data _ bs, some m => some { m with data := m.data ++ bs }
      | .tagFlit _ t c, some m => some { m with tag := some (t, c) }
      | _, _ => none
    let keep := fun (d : Dev) (m : Option RxMsg) => d.modPort p (fun q => { q with part := q.part.set v.1 m v.2 })
    match next with
    | none =>
      keep (d.modPort p (fun q => { q with
        rxFlits := q.rxFlits.set v.1 (q.rxFlits.get v - 1) v.2
        freed := q.freed.set v.1 (q.freed.get v + 1) v.2 })) none
    | some m => if d.whole m then (keep d none).recordMsg p m else keep d (some m)

/-- A group arrives: bad ones and those out of order are discarded, the others acknowledged. Credits count once a
group is taken, since a group that is sent again returns the same ones. -/
def groupReceiveEff (p : Nat) (g : Group) (d : Dev) : Dev :=
  if !(d.portUp p) then d
  else if !(groupGood g) then
    let d := ((d.count (tapKey p 0x818) g.fecCorrected).count (tapKey p 0x820) 1).modPort p (fun q => { q with discarding := true, nakDue := true, ackDue := true })
    d.detect
      { cls := 0, detector := 0x0B, unitKind := 5, unit := p, island := islOfPort p, ctx := 0xFFFF, status := 0
        address := 0, flags := 0, page := tapKey p 0 }
  else
    let d := (d.count (tapKey p 0x818) g.fecCorrected).takeAck p g.word
    let q := d.port p
    if !(d.portUp p) then d
    else if g.word.seq ≠ q.ack + 1 then
      let ahead := decide ((g.word.seq - q.ack).toNat < 512)
      d.setPort p { q with ackDue := true, discarding := q.discarding || ahead, nakDue := q.nakDue || (ahead && !q.discarding) }
    else
      let v := g.word.creditVc
      let d := d.setPort p { q with
        ack := g.word.seq, ackDue := true, discarding := false, nakDue := false
        credits := q.credits.set v.1 (q.credits.get v + 8 * g.word.credit) v.2 }
      g.flits.foldl (fun d f => d.takeFlit p f) d

/-! ## The partner lookup (R292) -/

/-- The first message of a channel whose partner is not yet known: in the receive buffer, or still arriving. -/
def Port.unknown (q : Port) (v : Fin 4) : Option RxMsg :=
  match (q.rx.get v).find? (fun m => m.admitted.isNone) with
  | some m => some m
  | none => (q.part.get v).bind (fun m => if m.admitted.isNone then some m else none)

/-- The frame and offset of a partner's entry in the table's store on die 0 (R210, R292). -/
def Dev.partnerPlace (d : Dev) (id : Nat) : Nat × Nat :=
  (d.poolFrames.getD 0 0 + 64 * id / 0x200000, 64 * id % 0x200000)

/-- A cached entry fails its parity: it leaves the cache, so that it is fetched again, and the failure is recorded as
CORRECTED (Table 11.2, Table 10.12). -/
def Dev.partnerParity (d : Dev) (id : Nat) : Dev :=
  let d := { d with sec := { d.sec with pcache := d.sec.pcache.filter (· != id) } }
  (d.errFire (fabricKey 0) 1 1).detect
    { cls := 0, detector := 0x0A, unitKind := Unit.controller, unit := 0, island := islMgmt 0, ctx := 0xFFFF
      status := 0, address := 0, flags := 0, page := fabricKey 0 }

/-- An entry is read through the cache. A miss that reads an uncorrectable word of the table fails, which is an error
of the DEVICE class (R292, R327). -/
def Dev.partnerRead (d : Dev) (id : Nat) (tableBad cacheBad : Bool) : Bool × Dev :=
  let touch := fun (d : Dev) =>
    ({ d with sec := { d.sec with pcache := (id :: d.sec.pcache.filter (· != id)).take 4096 } } : Dev)
  let d := if cacheBad && d.sec.pcache.contains id then d.partnerParity id else d
  if d.sec.pcache.contains id then (true, (touch d).count (fabricKey 0x800) 1)
  else
    let at_ := d.partnerPlace id
    let d := (d.count (fabricKey 0x808) 1).placeRead (.t1 at_.1 at_.2) 64
    if tableBad then
      (false, (d.errFire (fabricKey 0) 0 0).hbmUncorrected (d.stackAt at_.1 at_.2) (d.pcAt at_.1 at_.2) at_.1 0xFFFF false)
    else (true, touch d)

/-- The port's island asks the management island of die 0, and the answer reaches the port; a closed crossing keeps
the message waiting. -/
def partnerLookupEff (p : Nat) (v : Fin 4) (tableBad cacheBad : Bool) (d : Dev) : Dev :=
  match (d.port p).unknown v with
  | none => d
  | some m =>
    if !(d.routeOpen (islOfPort p) (islMgmt 0) && d.routeOpen (islMgmt 0) (islOfPort p)) then d
    else
    let r := (d.carry (islOfPort p) (islMgmt 0)).partnerRead m.hdr.src.toNat tableBad cacheBad
    let d := r.2.carry (islMgmt 0) (islOfPort p)
    let ok := r.1 && (m.hdr.type == 0x07 || d.admitted m.hdr.src.toNat)
    let q := d.port p
    if (q.rx.get v).any (fun m => m.admitted.isNone) then
      let put := fun (d : Dev) (m : RxMsg) => d.modPort p (fun q => { q with
        rx := q.rx.set v.1 (modFirst (fun o => o.admitted.isNone) (fun _ => { m with admitted := some true }) (q.rx.get v)) v.2 })
      let gone := fun (d : Dev) => d.modPort p (fun q => { q with
        rx := q.rx.set v.1 (dropFirst (fun o => o.admitted.isNone) (q.rx.get v)) v.2 })
      if !r.1 then gone (d.freeFlits p m)
      else if ok then
        match d.openMsg p m with
        | some (m, d) => put d m
        | none => gone ((d.decryptFail m).freeFlits p m)
      else gone ((d.count (fabricKey 0x810) 1).freeFlits p m)
    else
      let d := if r.1 && !ok then d.count (fabricKey 0x810) 1 else d
      d.modPort p (fun q => { q with part := q.part.set v.1 (some { m with admitted := some ok }) v.2 })

def execLinkWordSend (port : PortId) (s : State) : Host.Outcome State Fault Refusal := onDev s (linkWordSendEff port.1)
def execGroupReceive (port : PortId) (g : Group) (s : State) : Host.Outcome State Fault Refusal :=
  onDev s (groupReceiveEff port.1 g)
def execRetryTimeout (port : PortId) (s : State) : Host.Outcome State Fault Refusal := onDev s (retryTimeoutEff port.1)
def execPortTrained (port : PortId) (s : State) : Host.Outcome State Fault Refusal := onDev s (portTrainedEff port.1)
def execPartnerLookup (port : PortId) (vc : Fin 4) (bad : LookupFaults) (s : State) :
    Host.Outcome State Fault Refusal := onDev s (partnerLookupEff port.1 vc bad.table bad.cache)
def execTapEnableWrite (port : PortId) (enable : Bool) (s : State) : Host.Outcome State Fault Refusal :=
  onDev s (tapEnableWriteEff port.1 enable)

end Sys2Proof.Machine
end

