-- ==== Sys2Proof/Machine/Resilience.lean ====
section
/-! DEFINITION. Casks at their owner and at their holder (R356 to R361), exports (R362), RESTORE (R364), racking
(R369 to R374), and the answers that arrive for messages (R304, R312). -/

namespace Sys2Proof.Machine

/-! ## The resilience block (R351, R352) -/

/-- n bytes of a block that is to be written. -/
def blockF (b : ResilBytes) (off n : Nat) : Nat := b.toNat / 2 ^ (8 * off) % 2 ^ (8 * n)

/-- A reserved field that is not zero, or a field out of its range. -/
def blockBad (b : ResilBytes) : Bool :=
  bitsOf (blockF b 6 2) 15 3 != 0 || blockF b 0x12 2 != 0 || bitsOf (blockF b 0x0C 4) 31 28 != 0
  || decide (11 < bitsOf (blockF b 0x0C 4) 27 24)
  || (blockF b 8 4 != 0 && decide (blockF b 8 4 < (if blockF b 4 2 = 0 then 16 else blockF b 4 2)))
  || (blockF b 0x20 8 != 2 ^ 64 - 1 && blockF b 0x38 4 == 0)

/-- The staging object or a word address breaks R351. -/
def Dev.stagingBad (d : Dev) (x : Nat) (b : ResilBytes) : Bool :=
  let inside := fun (a n : Nat) => match d.objAt x a with
    | some o => decide (a + n ≤ (o.2.addrIn x).getD 0 + o.2.size)
    | none => false
  (match d.objAt x (blockF b 0x18 8) with
    | some o => o.2.addrIn x != some (blockF b 0x18 8) || !(o.2.flags.getLsbD 0) || o.2.isVersioned || o.2.isLogged
        || o.2.flags.getLsbD 7
    | none => true)
  || (blockF b 0x20 8 != 2 ^ 64 - 1 && !(inside (blockF b 0x20 8) 8)) || !(inside (blockF b 0x28 8) 4)

/-- T3 frames that a block is charged (R352). -/
def Dev.caskCharge (d : Dev) (x : Nat) (b : ResilBytes) : Nat :=
  if blockF b 0x0C 3 = 0 then 0
  else
    match d.objAt x (blockF b 0x18 8) with
    | some o => 2 * pagesOf o.2.size
    | none => 0

def resilSetEff (h : CmdHdr) (b : ResilBytes) (d : Dev) : Dev :=
  d.liveCmd h (fun d =>
    let x := h.ctx
    let c := d.ctx x
    let new := d.caskCharge x b
    let freed := c.subCharges [0, 0, 0, c.resil.charge]
    if blockBad b then d.complete h Code.cmdFieldInvalid 0
    else if d.stagingBad x b then d.complete h Code.stagingInvalid 0
    else if !(freed.canCharge [0, 0, 0, new]) then d.complete h Code.quotaExceeded 0
    else
      let d := (d.setCtx x (freed.addCharges [0, 0, 0, new])).modResil x (fun r => { r with charge := new })
      let d := if c.gyleRuns then d.modResil x (fun r => { r with nextBlock := some b })
        else (d.modResil x (fun r => { r with block := b, nextBlock := none })).firstCask x
      d.complete h 0 0)

/-! ## Slots held for partners (R356) -/

/-- Frames of a die's cask reservation that hold nothing. The partner-table store takes the first 1 GiB of the
reservation on die 0 (R292). -/
def Dev.caskFree (d : Dev) (die : Nat) : List Nat :=
  let lo := d.poolFrames.getD die 0 + storeFrames die
  ((List.range (d.regionFrames die)).filter (fun f => decide (lo ≤ f) && !((d.poolOf die).cask.contains f))).map
    (· + die * 65536)

/-- Frames of the reservation taken for a cask slot: which of them is the device's choice. -/
def Dev.takeCask (d : Dev) (n : Nat) : Option (List Nat × Dev) :=
  let free := [0, 1, 2, 3].flatMap d.caskFree
  if free.length < n then none
  else
    let r := Config.freeNat d.free % free.length
    let fs := (free.drop r ++ free.take r).take n
    some (fs, fs.foldl (fun (d : Dev) f =>
      let p := d.poolOf (f / 65536)
      d.setPool (f / 65536) { p with cask := f % 65536 :: p.cask }) d.drew)

def Dev.giveCask (d : Dev) (fs : List Nat) : Dev :=
  fs.foldl (fun (d : Dev) f =>
    let p := d.poolOf (f / 65536)
    d.setPool (f / 65536) { p with cask := p.cask.filter (· != f % 65536) }) d

/-- The least number from n on that an ascending table lists nothing under. -/
def leastUnused {α : Type} : Table α → Nat → Nat
  | [], n => n
  | e :: r, n => if e.1 = n then leastUnused r (n + 1) else n

/-- A slot is granted under the least number that no slot has; which number, and the key, the spec leaves open. -/
def caskHostEff (h : CmdHdr) (owner ownerCtx size : Nat) (d : Dev) : Dev :=
  d.adminCmd h true (fun d =>
    if 2 ^ 24 ≤ owner ∨ reservedId owner ∨ 1024 ≤ ownerCtx ∨ size = 0 then d.complete h Code.cmdFieldInvalid 0
    else if 65536 ≤ leastUnused d.casks 0 then d.complete h Code.caskSlotSize 0
    else
      match d.takeCask (2 * pagesOf size) with
      | none => d.complete h Code.caskSlotSize 0
      | some (fs, d) =>
        let key := BitVec.ofNat 32 (Config.freeNat d.free)
        let v : CaskVersion := { gyle := 0, sealed := false, lost := false }
        let s : CaskSlot :=
          { owner := owner, ctx := ownerCtx, size := size, key := key, versions := #v[v, v], frames := fs, flipped := false }
        let n := leastUnused d.casks 0
        Dev.completePay { d.drew with casks := tset d.casks n s } h 0 (BitVec.ofNat 32 n)
          (leBytes 4 key.toNat))

def caskReleaseEff (h : CmdHdr) (slot : Nat) (d : Dev) : Dev :=
  d.adminCmd h true (fun d =>
    match tget? d.casks slot with
    | none => d.complete h Code.cmdFieldInvalid 0
    | some s => (Dev.giveCask { d with casks := tdel d.casks slot } s.frames).complete h 0 0)

/-! ## The holder's side (R357, R358) -/

def ckOp (h : MsgHdr) : Nat := bodyField h 0x24 1
def ckVersion (h : MsgHdr) : Nat := bodyField h 0x25 1
def ckSlot (h : MsgHdr) : Nat := bodyField h 0x26 2
def ckKey (h : MsgHdr) : Nat := bodyField h 0x28 4
def ckOffset (h : MsgHdr) : Nat := bodyField h 0x2C 8
def ckBytes (h : MsgHdr) : Nat := bodyField h 0x34 4

/-- A CASK message of an operation at the head of its channel. -/
def Dev.headCask (d : Dev) (p op : Nat) : Option RxMsg :=
  d.headMsg p 3 (fun m => m.hdr.type == 8 && ckOp m.hdr == op)

/-- The checks of R357. A READ may come from any admitted partner that holds the key (Table 12.4). -/
def Dev.caskStatus (d : Dev) (h : MsgHdr) : W16 :=
  match tget? d.casks (ckSlot h) with
  | none => Code.caskSlotInvalid
  | some s =>
    if s.key.toNat ≠ ckKey h then Code.caskSlotInvalid
    else if ckOp h ≠ 2 ∧ (s.owner ≠ h.src.toNat ∨ s.ctx ≠ h.srcCtx.toNat) then Code.caskSlotInvalid
    else if s.size < ckOffset h + ckBytes h then Code.caskSlotSize
    else 0

/-- Bytes put into a held version. -/
def Dev.caskPut (d : Dev) (s : CaskSlot) (older : Bool) (off : Nat) (bs : List Byte) : Dev :=
  ((piecesOf off bs.length).foldl (fun (p : Dev × List Byte) (q : Nat × Nat) =>
    (p.1.store 32 (caskPlace s older q.1) (p.2.take q.2), p.2.drop q.2)) (d, bs)).1

def CaskSlot.version (s : CaskSlot) (older : Bool) : CaskVersion := s.versions.get (if older then 1 else 0)
def CaskSlot.setVersion (s : CaskSlot) (older : Bool) (v : CaskVersion) : CaskSlot :=
  let i : Fin 2 := if older then 1 else 0
  { s with versions := s.versions.set i.1 v i.2 }

def caskWriteEff (p : Nat) (d : Dev) : Dev :=
  match d.headCask p 0 with
  | none => d
  | some m =>
    let d := d.popMsg p 3
    let st := d.caskStatus m.hdr
    match tget? d.casks (ckSlot m.hdr) with
    | none => d.sendNack p m.hdr st 0 0
    | some s =>
      if st ≠ 0 then d.sendNack p m.hdr st 0 0
      else
        let older := ckVersion m.hdr != 0
        let d := d.caskPut s older (ckOffset m.hdr) (m.data.take (ckBytes m.hdr))
        let s := s.setVersion older { s.version older with sealed := false }
        Dev.sendWack { d with casks := tset d.casks (ckSlot m.hdr) s } p m.hdr

/-- The header completes a version, which becomes the newest. -/
def caskSealEff (p : Nat) (d : Dev) : Dev :=
  match d.headCask p 1 with
  | none => d
  | some m =>
    let d := d.popMsg p 3
    let st := d.caskStatus m.hdr
    match tget? d.casks (ckSlot m.hdr) with
    | none => d.sendNack p m.hdr st 0 0
    | some s =>
      if st ≠ 0 then d.sendNack p m.hdr st 0 0
      else
        let older := ckVersion m.hdr != 0
        let head := m.data.take 256
        let d := d.caskPut s older 0 head
        let v : CaskVersion := { gyle := leNat ((head.drop 0x10).take 6), sealed := true, lost := false }
        let s : CaskSlot := if older then { s with versions := #v[v, s.version false], flipped := !s.flipped }
          else s.setVersion false v
        Dev.sendWack { d with casks := tset d.casks (ckSlot m.hdr) s } p m.hdr

/-- RDATA messages for a READ. -/
def Dev.sendRdata (d : Dev) (p : Nat) (m : MsgHdr) (bs : List Byte) : Dev :=
  (rackPieces bs.length).foldl (fun d q =>
    d.sendMsg p
      { d.answerHdr m 8 (caskBody 3 (ckVersion m) (ckSlot m) (ckKey m) (ckOffset m + q.1) q.2) with vc := 3 }
      ((bs.drop q.1).take q.2)) d

/-- A READ: a version that is lost, or that no SEAL has completed, serves none; an uncorrectable word loses it. -/
def caskReadEff (p : Nat) (u : ReadUpset) (d : Dev) : Dev :=
  match d.headCask p 2 with
  | none => d
  | some m =>
    let d := d.popMsg p 3
    let h := m.hdr
    let st := d.caskStatus h
    match tget? d.casks (ckSlot h) with
    | none => d.sendNack p h st 0 0
    | some s =>
      let older := ckVersion h != 0
      let v := s.version older
      if st ≠ 0 then d.sendNack p h st 0 0
      else if 0x400000 < ckBytes h then d.sendNack p h Code.caskSlotSize 0 0
      else if !v.sealed || v.lost then d.sendNack p h Code.restoreSource 0 0
      else
        let bs := d.heldBytes s older (ckOffset h) (ckBytes h)
        let d := d.heldReads s older (ckOffset h) (ckBytes h)
        match caskPlace s older (ckOffset h), u with
        | .t1 f off, .uncorrected =>
          (d.hbmUncorrected (d.stackAt f off) (d.pcAt f off) f 1024 false).sendNack p h Code.restoreSource 0 0
        | .t1 f off, .corrected => ((d.hbmCorrected (d.stackAt f off) (d.pcAt f off) f 0xFFFF).drew).sendRdata p h bs
        | _, _ => d.sendRdata p h bs

/-! ## The owner's side (R357, R358) -/

/-- A piece of the sealed image goes to the holder: its data in ascending offset, then the SEAL. -/
def caskDrainEff (x : Nat) (d : Dev) : Dev :=
  let c := d.ctx x
  match c.resil.drainAt with
  | none => d
  | some off =>
    match d.stagingBytes x with
    | none => d.modResil x (fun r => { r with drainAt := none, capture := .sealed })
    | some bs =>
      let len := bs.length
      if len < off then d
      else if off = len then
        (d.modResil x (fun r => { r with drainAt := some (len + 1), capture := .draining })).sendCask x 1 1 0 256 (bs.take 256)
      else
        let n := min 65536 (len - off)
        ((d.modResil x (fun r => { r with drainAt := some (off + n), capture := .draining })).sendCask x 0 1 off n
          ((bs.drop off).take n)).count (resilKey 0x808) n

/-- A message of a drain. -/
def InFlight.drains (m : InFlight) : Bool := m.cask && (ckOp m.hdr == 0 || ckOp m.hdr == 1)

/-- A drain fails: the holder's newest version stands, and the context learns it. -/
def Dev.drainFails (d : Dev) (x : Nat) (status : W16) : Dev :=
  let d := d.modCtx x (fun c => { c with msgs := c.msgs.filter (fun m => !m.drains) })
  (d.modResil x (fun r => { r with drainAt := none, capture := .sealed })).ctxEvent x status 0 []

def caskDrainTimeoutEff (x : Nat) (d : Dev) : Dev :=
  if (d.ctx x).msgs.any InFlight.drains then d.drainFails x Code.remoteTimeout else d

/-- The owner learns that a held version was lost. -/
def caskLostEff (p : Nat) (d : Dev) : Dev :=
  match d.headCask p 4 with
  | none => d
  | some m =>
    let x := m.hdr.dstCtx.toNat
    let d := (d.popMsg p 3).sendWack p m.hdr
    let c := d.ctx x
    if 1024 ≤ x ∨ c.holder ≠ m.hdr.src.toNat ∨ c.rf 0x10 2 ≠ ckSlot m.hdr then d
    else (d.errFire (resilKey 0) 0 (x * 2 ^ 16)).ctxEvent x Code.caskLost (BitVec.ofNat 32 (ckVersion m.hdr)) []

/-- A participant learns the next cask gyle (R361). -/
def caskSchedEff (p : Nat) (d : Dev) : Dev :=
  match d.headCask p 5 with
  | none => d
  | some m =>
    let x := m.hdr.dstCtx.toNat
    let d := (d.popMsg p 3).sendWack p m.hdr
    let c := d.ctx x
    if 1024 ≤ x ∨ c.state.gone ∨ c.coordinator ≠ m.hdr.src.toNat ∨ c.coordCtx ≠ m.hdr.srcCtx.toNat then d
    else
      let n := ckOffset m.hdr % 2 ^ 48
      let r := d.takeSchedule x n
      if r.1 then r.2.report x n false else r.2

/-- The coordinator records a participant's report (R361). -/
def caskReportEff (p : Nat) (d : Dev) : Dev :=
  match d.headCask p 6 with
  | none => d
  | some m =>
    let x := m.hdr.dstCtx.toNat
    let d := (d.popMsg p 3).sendWack p m.hdr
    if 1024 ≤ x ∨ !(d.coordinates x) then d
    else d.recordReport x (m.hdr.src.toNat, m.hdr.srcCtx.toNat) (ckOffset m.hdr % 2 ^ 48) (ckBytes m.hdr) (ckVersion m.hdr == 0)

def caskScheduleEff (h : CmdHdr) (gyle : Nat) (d : Dev) : Dev :=
  d.liveCmd h (fun d =>
    if 2 ^ 48 ≤ gyle then d.complete h Code.cmdFieldInvalid 0
    else
      let r := d.takeSchedule h.ctx gyle
      (if r.1 then r.2.report h.ctx gyle false else r.2).complete h 0 0)

/-! ## Reading a cask back (R358, R364) -/

/-- The message of the READ that is out. -/
def InFlight.reads (m : InFlight) : Bool := m.cask && ckOp m.hdr == 2

def Dev.dropRead (d : Dev) (x : Nat) : Dev :=
  d.modCtx x (fun c => { c with msgs := c.msgs.filter (fun m => !m.reads) })

/-- Image bytes arrive in ascending offset; the last of a READ leads to the next, or to the check of the image. -/
def caskRdataEff (p : Nat) (d : Dev) : Dev :=
  match d.headCask p 3 with
  | none => d
  | some m =>
    let h := m.hdr
    let x := h.dstCtx.toNat
    let d := d.popMsg p 3
    match (d.ctx x).resil.reading with
    | none => d
    | some r =>
      if !((d.ctx x).msgs.any (fun k => k.reads && k.tag == h.tag)) || ckOffset h != r.got.length then d
      else
        let r := { r with got := r.got ++ m.data.take (ckBytes h) }
        let d := d.modResil x (fun q => { q with reading := some r })
        if r.got.length < r.upTo then d
        else
          let d := d.dropRead x
          let len := leNat ((r.got.drop 0x68).take 8)
          if 256 ≤ r.got.length ∧ len ≤ r.got.length then d.readDone x r else d.readOn x r

/-! ## Export (R362) -/

def ckptExportEff (h : CmdHdr) (addr size : Nat) (d : Dev) : Dev :=
  d.liveCmd h (fun d =>
    let x := h.ctx
    match d.stagingBytes x with
    | none => d.complete h Code.exportInvalid 0
    | some bs =>
      let i := ckptOf bs
      if !i.sealed || i.version != 1 || (d.ctx x).resil.capture == .capturing || decide (size < bs.length) then
        d.complete h Code.exportInvalid 0
      else
        ((d.hostWrite addr bs).count (resilKey 0x820) 1).completePay h 0 0 (leBytes 8 i.gyle ++ leBytes 8 bs.length))

/-! ## RESTORE and RACK_BEGIN (R364, R369) -/

/-- A gyle that runs is aborted with a cause, without replay, by a decision of the device's own; one that has voted,
or whose decision is being applied, is only not replayed. -/
def Dev.stopGyle (d : Dev) (x cause : Nat) : Dev :=
  let quiet := fun (d : Dev) => d.modGyle x (fun g => { g with noReplay := true })
  match (d.ctx x).gyle.st with
  | .running =>
    let d := (d.abortOpen x cause srcHost).castVote x
    let c := d.ctx x
    let k := c.gyle.cause
    let k : Decision :=
      { gyle := c.num, commit := false, cause := (k.map (·.cause)).getD cause, status := (k.map (·.status)).getD 0
        origin := BitVec.ofNat 24 d.selfId, attempt := c.aborts % 256 }
    quiet (d.modGyle x (fun g => { g with st := .applying, decision := some k }))
  | .voted => quiet d
  | .applying => quiet d
  | _ => d

def restoreEff (h : CmdHdr) (source version reserved : Nat) (expected : W64) (addr : Nat) (hostFail : Bool) (d : Dev) :
    Dev :=
  d.liveCmd h (fun d =>
    let x := h.ctx
    let c := d.ctx x
    if 2 < source ∨ 1 < version ∨ reserved ≠ 0 then d.complete h Code.cmdFieldInvalid 0
    else if c.resil.waiting.isSome || c.resil.racking.isSome then d.complete h Code.contextState 0
    else
      let q : RestoreReq :=
        { hdr := h, source := source, version := version, expected := expected, addr := addr, hostFail := hostFail }
      ((d.modResil x (fun r => { r with waiting := some q })).stopGyle x 12).resumeRestore x)

/-- A racking in progress gives way to one of another epoch (R372). -/
def Dev.abandonRack (d : Dev) (x : Nat) (k : Rack) : Dev :=
  let d := d.modCtx x (fun c => { c with msgs := c.msgs.filter (fun m => !m.rack && !m.reads) })
  let d := d.modResil x (fun r => { r with racking := none, rack := .none, reading := none })
  let d := ((d.count (resilKey 0x848) 1).errFire (resilKey 0) 3 (3 + x * 2 ^ 16)).ctxEvent x Code.rackAbandoned
    (BitVec.ofNat 32 k.body.epoch.toNat) []
  d.complete k.cmd Code.rackAbandoned 0

def rackBeginEff (h : CmdHdr) (b : RackBody) (ownFail sendFail : Bool) (d : Dev) : Dev :=
  d.liveCmd h (fun d =>
    let x := h.ctx
    let c := d.ctx x
    let same := match c.resil.racking with
      | some k => k.body.epoch == b.epoch
      | none => false
    if !b.reservedZero || decide (2 < b.ownSource) || decide (65535 < b.entries) || decide (2 ^ 48 ≤ b.gyle) then
      d.complete h Code.cmdFieldInvalid 0
    else if c.waitRepair && b.shardChange then d.complete h Code.rackPolicy 0
    else if same || c.resil.waiting.isSome then d.complete h Code.contextState 0
    else
      let d := match c.resil.racking with
        | some k => d.abandonRack x k
        | none => d
      let d := d.modCtx x (fun c => c.setField 0xC0 2 b.epoch.toNat)
      let d := (d.modGyle x (fun g => { g with nextEpoch := none })).stopGyle x 9
      let d := if (d.ctx x).inGyle then d else d.modGyle x (fun g => { g with st := .held })
      let k : Rack :=
        { cmd := h, body := b, ownFail := ownFail, sendFail := sendFail, plan := [], restored := false, seeds := []
          proof := (0, 0), received := [] }
      (d.modResil x (fun r => { r with rack := .racking, racking := some k })).resumeRestore x)

/-- The expect entry that a RACK message belongs to: its index. -/
def Rack.expectOf (k : Rack) (h : MsgHdr) : Option Nat :=
  let off := bodyField h 0x28 8
  let n := bodyField h 0x30 4
  (k.plan.zipIdx.find? (fun e => e.1.kind == 4 && e.1.peer == h.src && e.1.peerCtx == h.srcCtx.toNat
    && e.1.dstObject == bodyField h 0x26 2 && decide (e.1.dstOffset ≤ off)
    && decide (off + n ≤ e.1.dstOffset + e.1.bytes))).map (·.2)

def rackDataEff (p : Nat) (d : Dev) : Dev :=
  match d.headMsg p 3 (fun m => m.hdr.type == 9) with
  | none => d
  | some m =>
    let h := m.hdr
    let x := h.dstCtx.toNat
    let d := d.popMsg p 3
    let refuse := fun (d : Dev) => (d.sendNack p h Code.rackUnexpected 0 0).count (resilKey 0x858) 1
    match (d.ctx x).resil.racking with
    | none => refuse d
    | some k =>
      match (if k.restored && bodyField h 0x24 1 == 0 && h.layoutEpoch == k.body.epoch then k.expectOf h else none),
          d.objOf x (bodyField h 0x26 2) with
      | some i, some (_, o) =>
        let n := bodyField h 0x30 4
        let d := d.putCurrent x o (bodyField h 0x28 8) k.body.gyle (m.data.take n)
        let k := { k with received := (i, bodyField h 0x28 8, n) :: k.received }
        ((d.modResil x (fun r => { r with racking := some k })).count (resilKey 0x850) n).sendWack p h
      | _, _ => refuse d

/-- Ranges cover every byte from one offset to another; the last number bounds the steps. -/
def covered (rs : List (Nat × Nat)) (goal : Nat) : Nat → Nat → Bool
  | at_, 0 => decide (goal ≤ at_)
  | at_, k + 1 => decide (goal ≤ at_) || (match rs.find? (fun r => decide (r.1 ≤ at_) && decide (at_ < r.1 + r.2)) with
    | some r => covered rs goal (r.1 + r.2) k
    | none => false)

/-- Every byte of an expect entry has been received. -/
def Rack.got (k : Rack) (i : Nat) (e : PlanEntry) : Bool :=
  let rs := (k.received.filter (fun r => r.1 == i)).map (fun r => r.2)
  covered rs (e.dstOffset + e.bytes) e.dstOffset rs.length

/-- Every expect range has come and every send is answered: the restore completes (R369). -/
def rackCompleteEff (x : Nat) (d : Dev) : Dev :=
  let c := d.ctx x
  match c.resil.racking with
  | none => d
  | some k =>
    let all := k.plan.zipIdx.all (fun e => e.1.kind != 4 || k.got e.2 e.1)
    if !k.restored || !all || c.msgs.any (·.rack) then d
    else
      let d := d.atGyle x k.body.gyle k.seeds k.proof
      let d := d.modResil x (fun r => { r with rack := .done, racking := none })
      (((d.count (resilKey 0x840) 1).complete k.cmd 0 0).noteEvent (islMgmt 0)).schedule

def rackTimeoutEff (x : Nat) (d : Dev) : Dev :=
  match (d.ctx x).resil.racking with
  | none => d
  | some k =>
    let d := d.modCtx x (fun c => { c with msgs := c.msgs.filter (fun m => !m.rack && !m.reads) })
    (d.ctxEvent x Code.rackTimeout (BitVec.ofNat 32 k.body.epoch.toNat) []).rackFailed x k Code.rackTimeout

/-! ## Answers (R304, R312, R357) -/

/-- The message of a context that an answer is for: it echoes its number and comes from its destination. -/
def Dev.answered (d : Dev) (h : MsgHdr) : Option InFlight :=
  (d.ctx h.dstCtx.toNat).msgs.find? (fun m => m.tag == h.tag && m.hdr.dst == h.src)

/-- An answer to a send or collective of another attempt is counted and ignored (R304). -/
def Dev.staleAnswer (d : Dev) (h : MsgHdr) : Bool :=
  !(d.sameAttempt h.dstCtx.toNat h) && (match d.answered h with
    | some m => !m.cask && !m.rack
    | none => true)

def Dev.dropMsg (d : Dev) (x : Nat) (tag : W32) : Dev :=
  d.modCtx x (fun c => { c with msgs := c.msgs.filter (fun m => m.tag != tag) })

/-- The SEAL of a drain is answered: the holder's version is the newest. -/
def Dev.drainDone (d : Dev) (x : Nat) : Dev :=
  (d.modResil x (fun r => { r with drainAt := none, capture := .sealed })).count (resilKey 0x800) 1

def wackEff (p : Nat) (d : Dev) : Dev :=
  match d.headMsg p 0 (fun m => m.hdr.type == 2) with
  | none => d
  | some r =>
    let h := r.hdr
    let x := h.dstCtx.toNat
    let d := d.popMsg p 0
    if d.staleAnswer h then d.count (fabricKey 0x838) 1
    else
      match d.answered h with
      | none => d
      | some m =>
        let d := (d.dropMsg x m.tag).noteEvent (islOfPort p)
        match m.sendId, m.channel with
        | some id, _ => d.sendCheck x id
        | none, some c => (d.collArrives c).collGo c
        | none, none => if m.cask && ckOp m.hdr == 1 then d.drainDone x else d

def nackEff (p : Nat) (d : Dev) : Dev :=
  match d.headMsg p 0 (fun m => m.hdr.type == 3) with
  | none => d
  | some r =>
    let h := r.hdr
    let x := h.dstCtx.toNat
    let st := BitVec.ofNat 16 (bodyField h 0x24 2)
    let d := (d.popMsg p 0).count (tapKey p 0x830) 1
    if d.staleAnswer h then d.count (fabricKey 0x838) 1
    else
      match d.answered h with
      | none =>
        -- the answer to a clear-to-send, which awaits none
        (match d.chans.find? (fun (e : Nat × Chan) => match e.2.run with
          | some r => r.ctx == x && r.steps.any (fun s => s.ctsSent && s.ctsTag == h.tag && s.partner == h.src)
          | none => false) with
        | some e => d.collFail e.1 st (srcPartner h.src.toNat)
        | none => d)
      | some m =>
        match m.sendId, m.channel with
        | some id, _ =>
          if st = Code.windowBusy then
            d.modCtx x (fun c => { c with msgs := c.msgs.map (fun k => if k.tag = m.tag then { k with busy := true } else k) })
          else
            let d := if st = Code.windowClosed ∨ st = Code.windowStale then d.abortCause x 8 st (srcPartner h.src.toNat) else d
            d.sendFail x id st
        | none, some c => d.collFail c st (srcPartner h.src.toNat)
        | none, none =>
          if m.drains then d.drainFails x Code.caskSlotInvalid
          else if m.reads then
            let d := d.dropRead x
            match (d.ctx x).resil.reading with
            | some r => d.readRefused x r
            | none => d
          else if m.rack then d
          else d.dropMsg x m.tag

/-- A message has not been answered within write_timeout: its send fails, or the cask that a READ names is not
readable. -/
def answerTimeoutEff (x : Nat) (tag : W32) (d : Dev) : Dev :=
  match (d.ctx x).msgs.find? (fun m => m.tag == tag && m.reads), (d.ctx x).resil.reading with
  | some _, some r => (d.dropRead x).readRefused x r
  | _, _ => writeTimeoutEff x tag d

def execResilSet (h : CmdHdr) (block : ResilBytes) (s : State) : Host.Outcome State Fault Refusal :=
  onCmd s (resilSetEff h block)
def execCaskHost (h : CmdHdr) (owner : W32) (ownerCtx : W16) (slotSize : W64) (s : State) :
    Host.Outcome State Fault Refusal := onCmd s (caskHostEff h owner.toNat ownerCtx.toNat slotSize.toNat)
def execCaskRelease (h : CmdHdr) (slot : W16) (s : State) : Host.Outcome State Fault Refusal :=
  onCmd s (caskReleaseEff h slot.toNat)
def execCaskSchedule (h : CmdHdr) (gyle : W64) (s : State) : Host.Outcome State Fault Refusal :=
  onCmd s (caskScheduleEff h gyle.toNat)
def execCaskDrain (ctx : CtxId) (s : State) : Host.Outcome State Fault Refusal := onDev s (caskDrainEff ctx.1)
def execCaskDrainTimeout (ctx : CtxId) (s : State) : Host.Outcome State Fault Refusal :=
  onDev s (caskDrainTimeoutEff ctx.1)
def execCaskWrite (port : PortId) (s : State) : Host.Outcome State Fault Refusal := onDev s (caskWriteEff port.1)
def execCaskSeal (port : PortId) (s : State) : Host.Outcome State Fault Refusal := onDev s (caskSealEff port.1)
def execCaskRead (port : PortId) (u : ReadUpset) (s : State) : Host.Outcome State Fault Refusal :=
  onDev s (caskReadEff port.1 u)
def execCaskRdata (port : PortId) (s : State) : Host.Outcome State Fault Refusal := onDev s (caskRdataEff port.1)
def execCaskLost (port : PortId) (s : State) : Host.Outcome State Fault Refusal := onDev s (caskLostEff port.1)
def execCaskSched (port : PortId) (s : State) : Host.Outcome State Fault Refusal := onDev s (caskSchedEff port.1)
def execCaskReport (port : PortId) (s : State) : Host.Outcome State Fault Refusal := onDev s (caskReportEff port.1)
def execCkptExport (h : CmdHdr) (addr size : W64) (s : State) : Host.Outcome State Fault Refusal :=
  onCmd s (ckptExportEff h addr.toNat size.toNat)
def execRestore (h : CmdHdr) (source version : Byte) (reserved : W16) (rest : RestoreRest) (s : State) :
    Host.Outcome State Fault Refusal :=
  onCmd s (restoreEff h source.toNat version.toNat reserved.toNat rest.expected rest.addr.toNat rest.hostFail)
def execRackBegin (h : CmdHdr) (body : RackBody) (ownFail sendFail : Bool) (s : State) :
    Host.Outcome State Fault Refusal := onCmd s (rackBeginEff h body ownFail sendFail)
def execRackData (port : PortId) (s : State) : Host.Outcome State Fault Refusal := onDev s (rackDataEff port.1)
def execRackComplete (ctx : CtxId) (s : State) : Host.Outcome State Fault Refusal := onDev s (rackCompleteEff ctx.1)
def execRackTimeout (ctx : CtxId) (s : State) : Host.Outcome State Fault Refusal := onDev s (rackTimeoutEff ctx.1)
def execNack (port : PortId) (s : State) : Host.Outcome State Fault Refusal := onDev s (nackEff port.1)
def execWriteTimeout (ctx : CtxId) (tag : W32) (s : State) : Host.Outcome State Fault Refusal :=
  onDev s (answerTimeoutEff ctx.1 tag)

end Sys2Proof.Machine
end

