-- ==== Sys2Proof/Machine/Signing.lean ====
section
/-! DEFINITION. Signed objects and their checks (R417, R418), fuses that count (R418) and the flash directory
(R415). -/

namespace Sys2Proof.Machine

/-! ## The signature block (Tables 15.3 and 15.4) -/

/-- ASCII text as bytes. -/
def ascii (s : String) : List Byte := s.toList.map (fun c => BitVec.ofNat 8 c.toNat)

/-- Context string of an image class. -/
def classString (cls : Nat) : List Byte :=
  match cls with
  | 0 => ascii "ILAVO/FW"
  | 1 => ascii "ILAVO/TESTPACK"
  | 2 => ascii "ILAVO/TOKEN"
  | _ => ascii "ILAVO/ADMIN"

/-- The signed header, bytes 0x000 to 0x07F. -/
def signedHeader (s : Signed) : List Byte :=
  leBytes 4 s.magic.toNat ++ leBytes 2 s.version.toNat ++ leBytes 1 s.cls ++ leBytes 1 s.slot ++ leBytes 1 s.rollback
  ++ List.replicate 7 0 ++ leBytes 64 s.digest.toNat ++ leBytes 8 s.payload.length ++ List.replicate 40 0

/-- A slot's fuse value, where the slot is fused and not revoked: 0 and 1 the vendor's, 2 the owner's. -/
def Dev.slotRoot (d : Dev) (slot : Nat) : Option (BitVec 512) :=
  match slot with
  | 0 => if d.fuses.vendorFused[0] && !d.fuses.vendorRevoked[0] then some d.fuses.vendorRoot[0] else none
  | 1 => if d.fuses.vendorFused[1] && !d.fuses.vendorRevoked[1] then some d.fuses.vendorRoot[1] else none
  | 2 => if d.fuses.ownerValid then some d.fuses.ownerRoot else none
  | _ => none

def Dev.rollbackOf (d : Dev) (cls : Nat) : Nat := d.fuses.rollback.toList.getD cls 0

/-- SHA-512 of the two public keys of a signature block. -/
def keyHash (s : Signed) : BitVec 512 := Config.sha512 (leBytes 32 s.edPub.toNat ++ s.mlPub)

/-- Both signatures of a block verify. -/
def bothVerify (s : Signed) (ctx : List Byte) : Bool :=
  Config.ed25519Verify s.edPub s.edSig (ctx ++ signedHeader s)
    && Config.mldsaVerify s.mlPub s.mlSig ctx (signedHeader s)

/-- The first check of R418 that an object fails, for the class that the use requires; `owner`: the owner's slot
is accepted for this use. -/
def Dev.checkSigned (d : Dev) (s : Signed) (cls : Nat) (owner : Bool) : W16 :=
  if s.magic ≠ 0x42534750 ∨ s.version ≠ 1 ∨ !s.wellFormed ∨ 64 < s.rollback then Code.sigblockFormat
  else if s.cls ≠ cls then Code.imageClass
  else
    match (if s.slot = 2 ∧ !owner then none else d.slotRoot s.slot) with
    | none => Code.keySlotRevoked
    | some root =>
      if keyHash s ≠ root ∨ s.digest ≠ Config.sha512 s.payload then Code.sigInvalid
      else if !(bothVerify s (classString cls)) then Code.sigInvalid
      else if s.rollback < d.rollbackOf cls then Code.rollbackRefused
      else 0

/-- A class counter rises to a rollback value, never past 64. -/
def Dev.raiseRollback (d : Dev) (cls n : Nat) : Dev :=
  if h : cls < 4 then
    let v := max (d.fuses.rollback[cls]) (min n 64)
    { d with fuses := { d.fuses with rollback := d.fuses.rollback.set cls v h } }
  else d

/-! ## The directory (R415) -/

/-- The good copy with the higher sequence number; where neither is good the upper copy of a 1 Gbit part, and with
none either the second copy as it stands (DESIGN CHOICE, assumption 132). -/
def Dev.dirNow (d : Dev) : DirCopy :=
  let a := d.flash.dirs[0]
  let b := d.flash.dirs[1]
  if a.good && (!b.good || decide (b.seq ≤ a.seq)) then a
  else if b.good then b
  else (d.flash.upper.map (fun u => u.1)).getD b

/-- The device record of the identity region, from the upper copy where both directory copies fail (Table 15.1). -/
def Dev.ownRecord (d : Dev) : List Byte :=
  if d.flash.dirs[0].good || d.flash.dirs[1].good then d.flash.deviceRecord
  else (d.flash.upper.map (fun u => u.2)).getD d.flash.deviceRecord

/-- The directory written over the copy with the lower sequence number. -/
def Dev.dirWrite (d : Dev) (bankB : Bool) (testSlot : Nat) : Dev :=
  let a := d.flash.dirs[0]
  let b := d.flash.dirs[1]
  let c : DirCopy := { seq := max a.seq b.seq + 1, good := true, bankB := bankB, testSlot := testSlot }
  let i := lowerCopy a.seq b.seq
  d.toFlash { d.flash with dirs := d.flash.dirs.set i.1 c i.2, upper := d.flash.upper.map (fun u => (c, u.2)) }

/-- The test pack in force, none for the boot ROM set (R340). -/
def Dev.packNow (d : Dev) : Option Signed :=
  if d.sec.packBad then none else d.flash.packs.toList.getD d.dirNow.testSlot none

/-! ## Measurements (R429) -/

/-- The running bank's image, and F, the digest of the firmware in force (R426). -/
def Dev.runningImage (d : Dev) : Option Signed := d.flash.banks.get (if d.sec.bankB then 1 else 0)
def Dev.fwDigest (d : Dev) : List Byte := leBytes 64 (((d.runningImage).map (fun s => s.digest.toNat)).getD 0)

/-- What fuses and lifecycle measure: the code in force, the root slots, revocations, owner_valid and the rollback
counters, in the order of Table 15.9. -/
def Dev.stateBytes (d : Dev) : List Byte :=
  leBytes 1 d.sec.lifecycle ++ leBytes 64 d.fuses.vendorRoot[0].toNat ++ leBytes 64 d.fuses.vendorRoot[1].toNat
  ++ leBytes 64 d.fuses.ownerRoot.toNat ++ leBytes 1 (b2n d.fuses.vendorRevoked[0] + 2 * b2n d.fuses.vendorRevoked[1])
  ++ leBytes 1 (b2n d.fuses.ownerValid) ++ d.fuses.rollback.toList.flatMap (leBytes 1)

/-- The digest at an index of Table 15.9. -/
def Dev.measured (d : Dev) (ix : Nat) : Option (BitVec 512) :=
  match ix with
  | 1 => some Config.romDigest
  | 2 => some (Config.sha512 (d.fwDigest ++ leBytes 1 (b2n d.sec.bankB)
      ++ leBytes 1 (((d.runningImage).map (·.rollback)).getD 0)))
  | 3 => some ((d.packNow.map (·.digest)).getD 0)
  | 4 => some (Config.sha512 d.stateBytes)
  | 5 => some (Config.sha512 ((List.range 512).flatMap (fun c =>
      leBytes 8 (repairDigest (d.rnat (coreKey c 2 0x104))).toNat)))
  | 6 => some (d.sec.token.getD 0)
  | _ => none

/-- A measurement block of the DMTF format: index, specification 1, size, value type, value size, SHA-512 digest. -/
def measurementBlock (ix : Nat) (v : BitVec 512) : List Byte :=
  leBytes 1 ix ++ leBytes 1 1 ++ leBytes 2 67 ++ leBytes 1 (Config.measurementType ix) ++ leBytes 2 64 ++ leBytes 64 v.toNat

/-- The measurement record for a requested index: none of it for 0, every block for 0xFF. -/
def Dev.measurementRecord (d : Dev) (ix : Nat) : List Byte :=
  (List.range 7).flatMap (fun i =>
    match (if ix = 0xFF ∨ ix = i then d.measured i else none) with
    | some v => measurementBlock i v
    | none => [])

/-- A test pack written to the slot not in force and, when it passes its checks, put in force (R340, R438). -/
def Dev.loadPack (d : Dev) (pack : Signed) (stepping : Nat) (formGood : Bool) : W16 × Dev :=
  if d.sec.lifecycle < 2 then (Code.lifecycle, d)
  else if d.sec.updateBusy then (Code.fwBusy, d)
  else
    let other := 1 - d.dirNow.testSlot % 2
    let packs := if other = 0 then d.flash.packs.set 0 (some pack) else d.flash.packs.set 1 (some pack)
    let d := d.toFlash { d.flash with packs := packs }
    let st := d.checkSigned pack 1 true
    if st ≠ 0 then (st, d)
    else if stepping ≠ 0xB0 ∨ !formGood then (Code.testpackInvalid, d)
    else
      let d := d.dirWrite d.dirNow.bankB other
      (0, { d with sec := { d.sec with packBad := false } })

end Sys2Proof.Machine
end

