-- ==== Sys2Proof/Machine/Tests.lean ====
section
/-! DEFINITION. In-field tests (R337 to R340), operating hours (R333) and the user overlay (R341, R342). -/

namespace Sys2Proof.Machine

/-! ## Core tests (R337 to R339) -/

/-- The interval of a core expires, or its retest falls due. One interval later the test is OVERDUE. -/
def coreTestDueEff (core : Nat) (retest : Bool) (d : Dev) : Dev :=
  let k := d.core core
  if d.retired Unit.core core || (retest && !k.retestPending) then d
  else
    match k.test with
    | .idle => d.modCore core (fun k => { k with test := .due })
    | .due => if retest then d else d.modCore core (fun k => { k with test := .overdue })
    | _ => d

/-- A context whose gyle lets a due test take its cores: gyle state IDLE or HELD. -/
def Dev.testable (d : Dev) (x : Nat) : Bool := (d.ctx x).gyle.st == .idle || (d.ctx x).gyle.st == .held

/-- The bytes of the test area (R338). -/
def testAreaBytes : Nat := 0x80000

/-- The supervisor takes the core: an empty core is tested at once, and its test area saved; the tasks of a core
in use are pre-empted when their contexts allow it or the test is overdue. -/
def coreTestStartEff (core : Nat) (d : Dev) : Dev :=
  let k := d.core core
  let xs := d.ctxsOn core
  if k.test != .due && k.test != .overdue then d
  else if xs = [] then
    (d.noteEvent (islMgmt (core / 128))).modCore core (fun k => { k with
      test := .running, testArea := k.spad.filter (fun e => e.1 < testAreaBytes) })
  else if k.test == .overdue || xs.all d.testable then xs.foldl Dev.preemptCtx d
  else d

/-- The unit that a failing detector of a core test names: the located row, else the core. -/
def testUnit (core row : Nat) : Nat × Nat :=
  if row < 66 then (Unit.row, core * 128 + row) else (Unit.core, core)

/-- The record of a failed test, which has no class of Table 11.3 (R323): the class byte is a free value; it comes from
a test, and so is confirmed (R333). -/
def Dev.testRecord (d : Dev) (isl page kind unit : Nat) : Dev :=
  let x : Detection :=
    { cls := Config.freeNat d.free % 256, detector := 0x0F, unitKind := kind, unit := unit, island := isl
      ctx := 0xFFFF, status := Code.testFailed, address := 0, flags := 6, page := page }
  d.drew.newRecord x (d.cycleOf (islMgmt 0))

/-- A failing detector of a test: bit, record and a confirmed fault of its unit (R333). -/
def Dev.testFailure (d : Dev) (core : Nat) (f : Nat × Nat) : Dev :=
  let u := testUnit core f.2
  let d := d.errFire (coreKey core 14 0) 0 (f.1 + 2 ^ 8 * min f.2 0x7F)
  (d.testRecord (islOfCore core) (coreKey core 14 0) u.1 u.2).confirmFault u.1 u.2 f.1

/-- A unit of the core whose detection awaited this test: confirmed where the test reported the same detector on it
or, for the core, on one of its rows, which has counted the fault; else transient. -/
def Dev.settleRetest (d : Dev) (core : Nat) (fails : List (Nat × Nat)) (e : Nat × Nat × Nat) : Dev :=
  let same := fails.any (fun f => f.1 == e.2.2 && (testUnit core f.2 == (e.1, e.2.1) || e.1 == Unit.core))
  if same then (d.markRecord e.1 e.2.1 e.2.2 2).setHist e.1 e.2.1 { d.hist e.1 e.2.1 with pending := none }
  else d.settleTransient e.1 e.2.1 e.2.2

/-- A failed test of a core breaks the quiet period of its units (Table 11.6). -/
def Dev.testBreaks (d : Dev) (core : Nat) : Dev :=
  let mine := fun (key : Nat) => coreOfUnit (key / 2 ^ 32) (key % 2 ^ 32) == some core
  { d with ras := { d.ras with hist := d.ras.hist.map (fun (e : Nat × UnitHist) =>
      (e.1, if mine e.1 then { e.2 with quietSince := d.ras.hours } else e.2)) } }

/-- Units of a core with a detection that awaits its retest: kind, unit, detector. -/
def Dev.awaiting (d : Dev) (core : Nat) : List (Nat × Nat × Nat) :=
  d.ras.hist.filterMap (fun e =>
    if coreOfUnit (e.1 / 2 ^ 32) (e.1 % 2 ^ 32) = some core then
      e.2.pending.map (fun p => (e.1 / 2 ^ 32, e.1 % 2 ^ 32, p))
    else none)

/-- A detector missed its injected error: the core is RETIRED, and every context that ran on it since its last
passed test votes ABORT (R338). -/
def Dev.injectMiss (d : Dev) (core : Nat) (misses : List Nat) : Dev :=
  let d := d.errFire (coreKey core 14 0) 1 (misses.headD 0 + 2 ^ 8 * 0x7F)
  let d := d.errRecord
    { coreDetection core 1 0x10 Unit.core core 0xFFFF Code.injectMiss (coreKey core 14 0) with flags := 6 }
  let d := d.count (coreKey core 14 0x818) misses.length
  let d := (d.core core).ranSince.foldl (fun d x => d.abortCause x 10 Code.errGyle (srcCore core)) d
  d.retireCore core

/-- The pack in force takes effect at a unit's test: its rollback value is blown (R340, R418). -/
def Dev.packRuns (d : Dev) : Dev :=
  match d.packNow with
  | none => d
  | some p => d.raiseRollback 1 p.rollback

/-- What a core's test ran: the pack in force, whose version the TEST page reports, or the boot ROM's set. -/
def Dev.packEffect (d : Dev) (core : Nat) : Dev :=
  (d.rset (coreKey core 14 0x108) ((d.packNow.map (fun p => Config.packVersion p.payload)).getD 0)).packRuns

/-- Errors that a run injects at least (R338): a column offset in each half, one-bit and two-bit flips in a word of each
of six memories, a residue and a parity fault in each of the five engines that carry them (R324), a parity fault on
each of the four links of the 16 cells. -/
def leastInjections : Nat := 2 + 2 * 6 + 2 * 5 + 4 * 16

/-- Counts, STATUS.last_pass and the cycle of the last passed test. -/
def Dev.testCounts (d : Dev) (core : Nat) (r : TestOutcome) : Dev :=
  let base := coreKey core 14 0
  let pass := r.fails.isEmpty && r.misses.isEmpty
  let d := (d.count (base + 0x800) 1).count (base + 0x808) (b2n (!pass))
  let d := d.count (base + 0x810) (max r.injections leastInjections)
  let d := d.count (base + 0x820) r.cycles
  let now := d.cycleOf (islMgmt (core / 128))
  let d := if pass then d.modCore core (fun k => { k with passCycle := now }) else d
  d.rsetNat (base + 0x14) (4 * b2n pass)

/-- The results of a core test (R333, R338). -/
def Dev.testResults (d : Dev) (core : Nat) (r : TestOutcome) : Dev :=
  let waiting := d.awaiting core
  let d := (d.testCounts core r).packEffect core
  let d := r.fails.foldl (fun d f => d.testFailure core f) d
  let d := waiting.foldl (fun d e => d.settleRetest core r.fails e) d
  let d := if r.misses = [] then d else d.injectMiss core r.misses
  if r.fails = [] ∧ r.misses = [] then d.modCore core (fun k => { k with ranSince := [] }) else d.testBreaks core

/-- A test ends: its results, the requests that waited for it, the area restored, the core returned. -/
def coreTestCompleteEff (core : Nat) (r : TestOutcome) (d : Dev) : Dev :=
  let k := d.core core
  if k.test != .running then d
  else
    let d := d.testResults core r
    let st := if r.fails = [] ∧ r.misses = [] then 0 else Code.testFailed
    let d := k.testCmds.foldl (fun d h => d.complete h st 0) d
    let d := d.modCore core (fun k => { k with
      test := .idle, retestPending := false, testCmds := [], testArea := []
      spad := accJoin k.testArea (k.spad.filter (fun e => decide (testAreaBytes ≤ e.1))) })
    (d.noteEvent (islMgmt (core / 128))).schedule

/-! ## Requested tests (R340) -/

/-- The units of Table 11.5 that the device has. -/
def unitThere (kind unit : Nat) : Bool :=
  match kind with
  | 1 => decide (unit < 512)
  | 2 => decide (unit / 128 < 512 ∧ unit % 128 < 66)
  | 3 => decide (unit < 512 * 16)
  | 4 => decide (unit < 16 * 64)
  | 5 => decide (unit < 12)
  | 6 => decide (unit < 32)
  | 7 => allIslands.contains unit
  | 8 => [1, 2, 7, 11].contains unit
  | 9 => unit == 0
  | _ => false

/-- The error counters that the test of an HBM pseudo-channel or a TAP port compares with limits, each with the
detector that stands for it (R337). -/
def Dev.unitCounters (d : Dev) (kind unit : Nat) : List (Nat × Nat) :=
  match kind with
  | 4 =>
    let at_ := hbmKey (unit / 64) (1 + unit % 64 / 8) (0x800 + 16 * (unit % 64 % 8))
    [(5, d.rget64 at_), (6, d.rget64 (at_ + 8))]
  | 5 => [(0x0B, d.rget64 (tapKey unit 0x818)), (0x0B, d.rget64 (tapKey unit 0x820))]
  | _ => []

/-- The payload of the set that tests units of a kind: the pack in force where it replaces that kind, else the boot
ROM's, which has none (R340). -/
def Dev.testSet (d : Dev) (kind : Nat) : List Byte :=
  match d.packNow with
  | some p => if (Config.packKinds p.payload).contains kind then p.payload else []
  | none => []

/-- What the test of a unit other than a core's reports, none where it passes. Of a hub, island, die link or the
controller the spec gives no test: its result is a free value, with the detector TEST_FAIL. -/
def Dev.unitResult (d : Dev) (kind unit : Nat) : Option Nat :=
  if kind = 4 ∨ kind = 5 then
    ((d.unitCounters kind unit).zipIdx.find? (fun c =>
      decide (Config.testLimit (d.testSet kind) kind c.2 < c.1.2))).map (fun c => c.1.1)
  else if Config.freeNat d.free % 2 = 0 then none else some 0x0F

/-- The page and island of a unit other than a core's, for its test record. -/
def unitHome (kind unit : Nat) : Nat × Nat :=
  match kind with
  | 4 => (islOfStack (unit / 64), hbmKey (unit / 64) 0 0)
  | 5 => (islOfPort unit, tapKey unit 0)
  | 6 => (islOfHub unit, 0)
  | 7 => (unit, islKey unit 0)
  | _ => (islMgmt 0, 0)

/-- The test of a unit that no core test covers: a failure is recorded and confirmed; a detection that awaited it is
settled (R333, R337). -/
def Dev.unitTest (d : Dev) (kind unit : Nat) : Bool × Dev :=
  let waiting := (d.hist kind unit).pending
  let found := d.unitResult kind unit
  let d := d.drew.packRuns
  let d := match found with
    | none => d
    | some det =>
      let home := unitHome kind unit
      let d := d.testRecord home.1 home.2 kind unit
      if keptKind kind then d.confirmFault kind unit det else d
  let d := match waiting with
    | none => d
    | some p => if found = some p then d.markRecord kind unit p 2 else d.settleTransient kind unit p
  (found.isNone, d)

def testRequestEff (h : CmdHdr) (kind unit : Nat) (d : Dev) : Dev :=
  d.adminCmd h true (fun d =>
    let core := coreOfUnit kind unit
    let gone := !(unitThere kind unit) || d.retired kind unit || (match core with
      | some c => d.retired Unit.core c
      | none => false)
    if gone then d.complete h Code.testUnitInvalid 0
    else
      match core with
      | some c => d.modCore c (fun k => { k with
          testCmds := k.testCmds ++ [h], test := if k.test = .idle then .due else k.test })
      | none =>
        let r := d.unitTest kind unit
        r.2.complete h (if r.1 then 0 else Code.testFailed) 0)

def testpackLoadEff (h : CmdHdr) (pack : Signed) (stepping : Nat) (formGood : Bool) (d : Dev) : Dev :=
  d.adminCmd h true (fun d =>
    let r := d.loadPack pack stepping formGood
    r.2.complete h r.1 0)

/-! ## Operating hours and digest passes -/

/-- A unit that has been OBSERVED for 168 operating hours, with no detection and no failed test, is NORMAL again
(Table 11.6). -/
def Dev.recover (d : Dev) (key : Nat) (h : UnitHist) : Dev :=
  if h.state = .observed ∧ h.quietSince + 1680 ≤ d.ras.hours then
    d.setService (key / 2 ^ 32) (key % 2 ^ 32) .normal
  else d

/-- The next full operating hour is reached, and the count written to flash (R333). -/
def operatingHourEff (d : Dev) : Dev :=
  let d := { d with ras := { d.ras with hours := (d.ras.hours / 10 + 1) * 10 } }
  let d := d.noteEvent (islMgmt 0)
  (d.ras.hist.foldl (fun d e => d.recover e.1 e.2) d).histWrite

/-! ## The overlay (R342, Table 11.10) -/

/-- Reserved bytes, type, target and value of an entry are as Tables 11.9 and 11.10 give. -/
def entryFormed (e : W128) : Bool :=
  let v := ovValue e
  let target := ovTarget e
  bitsOf e.toNat 31 16 == 0 && bitsOf e.toNat 127 96 == 0 && decide (ovOrigin e ≤ 1) &&
  match ovType e with
  | 1 => decide (target < 512 ∧ v < 64)
  | 2 => decide (target < 512) && (v == 64 || v == 65)
  | 3 => decide (target < 512) && v == 0
  | 4 => decide (target < 4)
  | 5 => decide (target < 4 ∧ v ≤ 50)
  | 6 => decide (target < 4)
  | _ => false

/-- An entry that would widen a factory limit. -/
def Dev.entryRefused (d : Dev) (e : W128) : Bool :=
  (ovType e == 4 && decide (d.binMax ≤ ovValue e)) || (ovType e == 6 && decide (100 ≤ ovValue e))

/-- An entry that names a factory repair: a row that the factory map has failed, or a spare that it does not allow. -/
def Dev.factoryEntry (d : Dev) (e : W128) : Bool :=
  (ovType e == 1 && (repairRows (d.factoryRepair (ovTarget e))).contains (ovValue e))
    || (ovType e == 2 && !(bitAt (d.factoryRepair (ovTarget e)) (ovValue e - 48)))

/-- What follows a change of the overlay: the merge of a core's map, or the limits of a die. -/
def Dev.overlayChanged (d : Dev) (e : W128) : Dev :=
  if ovType e ≤ 2 then d.mergeCores (ovTarget e / 128) [ovTarget e]
  else if ovType e = 3 then d
  else d.setFreq (ovTarget e)

def calOverlayAddEff (h : CmdHdr) (e : W128) (d : Dev) : Dev :=
  d.adminCmd h true (fun d =>
    if !(entryFormed e) || ovOrigin e != 0 then d.complete h Code.repairOverlayInvalid 0
    else if d.entryRefused e then d.complete h Code.repairRefused 0
    else
      let d := (d.addEntry e).overlayChanged e
      let d := if ovType e = 3 ∧ !(d.retired Unit.core (ovTarget e)) then
          d.setService Unit.core (ovTarget e) .retired
        else d
      d.complete h 0 0)

def calOverlayRemoveEff (h : CmdHdr) (e : W128) (d : Dev) : Dev :=
  d.adminCmd h true (fun d =>
    if !(entryFormed e) then d.complete h Code.repairOverlayInvalid 0
    else if !(d.ras.overlay.contains e) then
      d.complete h (if d.factoryEntry e then Code.repairRefused else Code.repairOverlayInvalid) 0
    else if ovOrigin e = 1 ∧ d.sec.lifecycle ≠ 4 then d.complete h Code.repairRefused 0
    else
      let d := { d with ras := { d.ras with overlay := d.ras.overlay.filter (fun o => o != e) } }
      (d.calWrite.overlayChanged e).complete h 0 0)

def execCoreTestDue (core : CoreId) (retest : Bool) (s : State) : Host.Outcome State Fault Refusal :=
  onDev s (coreTestDueEff core.1 retest)
def execCoreTestStart (core : CoreId) (s : State) : Host.Outcome State Fault Refusal := onDev s (coreTestStartEff core.1)
def execCoreTestComplete (core : CoreId) (r : TestOutcome) (s : State) : Host.Outcome State Fault Refusal :=
  onCore s core.1 (coreTestCompleteEff core.1 r)
def execOperatingHour (s : State) : Host.Outcome State Fault Refusal := onDev s operatingHourEff
def execCalOverlayAdd (h : CmdHdr) (entry : W128) (s : State) : Host.Outcome State Fault Refusal :=
  onCmd s (calOverlayAddEff h entry)
def execCalOverlayRemove (h : CmdHdr) (entry : W128) (s : State) : Host.Outcome State Fault Refusal :=
  onCmd s (calOverlayRemoveEff h entry)
def execTestRequest (h : CmdHdr) (unitKind : Byte) (unit : W32) (s : State) : Host.Outcome State Fault Refusal :=
  onCmd s (testRequestEff h unitKind.toNat unit.toNat)
def execTestpackLoad (h : CmdHdr) (pack : Signed) (stepping : Nat) (formGood : Bool) (s : State) :
    Host.Outcome State Fault Refusal := onCmd s (testpackLoadEff h pack stepping formGood)

end Sys2Proof.Machine
end

