-- ==== Sys2Proof/Machine/Registers.lean ====
section
/-! DEFINITION. The register pages as their blocks hold them (R441 to R446), writes from the host (R395, R397, R442,
R450), the register mirror (R396, R446), the probes (R448) and the memory window (R398). -/

namespace Sys2Proof.Machine

/-! ## The context descriptor byte for byte (Tables 8.1, 9.6, 9.8) -/

/-- The code of gstate (Table 9.6); VOTED has no code there, a free value. -/
def GyleState.code (g : GyleState) : Nat :=
  match g with
  | .idle => 0
  | .running => 1
  | .applying => 2
  | .held => 3
  | .voted => Config.votedCode

/-- A byte of a context's descriptor; a setting that waits for the next gyle start reads as written (R277). -/
def Dev.descByte (d : Dev) (x off : Nat) : Nat :=
  let c := d.ctx x
  if off < 2 then x / 256 ^ off % 256
  else if off = 2 then c.state.code
  else if off = 3 then b2n c.halted + 2 * b2n (d.pinned x) + 4 * b2n c.swapping
  else if 0x78 ≤ off ∧ off < 0x80 then c.since / 256 ^ (off - 0x78) % 256
  else if off = 0x88 then c.gyle.st.code % 256
  else
    match (c.gyle.nextDesc.filter (fun p => p.1 == off)).getLast? with
    | some p => p.2.toNat
    | none => (mread c.desc off).toNat

/-- Four bytes of a context's descriptor, and of its resilience block, as a word. -/
def Dev.descWord (d : Dev) (x off : Nat) : Nat :=
  d.descByte x off + 256 * d.descByte x (off + 1) + 65536 * d.descByte x (off + 2) + 2 ^ 24 * d.descByte x (off + 3)
def Ctx.blockWord (c : Ctx) (off : Nat) : Nat := c.resil.block.toNat / 2 ^ (8 * off) % 2 ^ 32

/-! ## The fixed fields of a page -/

/-- CAPS of a page. -/
def Dev.capsWord (d : Dev) (p : PageAt) : Nat :=
  match p.kind with
  | .die => 8 + 4 * 2 ^ 4 + 3 * 2 ^ 8 + (if p.unit = 0 then 35 else 34) * 2 ^ 12
  | .power => d.binMax + 48 * 2 ^ 16
  | .hubCtl => 16 + 1024 * 2 ^ 8
  | .cache => 16 + 128 * 2 ^ 8 + 12 * 2 ^ 16
  | .work => 256 + 32 * 2 ^ 16
  | .grist => 32 + 8 * 2 ^ 8 + 16 * 2 ^ 16
  | .array => 66 + 65 * 2 ^ 8 + 2 * 2 ^ 16 + 2 ^ 18
  | .engine ix =>
    4 + 2 ^ 8 * (match ix with
      | 5 => 64
      | 6 => 128
      | 7 => 64
      | 8 => 128
      | 9 => 64
      | 10 => 64
      | _ => 4)
  | .cellwin => 64 + 32 * 2 ^ 8 + 32 * 2 ^ 16
  | .hbm => 64 + 32 * 2 ^ 8
  | .tap => 4 + 128 * 2 ^ 8 + 1024 * 2 ^ 16
  | .island => islKind p.unit + 2 ^ 4 * (allIslands.filter (fun i => crossChannels p.unit i != 0)).length
  | .devctl => 4 + 1023 * 2 ^ 4
  | .gyle => 64
  | _ => 0

/-! ## Live fields that follow from other state -/

/-- The engine of an engine page by its core page index (Tables 4.3 and 4.14), none where the page is no engine's. -/
def engineOfPage (ix : Nat) : Option Nat := (List.range 10).find? (fun e => enginePage e == some ix)

/-- Descriptors of a slot in an engine: one runs or awaits its completion, and how many are queued. -/
def Slot.engineRuns (s : Slot) (e : Nat) : Bool := s.descs.any (fun q => q.engine == e && q.st != .queued)
def Slot.engineQueued (s : Slot) (e : Nat) : Nat := (s.descs.filter (fun q => q.engine == e && q.st == .queued)).length

def SeqState.code (s : SeqState) : Nat :=
  match s with
  | .idle => 0
  | .running => 1
  | .waiting => 2
  | .yielded => 3
  | .faulted => 4

def TestState.code (t : TestState) : Nat :=
  match t with
  | .idle => 0
  | .due => 1
  | .running => 2
  | .overdue => 3

def IslRun.code (r : IslRun) : Nat :=
  match r with
  | .reset => 0
  | .handshake => 1
  | .run => 2

def DevState.code (s : DevState) : Nat :=
  match s with
  | .booting => 0
  | .ready => 1
  | .recovery => 2
  | .failed => 3
  | .error => 4

def Capture.code (c : Capture) : Nat :=
  match c with
  | .idle => 0
  | .capturing => 1
  | .sealed => 2
  | .draining => 3

def RackPhase.code (r : RackPhase) : Nat :=
  match r with
  | .none => 0
  | .racking => 1
  | .done => 2
  | .failed => 3

/-- A number with bit i set where f i holds, i below n. -/
def maskOf (n : Nat) (f : Nat → Bool) : Nat := ((List.range n).map (fun i => if f i then 2 ^ i else 0)).sum

/-- Whether a core works in split mode. -/
def Dev.isSplit (d : Dev) (core : Nat) : Bool := bitAt (d.rnat (coreKey core 2 0x10)) 0

/-- Whether a tile is in flight on half `hi` of the array. -/
def Dev.arrayBusy (d : Dev) (core : Nat) (hi : Bool) : Bool :=
  let busy := fun (t : SlotIx) => (d.slot core t).tile.isSome
  if d.isSplit core then busy (if hi then 1 else 0) else busy 0 || busy 1

/-- Links that leave a core's cell block, one bit a cell of each edge, in the order of Table 6.10 (R154). -/
def Dev.edgeMask (d : Dev) (core : Nat) : Nat :=
  maskOf 16 (fun b =>
    let j := b % 4
    match b / 4 with
    | 0 => d.linkOpen core j 1
    | 1 => d.linkOpen core (4 * j + 3) 2
    | 2 => d.linkOpen core (12 + j) 3
    | _ => d.linkOpen core (4 * j) 4)

/-- Words of the SEQ page of a slot (Table 4.12). -/
def Slot.seqWord (s : Slot) (off : Nat) : Nat :=
  let sem := fun (n : Nat) => (s.seq.sem.toList.getD n 0).toNat
  match off with
  | 0x00 => s.state.code
  | 0x04 => s.seq.pc % 4096
  | 0x08 => s.faultStatus.toNat + 2 ^ 16 * (s.faultDesc / 64 % 65536)
  | 0x0C => sem 0 + 2 ^ 16 * sem 1
  | 0x10 => sem 2 + 2 ^ 16 * sem 3
  | 0x14 => sem 4 + 2 ^ 16 * sem 5
  | 0x18 => sem 6 + 2 ^ 16 * sem 7
  | _ => 0

/-- Words of the SPAD page of a slot (Table 4.13): byte bounds whose bits [11:0] are 0. -/
def Slot.spadWord (s : Slot) (off : Nat) : Nat :=
  let n := (off - 8) / 8
  if off = 0 then s.base else if off = 4 then s.bound
  else if 40 ≤ off then 0
  else if off % 8 = 0 then s.nbase.toList.getD n 0
  else s.nbound.toList.getD n 0

/-- A slot as its SPAD registers show it: the grant of the task that holds it, else that of a task placed there. -/
def Dev.grantOf (d : Dev) (core : Nat) (t : SlotIx) : Slot :=
  let s := d.slot core t
  if s.valid then s
  else
    (d.ctxs.findSome? (fun e => (e.2.places.find? (fun p => p.core == core && p.slot == t.1)).bind (fun p =>
      (e.2.task p.task).map (fun k => e.2.grantSlot k.entry p Slot.empty)))).getD s

/-- Contexts in the states named. -/
def Dev.ctxCount (d : Dev) (f : Ctx → Bool) : Nat := (d.ctxs.filter (fun e => f e.2)).length

/-- Context frames of the pool, the free ones of them, and reservation frames that hold casks (Table 7.13). -/
def Dev.poolCapacity (d : Dev) : Nat := d.poolFrames.sum
def Dev.poolFree (d : Dev) : Nat := if d.sec.bootStep < 9 then 0 else ([0, 1, 2, 3].map (fun n => (d.freeFrames n).length)).sum
def Dev.caskHeld (d : Dev) : Nat := ([0, 1, 2, 3].map (fun n => (d.poolOf n).cask.length)).sum

/-- Frames of T1 in use: those that objects, page tables, logs and save areas hold. -/
def Dev.t1Used (d : Dev) : Nat :=
  ([0, 1, 2, 3].map (fun n => (d.poolOf n).used.length)).sum + (d.swapUsed.map (·.2.length)).sum

/-- Registered frames in use: those that the host ranges of objects take. -/
def Dev.t2Used (d : Dev) : Nat :=
  (d.objs.map (fun e => (b2n e.2.hostRange.isSome + b2n e.2.moveRange.isSome) * pagesOf e.2.size)).sum

/-- STATUS of a page. -/
def Dev.statusWord (d : Dev) (p : PageAt) (key : Nat) : Nat :=
  let u := p.unit
  let raw := d.rnat key
  match p.kind with
  | .die =>
    raw % 4 + 2 ^ 8 * maskOf 8 (fun c => !(d.retired Unit.hub (8 * u + c)))
    + 2 ^ 16 * maskOf 4 (fun j => d.stackIn (4 * u + j))
    + 2 ^ 20 * maskOf 3 (fun j => d.rnat (tapKey (3 * u + j) 0x14) % 4 == 2)
  | .power => d.powerStatus u
  | .hubCtl => maskOf 16 (fun k => !(d.retired Unit.core (16 * u + k))) + 2 ^ 16 * b2n (d.retired Unit.hub u)
  | .cache => (d.cluster u).lockedWays
  | .work =>
    (d.cluster u).queues.length + 2 ^ 16 * ((d.cluster u).queues.filter (·.failed)).length
  | .grist => (d.cluster u).streams.length
  | .coreCtl =>
    let out := d.retired Unit.core u && (d.core u).slots.toList.all (fun s => s.tile.isNone)
    (if out then 2 else raw % 4) + 4 * b2n (d.isSplit u)
  | .array =>
    b2n (d.arrayBusy u false) + 2 * b2n (d.arrayBusy u true)
    + 2 ^ 4 * (repairRows (d.rnat (coreKey u 2 0x104))).length + (if bitAt raw 6 then 64 else 0)
  | .engine ix =>
    let e := (engineOfPage ix).getD 0
    b2n ((d.slot u 0).engineRuns e) + 2 * b2n ((d.slot u 1).engineRuns e)
    + 2 ^ 4 * (d.slot u 0).engineQueued e + 2 ^ 8 * (d.slot u 1).engineQueued e
  | .cellwin => b2n (d.core u).swapPending + 2 * b2n (d.core u).regionSaved
  | .test => (d.core u).test.code + (if bitAt raw 2 then 4 else 0) + 8 * b2n (d.core u).retestPending
  | .tap => raw % 4 + 2 ^ 8 * min 255 (d.port u).hold.length
  | .island => (d.island u).run.code + 4 * b2n (d.island u).stretching
  | .hostif => d.host.rate + 2 ^ 4 * d.host.width + 2 ^ 9 * b2n (decide (6 ≤ d.host.rate)) + 2 ^ 16 * d.host.vfs
  | .devctl => d.sec.devState.code
  | .apply =>
    (match d.apply.run with
      | none => 0
      | some r => if r.phase == .swap then 3 else 2) + 2 ^ 4 * d.apply.queue.length
  | .sec =>
    d.sec.devState.code + 2 ^ 4 * d.sec.lifecycle + 2 ^ 7 * b2n d.sec.bankB + 2 ^ 8 * b2n d.sec.fallback
    + 2 ^ 9 * b2n d.fuses.ownerValid + 2 ^ 10 * b2n (d.fuses.vendorRevoked.get 0)
    + 2 ^ 11 * b2n (d.fuses.vendorRevoked.get 1) + 2 ^ 12 * b2n d.sec.updateBusy
  | .sched =>
    d.ctxCount (fun c => c.state == .running)
    + 2 ^ 16 * d.ctxCount (fun c => c.state == .resident || c.state == .blocked)
  | .mempool => b2n (tget? d.apply.shadows (mempoolKey 0x100)).isSome
  | .gyle => d.jobs + 2 ^ 16 * d.ctxCount (fun c => c.gyle.st == .voted)
  | .fabric => (d.windows.filter (fun w => w.2.state != .free)).length + 2 ^ 16 * d.sec.pcache.length
  | .ras => raw % 4 + 2 ^ 16 * d.retiredCores.length
  | .resil =>
    d.ctxCount (fun c => c.resil.capture == .capturing || c.resil.capture == .draining)
    + 2 ^ 16 * d.ctxCount (fun c => c.resil.rack == .racking)
  | _ => raw

/-- A word of the resilience state of a context (Table 12.8). -/
def Ctx.resilWord (c : Ctx) (off : Nat) : Nat :=
  let r := c.resil
  match off with
  | 0x10C => r.capture.code + 4 * r.rack.code + 32 * b2n r.proof.isSome
  | 0x110 => r.interval
  | 0x114 => r.cost
  | 0x118 => r.gyleUs
  | 0x120 => r.caskGyle
  | 0x124 => r.caskGyle / 2 ^ 32
  | 0x128 => r.jobCask
  | 0x12C => r.jobCask / 2 ^ 32
  | _ => 0

/-- The live fields of a page from 0x040 to 0x7FF that follow from other state; none for a word that the block
holds as a register. -/
def Dev.liveField (d : Dev) (p : PageAt) (off : Nat) : Option Nat :=
  let u := p.unit
  let base := fun (t : SlotIx) => d.slot u t
  match p.kind with
  | .die =>
    let up := fun (n : Nat) => (d.island (256 * u + n)).run == .run && decide (n < 34 ∨ u = 0)
    match off with
    | 0x100 => some (maskOf 32 up)
    | 0x104 => some (maskOf 3 (fun n => up (32 + n)))
    | 0x108 => some (d.retiredCores.filter (fun c => c / 128 == u)).length
    | _ => none
  | .power =>
    let w := d.diePower u
    match off with
    | 0x100 => if u = 0 then none else some 0
    | 0x104 => some w.freq
    | 0x108 => some w.vcore
    | 0x10C => some w.hottest
    | 0x110 => some (d.throttleAt u)
    | 0x114 => some w.power
    | 0x118 => if u = 0 then none else some 0
    | 0x11C => some w.lowDuty
    | _ => none
  | .coreCtl =>
    let task := fun (t : SlotIx) => if (base t).valid then (base t).ctx + 2 ^ 31 else 0
    match off with
    | 0x100 => some (task 0)
    | 0x104 => some (task 1)
    | _ => none
  | .seq =>
    if 0x100 ≤ off ∧ off < 0x140 then some ((base 0).seqWord (off - 0x100))
    else if 0x140 ≤ off ∧ off < 0x180 then some ((base 1).seqWord (off - 0x140)) else none
  | .array =>
    match off with
    | 0x40 => some (((tget? d.apply.shadows (coreKey u 2 0x10)).map (·.toNat)).getD 0)
    | 0x44 => some (((tget? d.apply.shadows (coreKey u 2 0x104)).map (·.toNat)).getD 0)
    | 0x100 => some (128 + (repairRows (d.rnat (coreKey u 2 0x104))).length)
    | 0x108 => some ((repairDigest (d.rnat (coreKey u 2 0x104))).toNat % 2 ^ 32)
    | _ => none
  | .acc => if off = 0x100 then some (b2n (d.isSplit u)) else none
  | .test => if off = 0x104 then some ((d.cycleOf (islMgmt (u / 128)) - (d.core u).passCycle) / 500000) else none
  | .spad =>
    if 0x100 ≤ off ∧ off < 0x140 then some ((d.grantOf u 0).spadWord (off - 0x100))
    else if 0x140 ≤ off ∧ off < 0x180 then some ((d.grantOf u 1).spadWord (off - 0x140)) else none
  | .cellwin =>
    match off with
    | 0x114 => some (d.edgeMask u)
    | 0x118 => some (maskOf 16 (fun i => d.cellSlot u i == 1))
    | _ => none
  | .perf =>
    let digest := fun (t : SlotIx) =>
      (((d.ctx (base t).ctx).task (base t).task).map (fun k => k.digest.toNat % 2 ^ 32)).getD 0
    let mode := fun (t : SlotIx) =>
      if (base t).valid then (d.ctx (base t).ctx).perfMode + 4 * b2n (d.exactStale u t) else 0
    match off with
    | 0x100 => some (mode 0)
    | 0x110 => some (mode 1)
    | 0x104 => some (if (base 0).valid then digest 0 else 0)
    | 0x114 => some (if (base 1).valid then digest 1 else 0)
    | _ => none
  | .island =>
    let s := d.island u
    match off with
    | 0x100 => some s.freq
    | 0x108 => some s.cycle
    | 0x10C => some (s.cycle / 2 ^ 32)
    | 0x110 => some s.seq
    | 0x114 => some (s.seq / 2 ^ 32)
    | _ => none
  | .devctl =>
    match off with
    | 0x100 => some (b2n d.fuses.binM + 0xB000)
    | 0x104 => some d.fuses.serial.toNat
    | 0x108 => some (d.fuses.serial.toNat / 2 ^ 32)
    | 0x110 => some (512 - d.retiredCores.length)
    | 0x114 => some (d.ctxCount (fun c => c.state != .free))
    | _ => none
  | .sec =>
    let n := fun (i : Fin 4) => d.fuses.rollback.get i * 2 ^ (8 * i.1)
    if off = 0x100 then some (n 0 + n 1 + n 2 + n 3)
    else if off = 0x104 then some d.sec.bootMs
    else if 0x110 ≤ off ∧ off < 0x130 then some (d.sec.nonce.toNat / 2 ^ (8 * (off - 0x110)))
    else none
  | .mempool =>
    match off with
    | 0x104 => some (maskOf 16 d.stackIn)
    | 0x108 => some d.poolCapacity
    | 0x10C => some d.poolFree
    | 0x110 => some d.caskHeld
    | 0x800 => some d.t1Used
    | 0x808 => some d.t2Used
    | _ => none
  | .fabric =>
    let busy := maskOf 64 (fun c => (d.chan c).run.isSome)
    match off with
    | 0x108 => some busy
    | 0x10C => some (busy / 2 ^ 32)
    | _ => none
  | .ras =>
    let slot := d.rnat (rasKey 0x104) % 512
    let head := d.ras.written % 512
    let age := (head + 511 - slot) % 512
    if 0x108 ≤ off ∧ off < 0x148 then
      some (match d.ras.log[age]? with
        | some r => leNat ((r.bytes.drop (off - 0x108)).take 4)
        | none => 0)
    else if off = 0x180 then some d.ras.hours
    else if off = 0x18C then some d.ras.trayReason
    else none
  | .resil =>
    if 0x10C ≤ off ∧ off < 0x130 then some ((d.ctx (d.rnat (resilKey 0x108) % 1024)).resilWord off) else none
  | .ctxwin =>
    let x := d.rnat (ctxwinKey 0x100) % 1024
    if 0x200 ≤ off ∧ off < 0x300 then some (d.descWord x (off - 0x200))
    else if 0x300 ≤ off ∧ off < 0x340 then some ((d.ctx x).blockWord (off - 0x300))
    else none
  | _ => none

/-- A register word as its block holds it: the common registers of Table 16.1, the fields that follow from other
state, and the words kept as registers. A word that no map has reads 0. -/
def Dev.live (d : Dev) (key : Nat) : W32 :=
  match pageOfKey key with
  | none => 0
  | some p =>
    let off := key % 0x1000 / 4 * 4
    let n := fun (v : Nat) => BitVec.ofNat 32 v
    if off = 0 then n (p.kind.code * 2 ^ 16 + p.unit)
    else if off = 4 then n 0x100
    else if off = 8 then n (d.capsWord p)
    else if off = 0xC then n p.island
    else if off = 0x14 then n (d.statusWord p key)
    else
      match d.liveField p off with
      | some v => n v
      | none => if (regRow key).isSome then d.rget key else 0

/-! ## The mirror (R396, R446) -/

/-- A word as its block shows it in a device of the same bin that has not begun to start. -/
def Dev.restWord (d : Dev) (key : Nat) : W32 :=
  let fuses : Fuses := { Fuses.initial with binM := d.fuses.binM }
  ({ Dev.reset with fuses := fuses }).live key

/-- A word of the mirror. One that the mirror does not list is at its reset value and, once start-up has set the
mirror (R446), as a resting block shows it. -/
def Dev.mirrored (d : Dev) (key : Nat) : W32 :=
  match tget? d.mirror key with
  | some v => v
  | none => if d.sec.bootStep < 9 then regReset key else d.restWord key
def Dev.setMirror (d : Dev) (key : Nat) (v : W32) : Dev := { d with mirror := tset d.mirror key v }

/-- The update of one word: its bits that are not of class CONTROL. A page of STAGE_GEN's class shows the block's. -/
def Dev.mirrorWord (d : Dev) (key : Nat) : Dev :=
  let rw := match regRow key with
    | some r => if r.off = 0x30 then 0 else r.rw
    | none => 0
  let m := BitVec.ofNat 32 rw
  d.setMirror key ((d.live key &&& ~~~m) ||| (d.mirrored key &&& m))

/-- The words of a page that reads show, ascending: the common ones, those of its map, the table of CTXWIN. -/
def pageWords (p : PageAt) : List Nat :=
  [0, 4, 8, 12] ++ sortBy id (p.kind.regs.map (·.off))
    ++ (if p.kind == .ctxwin then (List.range 80).map (fun i => 0x200 + 4 * i) else [])

/-- Every page of the map, by its register-window offset, ascending. -/
def allPages : List Nat :=
  (List.range 4).flatMap (fun n => ((List.range 0xC0B).map (fun p => pageKey n p 0)).filter (fun k => (pageOfKey k).isSome))
  ++ (List.range 64).map (fun f => vfKey (f + 1) 0)

/-- The mirror rebuilt from the blocks (R425), listing the words that no resting block shows; IDENT fields are set
during start-up (R446). -/
def Dev.mirrorAll (d : Dev) : Dev :=
  let words := allPages.flatMap (fun k => match pageOfKey k with
    | some p => (pageWords p).map (k + ·)
    | none => [])
  { d with mirror := (words.map (fun k => (k, d.live k))).filter (fun e => e.2 != d.restWord e.1) }

/-- ALERT_N is driven low: an unmasked error bit of a page, tray service or a device error, or a thermal trip
(R473). -/
def Dev.alertLow (d : Dev) : Bool :=
  d.pins.thermtrip || d.rnat (rasKey 0x14) % 4 != 0
    || d.blk.any (fun e => e.1 % 0x1000 == 0x18 && (e.2 &&& ~~~(d.rget (e.1 + 4))) != 0)

/-- Words that travel in one update: the three of an error, and the two of a stage generation (R446). -/
def updateOf (key : Nat) : List Nat :=
  let base := key / 0x1000 * 0x1000
  let off := key % 0x1000 / 4 * 4
  if off = 0x18 ∨ off = 0x20 ∨ off = 0x24 then [base + 0x18, base + 0x20, base + 0x24, base + 0x28]
  else if off = 0x30 ∨ off = 0x34 then [base + 0x30, base + 0x34, base + 0x28]
  else [base + off]

/-- A HOSTIF error of a function. -/
def Dev.hostErr (d : Dev) (bit fn : Nat) : Dev := d.errFire (hostifKey 0) bit (bit + fn * 2 ^ 16)

/-- An update reaches the mirror; where the mirror's entry has lost its parity, the update refreshes it (Table 14.7). -/
def mirrorUpdateEff (offset : Nat) (parityBad : Bool) (d : Dev) : Dev :=
  match pageOfKey offset with
  | none => d
  | some p =>
    if 0x800 ≤ offset % 0x1000 || !(d.updates p.island) then d
    else
      let d := ((updateOf offset).foldl Dev.mirrorWord d).toMirror p.island
      if parityBad then d.hostErr 4 0 else d

/-- The counters of a page, sent as one snapshot (R446). -/
def counterSnapshotEff (page : Nat) (d : Dev) : Dev :=
  match pageOfKey (page / 0x1000 * 0x1000) with
  | none => d
  | some p =>
    if !(d.updates p.island) then d
    else
      (((p.kind.regs.filter (fun r => decide (0x800 ≤ r.off))).map (fun r => page / 0x1000 * 0x1000 + r.off)).foldl
        (fun d k => d.setMirror k (d.live k)) d).toMirror p.island

/-- The mirror's words of a table follow a select at once: the host island holds the whole table (R446, R462). -/
def Dev.selectTable (d : Dev) (key : Nat) : Dev :=
  let words := fun (base a n : Nat) => (List.range n).map (fun i => base + a + 4 * i)
  let show_ := fun (ks : List Nat) => ks.foldl (fun d k => d.setMirror k (d.live k)) d
  if key = ctxwinKey 0x100 then show_ (words (ctxwinKey 0) 0x200 80)
  else if key = resilKey 0x108 then show_ (words (resilKey 0) 0x10C 9)
  else if key = rasKey 0x104 then show_ (words (rasKey 0) 0x108 16)
  else d

/-! ## Accesses that R395 refuses -/

def Dev.badAccess (d : Dev) (fn : Nat) : Dev := (d.count (hostifKey 0x810) 1).hostErr 0 fn

/-- The key of a register-window offset of a function: the physical one sees every page, a virtual one its
VF_CTL. -/
def windowKey (fn offset : Nat) : Option Nat :=
  if fn = 0 then (if offset < 0x4000000 then some offset else none)
  else if fn ≤ 64 ∧ offset < 0x1000 then some (vfKey fn offset) else none

/-! ## Writes -/

/-- The value of an RW word that its field's range accepts; others are ignored. -/
def Dev.rangeGood (d : Dev) (p : PageAt) (off v : Nat) : Bool :=
  match p.kind, off with
  | .hbm, 0x100 => decide (1 ≤ v ∧ v ≤ 168)
  | .sched, 0x100 => decide (100 ≤ v ∧ v ≤ 1000000)
  | .sched, 0x104 => decide (40 ≤ v ∧ v ≤ 10000)
  | .sched, 0x10C => decide (1 ≤ v ∧ v ≤ 16)
  | .tap, 0x100 => decide (2 ≤ v ∧ v ≤ 1000)
  | .tap, 0x104 => decide (1 ≤ v)
  | .ras, 0x184 => decide (1 ≤ v ∧ v ≤ 720)
  | .ras, 0x188 => decide (24 ≤ v ∧ v ≤ 8760)
  | .resil, 0x100 => decide (1 ≤ v ∧ v ≤ 16)
  | .resil, 0x104 => decide (1 ≤ v ∧ v ≤ 16)
  | .sec, 0x14C => decide (10 ≤ v ∧ v ≤ 10000)
  | .apply, 0x110 => decide (20 ≤ v ∧ v ≤ 100000)
  | .apply, 0x114 => decide (10 ≤ v ∧ v ≤ d.rnat (applyKey 0x110))
  | _, _ => true

/-- The queue that a function's admin registers describe, empty, with the entries that wait for it. -/
def Dev.adminQueue (d : Dev) (q base log vector : Nat) : Dev :=
  let n := if 4 ≤ log ∧ log ≤ 16 then 2 ^ log else 0
  let x : Queue := { Queue.none_ with base := base, entries := n, vector := vector, waiting := (d.queue q).waiting }
  d.setQueue q x

/-- A write of ADMIN_SIZES makes the admin queues anew from the admin registers (R399, Table 14.7). -/
def Dev.adminQueues (d : Dev) (fn page : Nat) : Dev :=
  let s := d.rnat (page + 0x218)
  let base := fun (off : Nat) => d.rget64 (page + off) / 0x1000 * 0x1000
  let v := d.rnat (page + 0x21C) % 2048
  ((d.adminQueue (adminSq fn) (base 0x200) (s % 16) v).adminQueue (adminCq fn) (base 0x208) (s / 256 % 16) v).adminQueue
    (eventQ fn) (base 0x210) (s / 65536 % 16) v

/-- What a write of a select or of an admin register does besides. -/
def Dev.afterWrite (d : Dev) (fn key off : Nat) (p : PageAt) : Dev :=
  match p.kind with
  | .hostif => if off = 0x218 then d.adminQueues 0 (hostifKey 0) else d
  | .vfCtl => if off = 0x218 then d.adminQueues fn (vfKey fn 0) else d
  | _ => d.selectTable key

/-- A W1C write to ERR_STATUS: the mirror clears the bits at once, the block as R442 says. -/
def errStatusClearEff (offset : Nat) (v : W32) (d : Dev) : Dev :=
  let base := offset / 0x1000 * 0x1000
  match regRow (base + 0x18), pageOfKey base with
  | some r, some p =>
    let m := v &&& BitVec.ofNat 32 r.w1c
    if offset % 0x1000 ≠ 0x18 ∨ d.hostUp = false then d
    else
      let d := d.setMirror (base + 0x18) (d.mirrored (base + 0x18) &&& ~~~m)
      d.atBlock p.island (fun d => d.errClear base m.toNat)
  | _, _ => d

/-- A write of STAGE_GEN, which the mirror takes from the block only (R397, R450). -/
def stageGenWriteEff (offset : Nat) (gen : W32) (d : Dev) : Dev :=
  let base := offset / 0x1000 * 0x1000
  match pageOfKey base with
  | some p =>
    if offset % 0x1000 = 0x30 ∧ p.kind ≠ .vfCtl ∧ d.hostUp then
      d.atBlock p.island (fun d => d.openGen base (gen.toNat % 65536))
    else d
  | none => d

/-- A write of WIN_DATA[3] stages the selected cell table entry, and may advance the index (Table 6.10). -/
def winDataWriteEff (core : Nat) (value : W32) (d : Dev) : Dev :=
  let base := coreKey core 12 0
  let sel := d.rnat (base + 0x40)
  let index := bitsOf sel 11 6
  if !d.hostUp || !(d.blockUp (islOfCore core)) then d
  else
    let d := d.toBlock (islOfCore core)
    let e : StagedEntry :=
      { page := base, table := bitsOf sel 5 4, cell := if bitsOf sel 5 4 = 2 then 0 else sel % 16, index := index
        value := value ++ d.rget (base + 0x4C) ++ d.rget (base + 0x48) ++ d.rget (base + 0x44) }
    let same := fun (o : StagedEntry) =>
      o.page == e.page && o.table == e.table && o.cell == e.cell && o.index == e.index
    let d :=
      if d.stageOpen base then
        let d := d.rset (base + 0x50) value
        let d := d.setMirror (base + 0x50) value
        let d := { d with apply := { d.apply with staged := d.apply.staged.filter (fun o => !(same o)) ++ [e] } }
        if d.pageState base = 1 then d else (d.setPageState base 1).stageEvent base
      else d.count (applyKey 0x818) 1
    if bitAt sel 31 then
      let next := BitVec.ofNat 32 (sel - index * 64 + (index + 1) % 64 * 64)
      (d.rset (base + 0x40) next).setMirror (base + 0x40) next
    else d

/-- A write of RD_SEL, or of DBG_SEL, asks the block for the selected contents. -/
def probeSelectEff (core : Nat) (test : Bool) (value : W32) (d : Dev) : Dev :=
  if !d.hostUp then d
  else
    let key := if test then coreKey core 14 0x110 else coreKey core 12 0x100
    let v := value &&& (if test then 0x00FFFFF3 else 0x00000FFF)
    let d := d.setMirror key v
    d.atBlock (islOfCore core) (fun d => d.rset key v)

/-- A staged field's word: its live key is staged, and the mirror of its shadow takes the value (R397, R450). -/
def Dev.stageWrite (d : Dev) (base key shadow : Nat) (v : W32) : Dev :=
  let kept := d.stageOpen base
  let d := d.stageValue base key v
  if kept && shadow != 0 then d.setMirror shadow v else d

/-- The offset of the word in ST access whose shadow a word is, 0 for none: ARRAY.CTL_SHADOW. -/
def shadowOf (p : PageAt) (off : Nat) : Nat := if p.kind == .array && off == 0x40 then 0x10 else 0

/-- One word of a register-window write. Words whose writes are commands of their own do nothing here. -/
def Dev.writeWord (d : Dev) (fn key : Nat) (value : W32) : Dev :=
  match regRow key, pageOfKey key with
  | some r, some p =>
    let off := key % 0x1000
    let base := key - off
    if off = 0x30 then stageGenWriteEff key value d
    else if off = 0x18 then errStatusClearEff key value d
    else if p.kind = .power ∧ off = 0x100 then
      if p.unit = 0 then powerCapWriteEff (value.toNat % 4096) d else d
    else if p.kind = .tap ∧ off = 0x10 then tapEnableWriteEff p.unit (value.getLsbD 0) d
    else if p.kind = .cellwin ∧ off = 0x50 then winDataWriteEff p.unit value d
    else if p.kind = .cellwin ∧ off = 0x100 then probeSelectEff p.unit false value d
    else if p.kind = .test ∧ off = 0x110 then probeSelectEff p.unit true value d
    else if !(d.blockUp p.island) then
      let m := BitVec.ofNat 32 r.rw
      if r.rw = 0 then d else d.setMirror key ((d.mirrored key &&& ~~~m) ||| (value &&& m))
    else
    let d := d.toBlock p.island
    if p.kind = .cellwin ∧ 0x44 ≤ off ∧ off < 0x50 then
      if d.stageOpen base then (d.rset key value).setMirror key value else d.count (applyKey 0x818) 1
    else if r.st ≠ 0 then
      d.stageWrite base key (if p.kind == .array then base + 0x40 else 0) (value &&& BitVec.ofNat 32 r.st)
    else if shadowOf p off ≠ 0 then
      d.stageWrite base (base + shadowOf p off) key (value &&& BitVec.ofNat 32 r.rw)
    else if r.rw ≠ 0 then
      let m := BitVec.ofNat 32 r.rw
      if !(d.rangeGood p off (value &&& m).toNat) then d
      else
        let d := d.rset key ((d.rget key &&& ~~~m) ||| (value &&& m))
        let d := d.setMirror key ((d.mirrored key &&& ~~~m) ||| (value &&& m))
        d.afterWrite fn key off p
    else d
  | _, _ => d

/-- A register-window write of 4 or 8 bytes, naturally aligned (R395). -/
def registerWriteEff (fn offset size : Nat) (value : W64) (d : Dev) : Dev :=
  if !d.hostUp then d
  else if (size ≠ 4 ∧ size ≠ 8) ∨ offset % size ≠ 0 then d.badAccess fn
  else
    match windowKey fn offset with
    | none => d
    | some key =>
      let d := d.writeWord fn key (value.setWidth 32)
      if size = 8 then d.writeWord fn (key + 4) ((value >>> 32).setWidth 32) else d

/-- A read of a counter's low word in the mirror latches the high word for the next read of the counter (R81). -/
def counterLowReadEff (offset : Nat) (d : Dev) : Dev :=
  if !d.hostUp then d
  else if offset % 4 ≠ 0 then d.badAccess 0
  else
    let d := d.count (hostifKey 0x800) 1
    match windowKey 0 offset with
    | none => d
    | some key =>
      if 0x800 ≤ key % 0x1000 ∧ key % 8 = 0 ∧ (regRow key).isSome then
        { d with latch := tset d.latch (key + 4) (d.mirrored (key + 4)) }
      else d

/-! ## Probes (R448) -/

/-- The data of cell registers and core memories can be read on the TEST and CELLWIN pages in the DEBUG lifecycle state
alone (R246, Tables 6.10 and 11.12). -/
def Dev.debugReads (d : Dev) : Bool := d.sec.lifecycle == 3

/-- The live contents that RD_SEL names: firing entries, routes, bindings, cell registers. -/
def Dev.cellProbe (d : Dev) (core sel : Nat) : W128 :=
  let c := d.cell core (sel % 16)
  let index := bitsOf sel 11 6
  match bitsOf sel 5 4 with
  | 0 => tget c.firing index 0
  | 1 => (tget c.routes index 0).setWidth 128
  | 2 => ((tget? (d.core core).bindings index).map (·.cfg)).getD 0
  | _ => if d.debugReads then c.reg index else 0

/-- The contents that DBG_SEL names: 16 bytes of the scratchpad or the accumulator, or a cell register. -/
def Dev.debugProbe (d : Dev) (core sel : Nat) : W128 :=
  let a := bitsOf sel 23 4
  let k := d.core core
  if !d.debugReads then 0
  else
    match sel % 4 with
    | 0 => BitVec.ofNat 128 (mnat k.spad (16 * a) 16)
    | 1 => BitVec.ofNat 128 (mnat k.acc (16 * a) 16)
    | 2 => (d.cell core (a / 64 % 16)).reg a
    | _ => 0

/-- The block's answer to the select in force reaches the mirror. -/
def probeAnswerEff (core : Nat) (test : Bool) (d : Dev) : Dev :=
  let sel := d.rnat (if test then coreKey core 14 0x110 else coreKey core 12 0x100)
  let v := if test then d.debugProbe core sel else d.cellProbe core sel
  let first := if test then coreKey core 14 0x114 else coreKey core 12 0x104
  let put := fun (d : Dev) (i : Nat) =>
    let w : W32 := (v >>> (32 * i)).setWidth 32
    (d.rset (first + 4 * i) w).setMirror (first + 4 * i) w
  if !(d.updates (islOfCore core)) then d else ([0, 1, 2, 3].foldl put d).toMirror (islOfCore core)

/-! ## The memory window (R398) -/

/-- The context and the context address that an offset of the memory window reaches. -/
def Dev.memwinAt (d : Dev) (offset : Nat) : Nat × Nat :=
  (d.rnat (hostifKey 0x300) % 1024, d.rget64 (hostifKey 0x308) / 2 ^ 36 * 2 ^ 36 % 2 ^ 48 + offset)

/-- Whether the window shows a range: it is enabled, its context has an address space, and every page of the range
is a T1 page, writable for a write. From the kill on no window reads a context's memory (R246). -/
def Dev.memwinGood (d : Dev) (offset n : Nat) (write : Bool) : Bool :=
  let a := d.memwinAt offset
  let c := d.ctx a.1
  bitAt (d.rnat (hostifKey 0x300)) 31 && !c.state.gone && decide (offset + n ≤ 2 ^ 36)
    && (piecesOf a.2 n).all (fun p =>
      match c.translate p.1 write false with
      | (st, .t1 _ _) => st == 0
      | (_, .t2 _) => false)

/-- The hub through which the host island reads and writes context memory: hub 0 of die 0 (assumption 124). -/
abbrev hostHub : Nat := 0

/-- Whether the host's accesses reach a range of a context's memory through that hub. -/
def Dev.hostMemOpen (d : Dev) (x va n : Nat) : Bool :=
  d.routeOpen islHost (islOfHub hostHub) && d.routeOpen (islOfHub hostHub) islHost && d.memOpen hostHub x va n

/-- A request of the host island to that hub, and the answer. -/
def Dev.hostTrip (d : Dev) : Dev := (d.carry islHost (islOfHub hostHub)).carry (islOfHub hostHub) islHost

/-- A read of the memory window. A T1 page is read as a hub reads it, cached; what a read answers that meets an
uncorrectable word, which delivers no data, is left open (assumption 125). -/
def memwinReadEff (offset len : Nat) (u : ReadUpset) (d : Dev) : Dev :=
  let a := d.memwinAt offset
  let answer := fun (d : Dev) (bs : List Byte) => { d with host := { d.host with memwinData := bs } }
  if !d.hostUp then d
  else if d.memwinGood offset len false then
    if !(d.hostMemOpen a.1 a.2 len) then d
    else
      let r := d.hostTrip.hubReadMeets hostHub a.1 a.2 len u
      if r.1 = 0 then answer r.2.2 r.2.1 else answer r.2.2.drew (freeBytes r.2.2.free 0 len)
  else answer (d.count (hostifKey 0x828) 1) (List.replicate len 0xFF)

/-- A host write to a context's memory, by window or copy (R202, R259): outside IDLE a write to a versioned page or
to a logged object is dropped and counted. The pieces of the range follow one another. -/
def Dev.hostPut (d : Dev) (x : Nat) : List Byte → List (Nat × Nat) → Dev
  | _, [] => d
  | bs, p :: r =>
    let c := d.ctx x
    let logged := match d.objAt x p.1 with
      | some o => o.2.isLogged
      | none => false
    let place := (c.translate p.1 true false).2
    if (pteVersioned (c.pte (p.1 / 0x200000)) || logged) && c.gyle.st != .idle then
      (d.count (gyleKey 0x858) 1).hostPut x (bs.drop p.2) r
    else ((d.store hostHub place (bs.take p.2)).memTrip hostHub place p.2 true).hostPut x (bs.drop p.2) r

def memwinWriteEff (offset : Nat) (data : List Byte) (d : Dev) : Dev :=
  let a := d.memwinAt offset
  if !d.hostUp then d
  else if d.memwinGood offset data.length true then
    if !(d.hostMemOpen a.1 a.2 data.length) then d
    else d.hostTrip.hostPut a.1 data (piecesOf a.2 data.length)
  else d.count (hostifKey 0x828) 1

/-! ## The commands -/

def execRegisterWrite (fn offset size : Nat) (value : W64) (s : State) : Host.Outcome State Fault Refusal :=
  onDev s (registerWriteEff fn offset size value)
def execErrStatusClear (offset : Nat) (value : W32) (s : State) : Host.Outcome State Fault Refusal :=
  onDev s (errStatusClearEff offset value)
def execCounterLowRead (offset : Nat) (s : State) : Host.Outcome State Fault Refusal := onDev s (counterLowReadEff offset)
def execStageGenWrite (offset : Nat) (gen : W32) (s : State) : Host.Outcome State Fault Refusal :=
  onDev s (stageGenWriteEff offset gen)
def execWinDataWrite (core : CoreId) (value : W32) (s : State) : Host.Outcome State Fault Refusal :=
  onDev s (winDataWriteEff core.1 value)
def execProbeSelect (core : CoreId) (test : Bool) (value : W32) (s : State) : Host.Outcome State Fault Refusal :=
  onDev s (probeSelectEff core.1 test value)
def execProbeAnswer (core : CoreId) (test : Bool) (s : State) : Host.Outcome State Fault Refusal :=
  onIsland s (islOfCore core.1) (probeAnswerEff core.1 test)
def execMirrorUpdate (offset : Meeting Nat Bool) (s : State) : Host.Outcome State Fault Refusal :=
  onDev s (mirrorUpdateEff offset.at_ offset.fault)
def execCounterSnapshot (page : Nat) (s : State) : Host.Outcome State Fault Refusal := onDev s (counterSnapshotEff page)
def execMemwinRead (offset : Nat) (len : Meeting Nat ReadUpset) (s : State) : Host.Outcome State Fault Refusal :=
  onDev s (memwinReadEff offset len.at_ len.fault)
def execMemwinWrite (offset : Nat) (data : List Byte) (s : State) : Host.Outcome State Fault Refusal :=
  onDev s (memwinWriteEff offset data)

end Sys2Proof.Machine
end

