-- ==== Sys2Proof/Machine/HostQueues.lean ====
section
/-! DEFINITION. Doorbells, queues and completions (R399 to R404), host ranges and copies (R405 to R407), function
resets and virtual functions (R391, R393), the sideband and DOE (R409 to R412, R428 to R430, R436). -/

namespace Sys2Proof.Machine

/-! ## Queues -/

/-- The function that a queue belongs to, and whether it is an event queue. -/
def Dev.queueFn (d : Dev) (q : Nat) : Nat := if q < 256 then q / 3 else (d.ctx ((q - 256) / 2)).fn
def isEventQ (q : Nat) : Bool := decide (q < 256) && q % 3 == 2

/-- Steps from index a up to index b of a ring. -/
def ringSteps (n a b : Nat) : Nat := (b + n - a) % n

/-- A queue raises its vector; a masked one sets its pending bit (R403). -/
def Dev.interrupt (d : Dev) (q : Nat) : Dev :=
  let x := d.queue q
  let v := (d.queueFn q, x.vector)
  let d := d.setQueue q { x with since := 0 }
  if d.host.msixMasked.contains v then { d with host := { d.host with msixPending := d.host.msixPending.insert v } }
  else { d with host := { d.host with msix := v :: d.host.msix } }

/-! ## Doorbells (R400) -/

/-- A doorbell that R400 ignores. -/
def Dev.badDoorbell (d : Dev) (fn ctx : Nat) : Dev :=
  (d.hostErr 1 fn).fnEvent fn (BitVec.ofNat 16 ctx) Code.doorbellInvalid 0 []

/-- The queue of a doorbell: a function reaches the context blocks of its own contexts, the physical one all. -/
def Dev.doorbellQueue (d : Dev) (fn : Nat) (ctx : Option CtxId) (own : Nat) (ofCtx : Nat → Nat) : Option (Nat × Nat) :=
  match ctx with
  | none => if fn ≤ 64 then some (own, 0xFFFF) else none
  | some x => if fn = 0 ∨ (d.ctx x.1).fn = fn then some (ofCtx x.1, x.1) else none

def sqTailEff (fn : Nat) (ctx : Option CtxId) (index : Nat) (d : Dev) : Dev :=
  match d.doorbellQueue fn ctx (adminSq fn) ctxSq with
  | none => d
  | some (q, x) =>
    let k := d.queue q
    if !d.hostUp then d
    else if k.entries ≤ index ∨ ringSteps k.entries k.tail (k.head + k.entries - 1) < ringSteps k.entries k.tail index then
      d.badDoorbell fn x
    else (d.setQueue q { k with tail := index }).count (hostifKey 0x818) 1

/-- A new head index of a queue that the device writes. -/
def Dev.headBell (d : Dev) (fn q x index : Nat) : Dev :=
  let k := d.queue q
  if !d.hostUp then d
  else if k.entries ≤ index then d.badDoorbell fn x
  else (d.setQueue q { k with head := index }).count (hostifKey 0x818) 1

def cqHeadEff (fn : Nat) (ctx : Option CtxId) (index : Nat) (d : Dev) : Dev :=
  match d.doorbellQueue fn ctx (adminCq fn) ctxCq with
  | none => d
  | some (q, x) => d.headBell fn q x index

def eqHeadEff (fn index : Nat) (d : Dev) : Dev :=
  if fn ≤ 64 then d.headBell fn (eventQ fn) 0xFFFF index else d

/-! ## Completions and events (R402, R403) -/

/-- The bytes of an entry (Table 14.5): 64, or 128 in an event queue. -/
def Entry.bytes (e : Entry) (phase event : Bool) : List Byte :=
  let n := if event then 112 else 48
  leBytes 4 e.cmdId.toNat ++ leBytes 2 e.status.toNat ++ leBytes 2 e.sqHead.toNat ++ leBytes 2 e.ctx.toNat
  ++ leBytes 1 e.type.toNat ++ leBytes 1 (b2n phase) ++ leBytes 4 e.info.toNat
  ++ (e.payload ++ List.replicate n 0).take n

/-- The status of a record's device event: a test failure and an injection miss have codes of their own. -/
def ErrRec.code (r : ErrRec) : W16 :=
  if r.detector = 0x0F then Code.testFailed else if r.detector = 0x10 then Code.injectMiss else classCode r.cls

/-- The oldest record of the log that has not been posted. -/
def Dev.nextRecord (d : Dev) : Option ErrRec := if d.ras.unposted = 0 then none else d.ras.log[d.ras.unposted - 1]?

/-- The entry that a queue posts next: what waits for it, then for the event queue of the physical function the
oldest record of the error log that has not been posted (R332). -/
def Dev.nextEntry? (d : Dev) (q : Nat) : Option (Entry × Dev) :=
  let k := d.queue q
  match k.waiting with
  | e :: r => some (e, d.setQueue q { k with waiting := r })
  | [] =>
    if q = eventQ 0 then
      match d.nextRecord with
      | some r =>
        let e : Entry :=
          { cmdId := 0, status := r.code, sqHead := 0, ctx := BitVec.ofNat 16 r.ctx, type := 2, info := 0
            payload := r.bytes }
        some (e, { d with ras := { d.ras with unposted := d.ras.unposted - 1 } })
      | none => none
    else none

/-- The device writes an entry into the next slot once CQ_HEAD has passed it, and raises the vector as R403 says. -/
def completionPostEff (q : Nat) (d : Dev) : Dev :=
  let k := d.queue q
  if !d.hostUp || k.entries == 0 || (k.tail + 1) % k.entries == k.head then d
  else
    match d.nextEntry? q with
    | none => d
    | some (e, d) =>
      let k := d.queue q
      let size := if isEventQ q then 128 else 64
      let at_ := k.base + k.tail * size
      let bs := e.bytes k.phase (isEventQ q)
      let d := if k.inT1 then (d.ctxWrite ((q - 256) / 2) at_ bs).2 else d.hostWrite at_ bs
      let next := (k.tail + 1) % k.entries
      let k := { k with tail := next, phase := if next = 0 then !k.phase else k.phase, since := k.since + 1 }
      let d := d.setQueue q k
      let d := if isEventQ q then d.count (devctlKey 0x800) 1 else d
      if k.coalCount ≤ k.since then d.interrupt q else d

def coalesceTimeoutEff (q : Nat) (d : Dev) : Dev := if (d.queue q).since = 0 then d else d.interrupt q

/-! ## Command fetch (R401, R404, Table 14.6) -/

/-- Opcodes of Table 14.6: opcode, admin queue, physical function only, bytes of the body that have a field. -/
def opcodes : List (Nat × Bool × Bool × Nat) := [
  (0x01, true, true, 4), (0x02, true, false, 21), (0x03, true, false, 3), (0x04, true, false, 16),
  (0x05, true, false, 4), (0x06, true, true, 17), (0x07, true, true, 5), (0x08, true, true, 12),
  (0x09, true, true, 20), (0x0A, true, true, 14), (0x0B, true, true, 2), (0x20, false, false, 16),
  (0x21, false, false, 0), (0x22, false, false, 0), (0x23, false, false, 0), (0x24, false, false, 36),
  (0x28, false, false, 32), (0x29, false, false, 32), (0x2A, false, false, 4), (0x2B, false, false, 8),
  (0x2C, false, false, 8), (0x2D, false, false, 25), (0x30, false, false, 16), (0x31, false, false, 8),
  (0x32, false, false, 9), (0x33, false, false, 9), (0x34, false, false, 0), (0x38, false, false, 48),
  (0x39, false, false, 2), (0x3A, false, false, 3), (0x40, false, false, 0), (0x41, false, false, 8),
  (0x42, false, false, 16), (0x43, false, false, 20), (0x44, false, false, 48)]

/-- What the device finds wrong with a command as it fetches it, SUCCESS where the command starts. `own` is the
context of its queue. -/
def Dev.fetchStatus (d : Dev) (fn : Nat) (own : Option Nat) (e : List Byte) : W16 :=
  let b := fun (off n : Nat) => leNat ((e.drop off).take n)
  let recovery := d.sec.devState == .recovery && b 0 1 == 0x09 && b 0x10 1 ≤ 2 && fn == 0 && own.isNone
  if d.sec.devState != .ready && !recovery then Code.deviceNotReady
  else
    match opcodes.find? (fun o => o.1 == b 0 1) with
    | none => Code.cmdOpcodeInvalid
    | some (op, admin, pf, used) =>
      if admin != own.isNone || (pf && fn != 0) then Code.cmdFunction
      else if 4 ≤ b 1 1 ∨ (op ≠ 0x40 ∧ b 8 8 ≠ 0) ∨ b (0x10 + used) (48 - used) ≠ 0
          ∨ (op = 0x09 ∧ b 0x11 3 ≠ 0) ∨ (op = 0x43 ∧ b 0x12 2 ≠ 0) then Code.cmdFieldInvalid
      else
        match own with
        | some x => if b 2 2 = x then 0 else Code.contextInvalid
        | none => 0

/-- The next command of a queue is fetched and starts, unless it is fenced behind earlier ones. `entry` is what the
host's memory holds there; a queue in T1 is read from the context's memory. -/
def commandFetchEff (fn : Nat) (ctx : Option CtxId) (entry : List Byte) (d : Dev) : Dev :=
  match d.doorbellQueue fn ctx (adminSq fn) ctxSq with
  | none => d
  | some (q, x) =>
    let k := d.queue q
    let e := if k.inT1 then (d.ctxRead x (k.base + 64 * k.head) 64).2 else entry
    let b := fun (off n : Nat) => leNat ((e.drop off).take n)
    let fence := bitAt (b 1 1) 0
    if !d.hostUp || k.entries == 0 || k.head == k.tail || e.length != 64
        || (fence && d.host.started.any (fun r => r.queue == q)) then d
    else
      let head := (k.head + 1) % k.entries
      let id := BitVec.ofNat 32 (b 4 4)
      let own := if q < 256 then none else some x
      let h : CmdHdr :=
        { fn := d.queueFn q, queue := if q < 256 then .admin else .context, ctx := if q < 256 then 0 else x, id := id
          fence := fence, quiet := bitAt (b 1 1) 1 }
      let r : Started := { queue := q, id := id, opcode := BitVec.ofNat 8 (b 0 1), sqHead := head }
      let st := d.fetchStatus h.fn own e
      let d := d.setQueue q { k with head := head }
      let d := { d with host := { d.host with started := d.host.started ++ [r] } }
      if st = 0 then d else d.complete h st 0

/-! ## QUEUE_CREATE and QUEUE_DELETE (R399) -/

/-- The number of the queue that a command of a function names: kind 0 SQ, 1 CQ, 2 event queue. -/
def queueNumber (fn x kind : Nat) : Nat := if kind = 0 then ctxSq x else if kind = 1 then ctxCq x else eventQ fn

/-- Context number of a queue command: in range and of the function; an event queue names none. -/
def Dev.queueCtxGood (d : Dev) (fn x kind : Nat) : Bool := kind == 2 || (decide (x < 1024) && (d.ctx x).fn == fn)

/-- A range of a context's memory lies wholly in T1. -/
def Ctx.inT1 (c : Ctx) (va n : Nat) : Bool :=
  (piecesOf va n).all (fun p =>
    match c.translate p.1 true false with
    | (st, .t1 _ _) => st == 0
    | (_, .t2 _) => false)

def queueCreateEff (h : CmdHdr) (ctx kind location base entries vector coalCount coalUs : Nat) (d : Dev) : Dev :=
  d.adminCmd h false (fun d =>
    let size := entries * (if kind = 2 then 128 else 64)
    let log := Nat.log2 entries
    if !(d.queueCtxGood h.fn ctx kind) then d.complete h Code.contextInvalid 0
    else if 2 < kind ∨ 1 < location ∨ base % 0x1000 ≠ 0 ∨ entries < 16 ∨ 65536 < entries ∨ 2 ^ log ≠ entries
        ∨ (if h.fn = 0 then 2048 else 32) ≤ vector ∨ 1000 < coalUs ∨ (kind = 2 ∧ location = 1)
        ∨ (location = 1 ∧ (d.ctx ctx).inT1 base size = false) then d.complete h Code.queueConfigInvalid 0
    else
      let q := queueNumber h.fn ctx kind
      let x : Queue := { Queue.none_ with
        base := base, entries := entries, inT1 := location == 1, vector := vector, coalCount := coalCount
        coalUs := coalUs, waiting := (d.queue q).waiting }
      (d.setQueue q x).complete h 0 0)

def queueDeleteEff (h : CmdHdr) (ctx kind : Nat) (d : Dev) : Dev :=
  d.adminCmd h false (fun d =>
    let q := queueNumber h.fn ctx kind
    let k := d.queue q
    if 2 < kind then d.complete h Code.cmdFieldInvalid 0
    else if !(d.queueCtxGood h.fn ctx kind) then d.complete h Code.contextInvalid 0
    else if kind = 0 ∧ (k.head ≠ k.tail ∨ d.host.started.any (fun r => r.queue == q)) then d.complete h Code.queueBusy 0
    else (d.setQueue q { Queue.none_ with waiting := k.waiting }).complete h 0 0)

/-! ## Host ranges (R405) -/

def hostRegisterEff (h : CmdHdr) (addr size : Nat) (d : Dev) : Dev :=
  d.adminCmd h false (fun d =>
    let clash := d.host.ranges.any (fun e => e.2.fn == h.fn && meets (addr, size) (e.2.base, e.2.size))
    if addr % 0x200000 ≠ 0 ∨ size % 0x200000 ≠ 0 ∨ size = 0 ∨ 2 ^ 64 < addr + size ∨ clash = true then
      d.complete h Code.hostRangeInvalid 0
    else
      let n := d.host.nextRange
      let r : HostRange := { fn := h.fn, base := addr, size := size }
      let d := { d with host := { d.host with ranges := tset d.host.ranges n r, nextRange := n + 1 } }
      d.complete h 0 (BitVec.ofNat 32 n))

/-- Whether an object, a swap area or a running copy uses a host range. -/
def Dev.rangeBusy (d : Dev) (id : Nat) (r : HostRange) : Bool :=
  let span := (r.base, r.size)
  let named := fun (o : Option (Nat × Nat)) => (o.map (fun p => p.1 == id)).getD false
  d.objs.any (fun e => named e.2.hostRange || named e.2.moveRange)
    || d.ctxs.any (fun e => e.2.fn == r.fn && e.2.state != .free && e.2.field 0x68 8 != 0
        && meets span (e.2.field 0x60 8, e.2.field 0x68 8))
    || d.host.copies.any (fun e => e.2.hdr.fn == r.fn
        && ((!e.2.srcCtx && meets span (e.2.src, e.2.bytes)) || (!e.2.dstCtx && meets span (e.2.dst, e.2.bytes))))

def hostUnregisterEff (h : CmdHdr) (range : Nat) (d : Dev) : Dev :=
  d.adminCmd h false (fun d =>
    match d.rangeOf h.fn range with
    | none => d.complete h Code.hostRangeInvalid 0
    | some r =>
      if d.rangeBusy range r then d.complete h Code.hostRangeBusy 0
      else
        ({ d with host := { d.host with ranges := tdel d.host.ranges range } }).complete h 0 0)

/-! ## Copies (R406, R407) -/

/-- A host range of a function holds the n bytes at a bus address. -/
def Dev.inRange (d : Dev) (fn a n : Nat) : Bool :=
  d.host.ranges.any (fun e => e.2.fn == fn && decide (e.2.base ≤ a) && decide (a + n ≤ e.2.base + e.2.size))

def copyEff (h : CmdHdr) (src dst bytes flags : Nat) (d : Dev) : Dev :=
  d.liveCmd h (fun d =>
    let sc := bitAt flags 0
    let dc := bitAt flags 1
    if 4 ≤ flags ∨ bytes % 4 ≠ 0 ∨ bytes < 4 ∨ 2 ^ 40 < bytes ∨ src % 4 ≠ 0 ∨ dst % 4 ≠ 0 then
      d.complete h Code.copyInvalid 0
    else if (!sc && !(d.inRange h.fn src bytes)) || (!dc && !(d.inRange h.fn dst bytes)) then
      d.complete h Code.hostRangeInvalid 0
    else
      let n := d.host.nextCopy
      let c : CopyRun := { hdr := h, src := src, dst := dst, bytes := bytes, srcCtx := sc, dstCtx := dc
                           left := (List.range ((bytes + 0xFFFFFF) / 0x1000000)).map (· * 0x1000000) }
      { d with host := { d.host with copies := tset d.host.copies n c, nextCopy := n + 1 } })

/-- A copy ends with a status. -/
def Dev.endCopy (d : Dev) (n : Nat) (c : CopyRun) (st : W16) : Dev :=
  ({ d with host := { d.host with copies := tdel d.host.copies n } }).complete c.hdr st 0

/-- Whether a piece of a copy reaches the context memory that it reads and writes. -/
def Dev.copyOpen (d : Dev) (c : CopyRun) (off len : Nat) : Bool :=
  let x := c.hdr.ctx
  (!c.srcCtx || d.hostMemOpen x (c.src + off) len) && (!c.dstCtx || d.hostMemOpen x (c.dst + off) len)

/-- Which of the pieces that the 8 engines hold lands next: a free choice among the first 8 (R407). -/
def Dev.pieceIx (d : Dev) (c : CopyRun) : Nat := Config.freeNat d.free % min 8 c.left.length

/-- A piece of a copy moves. `hostData` is what the host's memory holds at its source, `u` what a read of context
memory meets. -/
def copyPieceEff (n : Nat) (hostData : List Byte) (fault : Bool) (u : ReadUpset) (d : Dev) : Dev :=
  match tget? d.host.copies n with
  | none => d
  | some c =>
    let x := c.hdr.ctx
    let i := d.pieceIx c
    let off := c.left.getD i 0
    let len := min 0x1000000 (c.bytes - off)
    if fault && !(c.srcCtx && c.dstCtx) then d.endCopy n c Code.copyFault
    else if !(d.copyOpen c off len) then d
    else
      let r : W16 × List Byte × Dev :=
        if c.srcCtx then d.hostTrip.hubReadMeets hostHub x (c.src + off) len u
        else (0, if hostData.length = len then hostData else d.hostReads (c.src + off) len, d)
      let w := if c.dstCtx then (d.ctx x).rangeStatus (c.dst + off) len true else 0
      if r.1 ≠ 0 then r.2.2.endCopy n c r.1
      else if w ≠ 0 then r.2.2.endCopy n c w
      else
        let d := r.2.2.drew
        let d := if c.dstCtx then d.hostTrip.hostPut x r.2.1 (piecesOf (c.dst + off) len)
          else d.store hostHub (.t2 (c.dst + off)) r.2.1
        let d := d.count (hostifKey 0x830) len
        let left := c.left.eraseIdx i
        if left = [] then d.endCopy n c 0
        else
          let c2 : CopyRun := { c with left := left }
          { d with host := { d.host with copies := tset d.host.copies n c2 } }

/-- A device request to the host gets no completion: the error is counted, and a copy it served fails. -/
def pcieCompletionTimeoutEff (copyId : Option Nat) (d : Dev) : Dev :=
  let d := (d.count (hostifKey 0x838) 1).hostErr 2 0
  match copyId with
  | none => d
  | some n =>
    match tget? d.host.copies n with
    | some c => if c.srcCtx && c.dstCtx then d else d.endCopy n c Code.copyFault
    | none => d

/-! ## Functions (R391, R393) -/

/-- A function's contexts are killed, its queues deleted and its outstanding completions dropped. -/
def Dev.resetFn (d : Dev) (fn : Nat) : Dev :=
  let xs := (d.ctxs.filter (fun e => e.2.fn == fn && e.2.state != .free)).map (·.1)
  let d := xs.foldl (fun d x => d.kill x none) d
  let gone := fun (d : Dev) (q : Nat) => d.queueFn q == fn && !(isEventQ q && fn == 0)
  let keep := d.queue (eventQ 0)
  let d := { d with host := { d.host with
    queues := d.host.queues.filter (fun e => !(gone d e.1))
    started := d.host.started.filter (fun r => d.queueFn r.queue != fn)
    d3hot := d.host.d3hot.filter (· != fn) } }
  if fn = 0 then d.setQueue (eventQ 0) { Queue.none_ with waiting := keep.waiting } else d

/-- Functions that a function-level reset of the physical one takes: every one. -/
def functionLevelResetEff (fn : Nat) (d : Dev) : Dev :=
  if fn = 0 then
    let d := (List.range 65).foldl Dev.resetFn d
    { d with host := { d.host with vfEnable := false, vfs := 0 } }
  else if fn ≤ 64 then d.resetFn fn else d

/-- D3hot is accepted while no context of the function is RUNNING, RESIDENT or BLOCKED. -/
def d3hotRequestEff (fn : Nat) (d : Dev) : Dev :=
  let busy := d.ctxs.any (fun e =>
    e.2.fn == fn && (e.2.state == .running || e.2.state == .resident || e.2.state == .blocked))
  if busy || d.host.d3hot.contains fn || decide (64 < fn) then d
  else { d with host := { d.host with d3hot := fn :: d.host.d3hot } }

/-- VF Enable set makes the virtual functions 1 to numVfs, cleared removes them: those that go are reset. -/
def vfEnableWriteEff (enable : Bool) (numVfs : Nat) (d : Dev) : Dev :=
  let n := if enable then min 64 numVfs else 0
  let d := ((List.range 65).filter (fun f => decide (n < f) && decide (f ≤ d.host.vfs))).foldl Dev.resetFn d
  { d with host := { d.host with vfEnable := enable, vfs := n } }

/-- The link has trained at a rate of 5, 6 or 7 and a width of 8 or 16 (Table 14.1). -/
def pcieLinkTrainedEff (rate width : Nat) (d : Dev) : Dev :=
  if d.hostUp ∧ 5 ≤ rate ∧ rate ≤ 7 ∧ (width = 8 ∨ width = 16) then
    { d with host := { d.host with rate := rate, width := width } }
  else d

/-! ## The sideband (R409 to R412) -/

/-- The sideband works while the device is powered and SYS_RST_N is high. -/
def Dev.sideband (d : Dev) : Bool := d.pins.pwrOk && d.pins.rstHigh

/-- An answer of a published protocol: its bytes are a free value. -/
def Dev.replyWith (d : Dev) (bs : List Byte) : Dev :=
  let d := d.drew
  { d with host := { d.host with replies := bs :: d.host.replies } }
def Dev.reply (d : Dev) : Dev := d.replyWith (Config.protocolReply d.free)

/-- The value of a PLDM sensor, as the mirror holds it, the sensors numbered in the order of R411 from 0: junction
temperatures of the dies, temperatures of the stacks, package power, VDD_CORE of the dies, DEVICE_STATE, tray_service. -/
def Dev.sensorValue (d : Dev) (n : Nat) : Option Nat :=
  let f := fun (key hi lo : Nat) => some (bitsOf (d.mirrored key).toNat hi lo)
  if n < 4 then f (powerKey n 0x10C) 7 0
  else if n < 20 then f (hbmKey (n - 4) 0 0x14) 23 16
  else if n = 20 then f (powerKey 0 0x118) 11 0
  else if n < 25 then f (powerKey (n - 21) 0x108) 9 0
  else if n = 25 then f (secKey 0x14) 3 0
  else if n = 26 then f (rasKey 0x14) 0 0
  else none

/-- The answer to a sensor read: its form is the published protocol's, its value the sensor's. -/
def Dev.sensorAnswer (d : Dev) (n : Nat) : Dev :=
  match d.sensorValue n with
  | none => d.reply
  | some v => d.replyWith (Config.sensorReply d.free v)

/-- The sideband may write in every lifecycle state but BLANK (Table 15.5). -/
def Dev.sidebandWrites (d : Dev) : Bool := d.sec.lifecycle != 0

/-- A bank's number: 0 A, 1 B; the inactive bank is the one that is not running. -/
def Dev.idleBank (d : Dev) : Fin 2 := if d.sec.bankB then 0 else 1

/-- Bytes written to the inactive bank, which is no longer verified (Table 15.11). -/
def Dev.bankWrite (d : Dev) (offset : Nat) (data : List Byte) : Dev :=
  let i := d.idleBank
  let d := d.toFlash { d.flash with
    banks := d.flash.banks.set i.1 none i.2
    bankBytes := d.flash.bankBytes.set i.1 (mwrites (d.flash.bankBytes.get i) offset data) i.2 }
  { d with sec := { d.sec with verified := false } }

/-- The inactive bank is checked under R418 as class 0 (Table 15.11). `image` is what it holds where bytes have been
written to it since it was last checked. -/
def Dev.bankVerify (d : Dev) (image : Signed) : W16 × Dev :=
  let i := d.idleBank
  let bank := (d.flash.banks.get i).getD image
  let st := d.checkSigned bank 0 false
  let d := d.toFlash { d.flash with banks := d.flash.banks.set i.1 (some bank) i.2 }
  (st, { d with sec := { d.sec with verified := st == 0 } })

/-- The directory names the inactive bank active from the next start-up. -/
def Dev.bankActivate (d : Dev) : Dev := d.dirWrite (!d.sec.bankB) d.dirNow.testSlot

/-- Whether the state of the device lets firmware be updated over PLDM (Tables 15.5 and 15.7). -/
def Dev.updateGood (d : Dev) : Bool :=
  d.sidebandWrites && (d.sec.devState == .ready || d.sec.devState == .recovery)

def mctpMessageEff (m : Mctp) (d : Dev) : Dev :=
  let busy := fun (d : Dev) (b : Bool) => { d with sec := { d.sec with updateBusy := b } }
  if !d.sideband then d
  else
    match m with
    | .setEndpointId eid => (({ d with host := { d.host with eid := eid } } : Dev)).reply
    | .control _ => d.reply
    | .pldmBase _ => d.reply
    | .pldmSensorRead sensor n => (d.count (hostifKey 0x840) n).sensorAnswer sensor
    | .pldmFirmware offset data =>
      if d.updateGood ∧ offset + data.length ≤ 0x1000000 then (busy (d.bankWrite offset data) true).reply else d.reply
    | .pldmFirmwareEnd bank =>
      if d.updateGood && d.sec.updateBusy then
        let r := (busy d false).bankVerify bank
        (if r.1 = 0 then r.2.bankActivate else r.2).reply
      else d.reply
    | .pldmTestPack pack stepping formGood =>
      if d.sidebandWrites && d.sec.devState == .ready then (d.loadPack pack stepping formGood).2.reply else d.reply
    | .other _ => d

def pldmPowerCapWriteEff (watts : Nat) (d : Dev) : Dev :=
  if !d.sideband then d
  else if d.sidebandWrites then (powerCapEff watts d).reply else d.reply

/-- The bus gives the target its dynamic address, by ENTDAA or from the static address; once it has one, neither
gives another (R409). -/
def dynamicAddressAssignmentEff (_setdasa : Bool) (addr : BitVec 7) (d : Dev) : Dev :=
  if d.sideband && !d.host.smbus && d.host.i3cAddr.isNone then
    { d with host := { d.host with i3cAddr := some addr } }
  else d

/-! ## SPDM, IDE and JTAG (R428 to R430, R436) -/

/-- Version negotiation comes first; a key exchange and its finish make a secure session. -/
def spdmRequestEff (doe : Bool) (r : Spdm) (d : Dev) : Dev :=
  let set := fun (d : Dev) (v k s : Bool) =>
    { d with host := { d.host with spdmVersion := v, spdmKex := k, spdmSession := s } }
  let h := d.host
  if (if doe then d.hostUp else d.sideband) = false then d
  else
    match r with
    | .getVersion => (set d true false h.spdmSession).reply
    | .keyExchange => if h.spdmVersion then (set d true true h.spdmSession).reply else d.reply
    | .finish => if h.spdmKex then ((set d true false true).count (secKey 0x828) 1).reply else d.reply
    | .endSession => (set d h.spdmVersion false false).reply
    | .getMeasurements ix =>
      if h.spdmVersion && (decide (ix ≤ 6) || ix == 0xFF) then d.replyWith (Config.measurementReply d.free 6 (d.measurementRecord ix))
      else d.reply
    | _ => d.reply

/-- IDE_KM over a secure session on DOE: a key programmed, a key set started or stopped. -/
def ideKmRequestEff (r : IdeKm) (secureSession : Bool) (d : Dev) : Dev :=
  let h := d.host
  if !d.hostUp || !secureSession || !h.spdmSession then d
  else
    match r with
    | .query => d.reply
    | .keyProg stream ks rx key =>
      let others := h.ideKeys.filter (fun k => !(k.1 == stream.1 && k.2.1 == ks.1 && k.2.2.1 == rx))
      ({ d with host := { h with ideKeys := (stream.1, ks.1, rx, key) :: others } } : Dev).reply
    | .keySetGo stream ks rx =>
      if h.ideKeys.any (fun k => k.1 == stream.1 && k.2.1 == ks.1 && k.2.2.1 == rx)
          && !(h.ideSecure.contains (stream.1, ks.1, rx)) then
        ({ d with host := { h with ideSecure := (stream.1, ks.1, rx) :: h.ideSecure } } : Dev).reply
      else d.reply
    | .keySetStop stream ks rx =>
      ({ d with host := { h with ideSecure := h.ideSecure.filter (· != (stream.1, ks.1, rx)) } } : Dev).reply

/-- IDCODE: stepping B0, part 0x7416, the maker's code, and bit 0 set. -/
def idcode : Nat := 0x1 * 2 ^ 28 + 0x7416 * 2 ^ 12 + Config.jep106 % 2 ^ 11 * 2 + 1

/-- The private instructions of the JTAG port work in BLANK, DEBUG and RMA (Table 15.5). -/
def Dev.debugPort (d : Dev) : Bool := d.sec.lifecycle == 0 || d.sec.lifecycle == 3 || d.sec.lifecycle == 4

/-- What an instruction puts before TDO: BYPASS nothing but a delay, the boundary register and what a private
instruction shifts out free values. A private instruction outside BLANK, DEBUG and RMA does not work. -/
def jtagInstructionEff (j : Jtag) (d : Dev) : Dev :=
  let out := fun (d : Dev) (bs : List Byte) => { d with sec := { d.sec with tdo := bs } }
  if !d.pins.pwrOk then d
  else
    match j with
    | .bypass => out d []
    | .samplePreload => out d.drew (Config.protocolReply d.free)
    | .extest => out d.drew (Config.protocolReply d.free)
    | .idcode => out d (leBytes 4 idcode)
    | .privateInstr _ => if d.debugPort then out d.drew (Config.protocolReply d.free) else out d []

/-! ## The commands -/

def execSqTail (fn : Nat) (ctx : Option CtxId) (index : Nat) (s : State) : Host.Outcome State Fault Refusal :=
  onDev s (sqTailEff fn ctx index)
def execCqHead (fn : Nat) (ctx : Option CtxId) (index : Nat) (s : State) : Host.Outcome State Fault Refusal :=
  onDev s (cqHeadEff fn ctx index)
def execEqHead (fn index : Nat) (s : State) : Host.Outcome State Fault Refusal := onDev s (eqHeadEff fn index)
def execCommandFetch (fn : Nat) (ctx : Option CtxId) (entry : List Byte) (s : State) :
    Host.Outcome State Fault Refusal := onDev s (commandFetchEff fn ctx entry)
def execCompletionPost (queue : Nat) (s : State) : Host.Outcome State Fault Refusal := onDev s (completionPostEff queue)
def execCoalesceTimeout (queue : Nat) (s : State) : Host.Outcome State Fault Refusal :=
  onDev s (coalesceTimeoutEff queue)
def execQueueCreate (h : CmdHdr) (ctx : W16) (kind location : Byte) (base : W64) (entries : W32) (vector : W16)
    (coalCount : Byte) (coalUs : W16) (s : State) : Host.Outcome State Fault Refusal :=
  onCmd s (queueCreateEff h ctx.toNat kind.toNat location.toNat base.toNat entries.toNat vector.toNat coalCount.toNat
    coalUs.toNat)
def execQueueDelete (h : CmdHdr) (ctx : W16) (kind : Byte) (s : State) : Host.Outcome State Fault Refusal :=
  onCmd s (queueDeleteEff h ctx.toNat kind.toNat)
def execHostRegister (h : CmdHdr) (addr size : W64) (s : State) : Host.Outcome State Fault Refusal :=
  onCmd s (hostRegisterEff h addr.toNat size.toNat)
def execHostUnregister (h : CmdHdr) (range : W32) (s : State) : Host.Outcome State Fault Refusal :=
  onCmd s (hostUnregisterEff h range.toNat)
def execCopy (h : CmdHdr) (src dst bytes : W64) (flags : Byte) (s : State) : Host.Outcome State Fault Refusal :=
  onCmd s (copyEff h src.toNat dst.toNat bytes.toNat flags.toNat)
def execCopyPiece (copyId : Nat) (hostData : Meeting (List Byte) Bool) (u : ReadUpset) (s : State) :
    Host.Outcome State Fault Refusal := onDev s (copyPieceEff copyId hostData.at_ hostData.fault u)
def execPcieCompletionTimeout (copyId : Option Nat) (s : State) : Host.Outcome State Fault Refusal :=
  onDev s (pcieCompletionTimeoutEff copyId)
def execFunctionLevelReset (fn : Nat) (s : State) : Host.Outcome State Fault Refusal :=
  onDev s (functionLevelResetEff fn)
def execD3hotRequest (fn : Nat) (s : State) : Host.Outcome State Fault Refusal := onDev s (d3hotRequestEff fn)
def execMctpMessage (m : Mctp) (s : State) : Host.Outcome State Fault Refusal := onDev s (mctpMessageEff m)
def execPldmPowerCapWrite (watts : Nat) (s : State) : Host.Outcome State Fault Refusal :=
  onDev s (pldmPowerCapWriteEff watts)
def execSpdmRequest (doe : Bool) (r : Spdm) (s : State) : Host.Outcome State Fault Refusal := onDev s (spdmRequestEff doe r)
def execIdeKmRequest (r : IdeKm) (secureSession : Bool) (s : State) : Host.Outcome State Fault Refusal :=
  onDev s (ideKmRequestEff r secureSession)
def execPcieLinkTrained (rate width : Nat) (s : State) : Host.Outcome State Fault Refusal :=
  onDev s (pcieLinkTrainedEff rate width)
def execVfEnableWrite (enable : Bool) (numVfs : Nat) (s : State) : Host.Outcome State Fault Refusal :=
  onDev s (vfEnableWriteEff enable numVfs)
def execDynamicAddressAssignment (setdasa : Bool) (addr : BitVec 7) (s : State) : Host.Outcome State Fault Refusal :=
  onDev s (dynamicAddressAssignmentEff setdasa addr)
def execJtagInstruction (j : Jtag) (s : State) : Host.Outcome State Fault Refusal := onDev s (jtagInstructionEff j)

end Sys2Proof.Machine
end

