-- ==== Sys2Proof/Machine/StartUp.lean ====
section
/-! DEFINITION. Pins, resets and power (R425, R470, R471), the start-up steps of Table 15.6 (R420 to R424), and
identity (R426, R427). -/

namespace Sys2Proof.Machine

/-! ## Resets and power -/

/-- A device reset: all state but fuses and flash goes (R425). The pins stay as they are driven from outside. -/
def Dev.deviceReset (d : Dev) (pins : Pins) : Dev :=
  let r := Dev.afterReset pins d.fuses d.flash d.hostMem d.free
  { r with host := { r.host with perst := d.host.perst, smbus := d.host.smbus } }

/-- Start-up begins at step 1 with PWR_OK and SYS_RST_N both high (R420). -/
def Dev.startUp (d : Dev) : Dev :=
  if d.pins.pwrOk && d.pins.rstHigh && d.sec.bootStep == 0 then { d with sec := { d.sec with bootStep := 1 } } else d

def sysRstNAssertEff (d : Dev) : Dev := d.deviceReset { d.pins with rstHigh := false, ibi := 0 }

/-- SB_MODE is sampled as SYS_RST_N rises. -/
def sysRstNDeassertEff (sbMode : Bool) (d : Dev) : Dev :=
  if d.pins.rstHigh then d
  else
    let d := { d with pins := { d.pins with rstHigh := true }, host := { d.host with smbus := sbMode } }
    d.startUp

/-- PWR_OK falls: a device reset, and every output is released (R471), THERMTRIP_N with them (R479). -/
def pwrOkDeassertEff (d : Dev) : Dev := d.deviceReset { d.pins with pwrOk := false, thermtrip := false, ibi := 0 }

def pwrOkAssertEff (d : Dev) : Dev :=
  if d.pins.pwrOk then d else ({ d with pins := { d.pins with pwrOk := true } }).startUp

/-- Power is lost without sequencing: the device stops, and keeps its fuses and flash. -/
def powerLossEff (d : Dev) : Dev := d.deviceReset { d.pins with pwrOk := false, thermtrip := false, ibi := 0 }

/-- Words of the host island's own pages: HOSTIF and VF_CTL. -/
def hostPageKey (k : Nat) : Bool := (decide (hostifKey 0 ≤ k) && decide (k < hostifKey 0x1000)) || decide (0x4000000 ≤ k)

/-- PERST# falls: the host island is reset, with the effects of a function-level reset of the physical function
(R425). The sideband's own state stays, and so do events that wait for the physical function's queue. -/
def perstAssertEff (d : Dev) : Dev :=
  if d.host.perst then d
  else if d.sec.bootStep ≤ 1 then { d with host := { d.host with perst := true } }
  else
    let d := functionLevelResetEff 0 d
    let h := d.host
    let waiting := (d.queue (eventQ 0)).waiting
    let host : HostIf := { HostIf.reset with
      perst := true, smbus := h.smbus, eid := h.eid, i3cAddr := h.i3cAddr, replies := h.replies
      queues := [(eventQ 0, { Queue.none_ with waiting := waiting })] }
    let d := { d with
      host := host, mirror := [], latch := [], blk := d.blk.filter (fun e => !(hostPageKey e.1))
      crossings := d.crossings.filter (fun e => e.1 / 1024 != islHost && e.1 % 1024 != islHost) }
    d.setIsland islHost IslSt.reset

/-- Nominal frequencies of the islands that do not follow the compute frequency, in MHz (Table 13.2). -/
def islNominal (isl : Nat) : Nat :=
  match islKind isl with
  | 3 => 1600
  | 4 => 1600
  | 5 => 2000
  | 6 => 500
  | 7 => 1000
  | _ => 550

/-- Islands leave reset, pass their handshakes and run; their crossings open in their first state (R382). -/
def Dev.bringUp (d : Dev) (isls : List Nat) : Dev :=
  let d := isls.foldl (fun d i => d.modIsland i (fun s => { s with run := .run, freq := islNominal i })) d
  { d with crossings := d.crossings.filter (fun e => !(isls.contains (e.1 / 1024)) && !(isls.contains (e.1 % 1024))) }

/-- PERST# rises: the host island leaves reset, and the mirror is rebuilt from the blocks. -/
def perstDeassertEff (d : Dev) : Dev :=
  if !d.host.perst then d
  else
    let d := { d with host := { d.host with perst := false } }
    if d.sec.bootStep ≤ 1 then d
    else if (d.island islHost).run == .run then d
    else (d.bringUp [islHost]).mirrorAll

/-! ## Start-up (Table 15.6) -/

/-- STATUS.state of a DIE page: 0 RESET, 1 STARTING, 2 UP, 3 FAILED. -/
def Dev.setDieState (d : Dev) (die st : Nat) : Dev := d.rsetNat (dieKey die 0x14) st

/-- Start-up goes on with its next step, or ends in FAILED (Table 15.7). -/
def Dev.nextStep (d : Dev) : Dev := { d with sec := { d.sec with bootStep := d.sec.bootStep + 1 } }
def Dev.startFailed (d : Dev) : Dev := { d with sec := { d.sec with devState := .failed } }

/-- A step of start-up acts when its turn has come and start-up has not ended. -/
def Dev.atStep (d : Dev) (n : Nat) : Bool := d.sec.bootStep == n && d.sec.devState == .booting

/-- The lifecycle code of the fused state (Tables 15.2 and 15.5). -/
def fusedState (n : Nat) : Nat := if n ≤ 2 then n else 4

/-- The copy of a two-copy region that start-up uses: the higher sequence among the good ones (R336). -/
def newerCopy (seqA seqB : Nat) (goodA goodB : Bool) : Option (Fin 2) :=
  if goodA && (!goodB || decide (seqB ≤ seqA)) then some 0 else if goodB then some 1 else none

/-- Units back in service, as in RMA (R334). -/
def backInService (t : Table UnitHist) : Table UnitHist :=
  t.map (fun e => (e.1, if e.2.state = .retired then { e.2 with state := Service.normal } else e.2))

/-- The service fields of the pages follow a history. -/
def Dev.showService (d : Dev) : Dev :=
  d.ras.hist.foldl (fun d e =>
    let kind := e.1 / 2 ^ 32
    let unit := e.1 % 2 ^ 32
    match coreOfUnit kind unit with
    | some c => d.coreService c
    | none => if kind == Unit.port && e.2.state == .retired then d.holdPort unit else d) d

/-- The fault history read from flash; `badA` and `badB`: the copy's CRC is found bad. Where neither copy is readable
the history starts empty, and tray service is reported. -/
def Dev.readHistory (d : Dev) (badA badB : Bool) : Dev :=
  let a := d.flash.hist[0]
  let b := d.flash.hist[1]
  match newerCopy (histSeq a) (histSeq b) (histGood a && !badA) (histGood b && !badB) with
  | none => d.trayReport 64
  | some i =>
    let c := d.flash.hist.get i
    let units := if d.sec.lifecycle = 4 then backInService (histUnits c) else histUnits c
    let reported := fieldAt c 0x10 4 % 2 == 1
    let reason := fieldAt c 0x14 4
    let d := { d with ras := { d.ras with
      hist := units, hours := fieldAt c 4 4, trayReported := reported, trayReason := reason } }
    let d := if reported then (d.rsetNat (rasKey 0x14) 1).rsetNat (rasKey 0x18C) reason else d
    d.showService

/-- Step 1: the management island of die 0 and the host island leave reset, the fuses are read. A fuse word that ECC
cannot correct is a DEVICE-class error that ends start-up in FAILED, and a reason for tray service. -/
def fuseCheckEff (bad : Bool) (nonce : BitVec 256) (d : Dev) : Dev :=
  if !(d.atStep 1) then d
  else
    let d := (d.bringUp [islMgmt 0, islHost]).setDieState 0 1
    let d := { d with sec := { d.sec with lifecycle := fusedState d.fuses.lifecycle, nonce := nonce } }
    if bad then
      let x : Detection :=
        { cls := 3, detector := 0x0E, unitKind := Unit.controller, unit := 0, island := islMgmt 0, ctx := 0xFFFF
          status := Code.errDevice, address := 0, flags := 0, page := rasKey 0 }
      let d := ((d.readHistory false false).errFire (rasKey 0) 1 0).deviceError x
      ((d.trayReport 64).setDieState 0 3).startFailed
    else d.nextStep

/-- The calibration overlay read from flash. -/
def Dev.readOverlay (d : Dev) : Dev :=
  let a := d.flash.cal[0]
  let b := d.flash.cal[1]
  match newerCopy a.seq b.seq a.good b.good with
  | none => d
  | some i => { d with ras := { d.ras with overlay := (d.flash.cal.get i).entries } }

/-- What verifying a bank gives: SUCCESS, or the code of the first check that fails; an unreadable image has no
well-formed signature block. -/
def Dev.bankStatus (d : Dev) (i : Fin 2) : W16 :=
  match d.flash.banks.get i with
  | some s => d.checkSigned s 0 false
  | none => Code.sigblockFormat

/-- The version that DEVCTL and the DIE pages report of the running bank. -/
def Dev.fwVersion (d : Dev) : W32 := ((d.runningImage).map (fun s => Config.fwVersion s.payload)).getD 0

/-- Step 2: a bank is verified, the other where the active one fails; history, overlay and test pack are read and
checked (R421). Where neither bank passes, the device enters RECOVERY. `stuck`: the history and calibration regions take
no write from here on. -/
def firmwareVerifyEff (historyABad historyBBad stuck : Bool) (d : Dev) : Dev :=
  if !(d.atStep 2) then d
  else
    let d := { d with flash := { d.flash with stuck := stuck } }
    let dir := d.dirNow
    let active : Fin 2 := if dir.bankB then 1 else 0
    let other : Fin 2 := if dir.bankB then 0 else 1
    let st := d.bankStatus active
    let d := (d.readHistory historyABad historyBBad).readOverlay
    let packBad := match d.flash.packs.toList.getD dir.testSlot none with
      | some p => d.checkSigned p 1 true != 0
      | none => false
    let d := { d with sec := { d.sec with packBad := packBad } }
    let run := fun (d : Dev) (b : Bool) =>
      let d := { d with sec := { d.sec with bankB := b } }
      ((d.rset (devctlKey 0x10C) d.fwVersion).rset (dieKey 0 0x10C) d.fwVersion).nextStep
    if st = 0 then run d dir.bankB
    else
      let d := d.errFire (secKey 0) 0 st.toNat
      if d.bankStatus other = 0 then
        let d := { d with sec := { d.sec with fallback := true } }
        (run d (!dir.bankB)).devEvent Code.bootFallback 0 []
      else { d with sec := { d.sec with devState := .recovery } }

/-- Islands that a step starts come up, but one that may be stuck; with one stuck, start-up ends in FAILED. -/
def Dev.startIslands (d : Dev) (isls : List Nat) (stuck : Option Nat) : Dev :=
  match stuck with
  | none => d.bringUp isls
  | some i =>
    if isls.contains i then ((d.bringUp (isls.filter (· != i))).setDieState (i / 256) 3).startFailed
    else d.bringUp isls

/-- Step 3: the supervisors of dies 1 to 3 start; one whose firmware check fails ends start-up. -/
def supervisorStartEff (failed : Option DieId) (d : Dev) : Dev :=
  if !(d.atStep 3) then d
  else
    let bad := fun (n : Nat) => failed.map (·.1) == some n && n != 0
    let start := fun (d : Dev) (n : Nat) =>
      if bad n then (d.errFire (dieKey n 0) 1 33).setDieState n 3
      else ((d.bringUp [islMgmt n]).setDieState n 1).rset (dieKey n 0x10C) d.fwVersion
    let d := [1, 2, 3].foldl start d
    if [1, 2, 3].any bad then d.startFailed else d.nextStep

/-- Step 4: the die-to-die links train, and their islands run. One that does not ends start-up. -/
def dieLinkTrainingEff (failed : Option Isl) (d : Dev) : Dev :=
  if !(d.atStep 4) then d
  else
    let isls := allIslands.filter (fun i => islKind i == 5)
    (d.startIslands isls (failed.map islId)).nextStep

/-- Whether a stack has a RETIRED pseudo-channel: it stays out of service (Table 11.7). -/
def Dev.stackRetired (d : Dev) (n : Nat) : Bool := (List.range 64).any (fun c => d.retired Unit.pc (64 * n + c))

/-- A stack trains, or does not and is out of service; the rows that the repair has replaced (R197). -/
def Dev.trainStack (d : Dev) (failed : Bool) (rows n : Nat) : Dev :=
  let d := if failed then d.errFire (hbmKey n 0 0) 1 0x3FF00 else d
  d.rsetNat (hbmKey n 0 0x14) (d.rnat (hbmKey n 0 0x14) / 65536 * 65536 + rows % 256 * 256
    + (if failed || d.stackRetired n then 2 else 1))

/-- A port trains: it is up, or goes on training. -/
def Dev.trainPort (d : Dev) (up : Bool) (p : Nat) : Dev :=
  if d.retired Unit.port p || d.rnat (tapKey p 0x10) % 2 == 0 then d
  else
    let d := d.setPortState p 1
    if up then portTrainedEff p d else d

/-- Step 5: the stacks and the ports train. `stuck`: an island, of those that this step or the next starts, that does not
leave reset. -/
def hbmTrainingEff (failed : List StackId) (pprRows : List Nat) (portsUp : List PortId) (stuck : Option Nat) (d : Dev) :
    Dev :=
  if !(d.atStep 5) then d
  else
    let d := d.startIslands (allIslands.filter (fun i => islKind i == 3 || islKind i == 4)) stuck
    let d := { d with sec := { d.sec with stuckIsland := stuck } }
    if d.sec.devState == .failed then d else
    let d := (List.range 16).foldl (fun d n => d.trainStack (failed.any (fun f => f.1 == n)) (pprRows.getD n 0) n) d
    ((List.range 12).foldl (fun d p => d.trainPort (portsUp.any (fun q => q.1 == p)) p) d).nextStep

/-- A core that an overlay entry retires is out of service (Table 11.10, type 3). -/
def Dev.overlayCores (d : Dev) : List Nat := (List.range 512).filter (fun c => !(d.ovValues 3 c).isEmpty)

/-- Step 6: the core and hub islands run at the compute frequency of their die, and each supervisor stages and
requests the merged repair maps of its cores. -/
def repairApplyEff (d : Dev) : Dev :=
  if !(d.atStep 6) then d
  else
    let d := d.startIslands (allIslands.filter (fun i => decide (islKind i ≤ 2))) d.sec.stuckIsland
    if d.sec.devState == .failed then d else
    let d := [0, 1, 2, 3].foldl Dev.setFreq d
    let d := d.overlayCores.foldl Dev.retireCore d
    ([0, 1, 2, 3].foldl (fun d n => d.mergeCores n ((List.range 128).map (· + 128 * n))) d).nextStep

/-- Step 7, once the maps of step 6 are in force: every core in service is tested; what fails is recorded. -/
def selfTestEff (fails : List (CoreId × Nat × Nat)) (d : Dev) : Dev :=
  if !(d.atStep 7) || d.apply.run.isSome || !d.apply.queue.isEmpty then d
  else
    let test := fun (d : Dev) (core : Nat) =>
      if d.retired Unit.core core then d
      else
        let mine := (fails.filter (fun f => f.1.1 == core)).map (fun f => (f.2.1, f.2.2))
        let r : TestOutcome :=
          { fails := mine, misses := [], cycles := Config.freeNat d.free, injections := Config.freeNat (d.free + 1) }
        d.drew.drew.testResults core r
    ((List.range 512).foldl test d).nextStep

/-! ## Identity (R426, R427) -/

/-- The byte strings of R426 and of an identity record. -/
def cborHead (major n : Nat) : List Byte :=
  if n < 24 then leBytes 1 (major * 32 + n)
  else if n < 256 then leBytes 1 (major * 32 + 24) ++ leBytes 1 n
  else if n < 65536 then leBytes 1 (major * 32 + 25) ++ (leBytes 2 n).reverse
  else if n < 2 ^ 32 then leBytes 1 (major * 32 + 26) ++ (leBytes 4 n).reverse
  else leBytes 1 (major * 32 + 27) ++ (leBytes 8 n).reverse
def cborUint (n : Nat) : List Byte := cborHead 0 n
def cborBytes (b : List Byte) : List Byte := cborHead 2 b.length ++ b

/-- A seed of R426: device secret, label, the lifecycle code, and F for the AliasID. -/
def Dev.seed (d : Dev) (label : String) (code : Nat) (f : List Byte) : List Byte :=
  Config.shake256 (leBytes 32 d.fuses.deviceSecret.toNat ++ ascii label ++ leBytes 1 code ++ f) 32

def Dev.devEd (d : Dev) (code : Nat) : List Byte := d.seed "ILAVO/DEVID/ED25519" code []
def Dev.devMl (d : Dev) (code : Nat) : List Byte := d.seed "ILAVO/DEVID/MLDSA65" code []
def Dev.aliasEd (d : Dev) (code : Nat) : List Byte := d.seed "ILAVO/ALIAS/ED25519" code d.fwDigest
def Dev.aliasMl (d : Dev) (code : Nat) : List Byte := d.seed "ILAVO/ALIAS/MLDSA65" code d.fwDigest

/-- SHA-512 of the DeviceID public keys for a lifecycle code. -/
def Dev.devKeyHash (d : Dev) (code : Nat) : BitVec 512 :=
  Config.sha512 (Config.ed25519Pub (d.devEd code) ++ Config.mldsaPub (d.devMl code))

/-- The alias record of Table 15.8: the map of keys 1 to 6, with the two signatures of the DeviceID keys. -/
def Dev.buildAlias (d : Dev) (code : Nat) : List Byte :=
  let body := cborUint 1 ++ cborUint d.fuses.serial.toNat ++ cborUint 2 ++ cborUint code
    ++ cborUint 3 ++ cborBytes d.fwDigest ++ cborUint 4 ++ cborBytes (Config.ed25519Pub (d.aliasEd code))
    ++ cborUint 5 ++ cborBytes (Config.mldsaPub (d.aliasMl code))
    ++ cborUint 6 ++ cborBytes (leBytes 64 (d.devKeyHash code).toNat)
  let sig := Config.hybridSign (d.devEd code) (d.devMl code) (ascii "ILAVO/ALIASREC") (cborHead 5 6 ++ body)
  cborHead 5 8 ++ body ++ cborHead 1 0 ++ cborBytes (sig.take 64) ++ cborHead 1 1 ++ cborBytes (sig.drop 64)

/-- Identity derived for the lifecycle state in force. -/
def Dev.identify (d : Dev) : Dev := { d with sec := { d.sec with aliasRecord := d.buildAlias d.sec.lifecycle } }

/-- Step 8: identity is derived, every die is up, DEVICE_STATE is READY, and the mirror holds what the blocks hold. -/
def identityDeriveEff (d : Dev) : Dev :=
  if !(d.atStep 8) then d
  else
    let d := d.identify
    let d := [0, 1, 2, 3].foldl (fun d n => d.setDieState n 2) d
    let ms := d.cycleOf (islMgmt 0) / 500000
    let d := { d with sec := { d.sec with devState := .ready, bootStep := 9, bootMs := ms } }
    d.trayCheck.mirrorAll

/-! ## The commands -/

def execSysRstNAssert (s : State) : Host.Outcome State Fault Refusal := onDev s sysRstNAssertEff
def execSysRstNDeassert (sbMode : Bool) (s : State) : Host.Outcome State Fault Refusal :=
  onDev s (sysRstNDeassertEff sbMode)
def execPwrOkDeassert (s : State) : Host.Outcome State Fault Refusal := onDev s pwrOkDeassertEff
def execPwrOkAssert (s : State) : Host.Outcome State Fault Refusal := onDev s pwrOkAssertEff
def execPowerLoss (s : State) : Host.Outcome State Fault Refusal := onDev s powerLossEff
def execPerstAssert (s : State) : Host.Outcome State Fault Refusal := onDev s perstAssertEff
def execPerstDeassert (s : State) : Host.Outcome State Fault Refusal := onDev s perstDeassertEff
def execFuseCheck (bad : Bool) (nonce : BitVec 256) (s : State) : Host.Outcome State Fault Refusal :=
  onDev s (fuseCheckEff bad nonce)
def execFirmwareVerify (historyBad : Bool × Bool) (stuck : Bool) (s : State) : Host.Outcome State Fault Refusal :=
  onDev s (firmwareVerifyEff historyBad.1 historyBad.2 stuck)
def execSupervisorStart (failed : Option DieId) (s : State) : Host.Outcome State Fault Refusal :=
  onDev s (supervisorStartEff failed)
def execDieLinkTraining (failed : Option Isl) (s : State) : Host.Outcome State Fault Refusal :=
  onDev s (dieLinkTrainingEff failed)
def execHbmTraining (failed : List StackId) (pprRows : List Nat) (portsUp : Meeting (List PortId) (Option Isl)) (s : State) :
    Host.Outcome State Fault Refusal := onDev s (hbmTrainingEff failed pprRows portsUp.at_ (portsUp.fault.map islId))
def execRepairApply (s : State) : Host.Outcome State Fault Refusal := onDev s repairApplyEff
def execSelfTest (fails : List (CoreId × Nat × Nat)) (s : State) : Host.Outcome State Fault Refusal :=
  onDev s (selfTestEff fails)
def execIdentityDerive (s : State) : Host.Outcome State Fault Refusal := onDev s identityDeriveEff

end Sys2Proof.Machine
end

