-- ==== Sys2Proof/Machine/Security.lean ====
section
/-! DEFINITION. Tokens and lifecycle (R434, R435), admission of partners (R431 to R433), and firmware update
(R437). -/

namespace Sys2Proof.Machine

/-! ## Tokens -/

/-- The payload of a token (R434). -/
def TokenBody_bytes (b : TokenBody) : List Byte :=
  leBytes 8 b.serial.toNat ++ leBytes 64 b.keyDigest.toNat ++ leBytes 32 b.nonce.toNat ++ leBytes 4 b.perms.toNat

/-- Whether the lifecycle state allows a permission: 1 DEBUG, 2 RMA, 4 PRODUCTION, exactly one of them. -/
def permitted (perms lifecycle : Nat) : Bool :=
  (perms == 1 && lifecycle == 2) || (perms == 2 && (lifecycle == 2 || lifecycle == 3)) || (perms == 4 && lifecycle == 1)

/-- A token passes every check of R418 and R434. -/
def Dev.tokenGood (d : Dev) (t : Signed) (b : TokenBody) : Bool :=
  d.sec.entering.isNone && d.checkSigned t 2 (b.perms == 1) == 0 && t.payload == TokenBody_bytes b
    && b.serial == d.fuses.serial && b.keyDigest == d.devKeyHash 2 && b.nonce == d.sec.nonce
    && permitted b.perms.toNat d.sec.lifecycle

/-- Every context is killed, every window closed and every partner revoked (R435). -/
def Dev.shutDown (d : Dev) : Dev :=
  let d := (d.liveCtxs).foldl (fun d x => d.kill x none) d
  let d := { d with windows := closeWindows d.windows }
  (d.sec.partners.map (·.1)).foldl Dev.revokePartner d

/-- What an accepted token does. No state returns to an earlier fused one (R419). -/
def Dev.tokenActs (d : Dev) (t : Signed) (perms : Nat) : Dev :=
  let d := (d.count (secKey 0x818) 1).raiseRollback 2 t.rollback
  if perms = 4 then { d with fuses := { d.fuses with lifecycle := max d.fuses.lifecycle 2 } }
  else
    let d := d.shutDown
    let d := { d with sec := { d.sec with token := some t.digest, entering := some (if perms = 1 then 3 else 4) } }
    if perms = 2 then { d with fuses := { d.fuses with lifecycle := max d.fuses.lifecycle 3 } } else d

def tokenPresentEff (via : TokenVia) (token : Signed) (body : TokenBody) (d : Dev) : Dev :=
  let reaches := match via with
    | .tokenCtl => d.hostUp
    | .jtag => d.pins.pwrOk
  if !reaches || d.sec.devState != .ready then d
  else if d.tokenGood token body then d.tokenActs token body.perms.toNat
  else (d.count (secKey 0x820) 1).errFire (secKey 0) 3 Code.tokenRefused.toNat

/-- The entry into DEBUG or RMA once every sparge and the zeroing of freed frames are complete. In RMA units that
were RETIRED are back in service (R334). -/
def debugEntryEff (d : Dev) : Dev :=
  match d.sec.entering with
  | none => d
  | some code =>
    let done := d.liveCtxs.isEmpty && d.pool.toList.all (fun p => p.toZero.isEmpty)
    if !done then d
    else
      let d := { d with sec := { d.sec with lifecycle := code, entering := none } }
      let d := d.identify
      if code = 4 then
        let d := { d with ras := { d.ras with hist := backInService d.ras.hist } }
        d.showService.histWrite
      else d

/-! ## Admission (R431, Table 15.10) -/

/-- The data of an OFFER or an ANSWER. -/
def AdmitData_bytes (a : AdmitData) : List Byte :=
  leBytes 32 a.nonce.toNat ++ leBytes 32 a.x25519.toNat ++ a.kem ++ a.deviceRecord ++ a.aliasRecord

def Dev.admission (d : Dev) (p : Nat) : Option Admission := tget? d.sec.admissions p
def Dev.setAdmission (d : Dev) (p : Nat) (a : Admission) : Dev :=
  { d with sec := { d.sec with admissions := tset d.sec.admissions p a } }
def Dev.endAdmission (d : Dev) (p : Nat) : Dev :=
  { d with sec := { d.sec with admissions := tdel d.sec.admissions p } }

/-- The device admits and answers only in PRODUCTION, and only while it is READY. -/
def Dev.mayAdmit (d : Dev) : Bool := d.sec.devState == .ready && d.sec.lifecycle == 2

/-- An ADMIT message to a partner: op, flags and data. -/
def Dev.sendAdmit (d : Dev) (port p op flags : Nat) (data : List Byte) : Dev :=
  let h := d.hdrFrom 0 7 0 p 0 0 (bodyOf (leBytes 1 op ++ leBytes 1 flags))
  let h : MsgHdr := { h with srcCtx := 0, job := 0, gyle := 0, attempt := 0, layoutEpoch := 0 }
  d.sendMsg port h data

/-- The ADMIT message at the head of a port's channel 0, of one op, with these data. -/
def Dev.headAdmit (d : Dev) (port op : Nat) (data : List Byte) : Option RxMsg :=
  d.headMsg port 0 (fun m =>
    m.hdr.type == 7 && bodyField m.hdr 0x24 1 == op && m.data.take data.length == data)

/-- The exchange with a partner fails with a code. -/
def Dev.admitFails (d : Dev) (p : Nat) (st : W16) : Dev :=
  ((((d.endAdmission p).count (secKey 0x808) 1).errFire (secKey 0) 1 st.toNat).devEvent st (BitVec.ofNat 32 p) [])

/-- A failure that this side finds: the other side is told by DONE. -/
def Dev.admitRefuse (d : Dev) (port p : Nat) : Dev :=
  (d.sendAdmit port p 3 0 (leBytes 2 Code.admitFailed.toNat)).admitFails p Code.admitFailed

/-- The flag of an ADMIT message: its sender requests encryption. -/
def RxMsg.encrypts (m : RxMsg) : Bool := bitAt (bodyField m.hdr 0x25 1) 0

/-- The peer's records pass the checks of R431, and it requested encryption where the policy requires it (R433). -/
def Dev.peerGood (d : Dev) (a : AdmitData) (encrypts : Bool) : Bool :=
  Config.recordVerifies a.deviceRecord
    && [0, 1, 2].any (fun s => d.slotRoot s == some (Config.recordSigner a.deviceRecord))
    && Config.aliasVerifies a.deviceRecord a.aliasRecord && Config.aliasCode a.aliasRecord == 2
    && (encrypts || !(bitAt (d.rnat (secKey 0x144)) 1))

/-- The device's own data: a fresh private value, a nonce, its records. -/
def Dev.ownData (d : Dev) (nonce : BitVec 256) (kem : BitVec 256 → List Byte) : BitVec 256 × AdmitData :=
  let priv : BitVec 256 := BitVec.ofNat 256 (leNat (freeBytes d.free 0 32))
  (priv, { nonce := nonce, x25519 := Config.x25519Pub priv, kem := kem priv, deviceRecord := d.ownRecord
           aliasRecord := d.sec.aliasRecord })

/-- T: the hash of OFFER and ANSWER data and of the two identifiers. -/
def Dev.transcript (d : Dev) (p : Nat) (a : Admission) : List Byte :=
  let mine := (a.own.map AdmitData_bytes).getD []
  let yours := (a.peer.map AdmitData_bytes).getD []
  let me := leBytes 3 d.selfId
  let you := leBytes 3 p
  leBytes 64 (Config.sha512 (if a.initiator then mine ++ yours ++ me ++ you else yours ++ mine ++ you ++ me)).toNat

/-- The device's PROOF. -/
def Dev.sendProof (d : Dev) (p : Nat) (a : Admission) : Dev :=
  let code := d.sec.lifecycle
  d.sendAdmit a.port p 2 0
    (Config.hybridSign (d.aliasEd code) (d.aliasMl code) (ascii "ILAVO/ADMIT") (d.transcript p a))

/-- A host write of ADMIT_REQ: an OFFER leaves, unless an exchange with the partner is under way. -/
def admitReqEff (p port : Nat) (encrypt : Bool) (nonce : BitVec 256) (d : Dev) : Dev :=
  if !d.hostUp || !(d.blockUp (islMgmt 0)) || !d.mayAdmit || reservedId p || decide (12 ≤ port)
      || (d.admission p).isSome then d
  else
    let d := d.toBlock (islMgmt 0)
    let o := d.ownData nonce Config.kemKey
    let a : Admission :=
      { port := port, initiator := true, encrypt := encrypt, own := some o.2, peer := none, peerEncrypt := false, priv := o.1
        proofGood := false, doneSeen := false, answered := false }
    (d.drew.setAdmission p a).sendAdmit port p 0 (b2n encrypt) (AdmitData_bytes o.2)

/-- An OFFER is answered where the policy or an own request lets it. Of two crossing OFFERs the one of the lower
identifier goes on (R432). -/
def offerEff (port : Nat) (o : AdmitData) (nonce : BitVec 256) (d : Dev) : Dev :=
  match d.headAdmit port 0 (AdmitData_bytes o) with
  | none => d
  | some m =>
    let p := m.hdr.src.toNat
    let d := d.popMsg port 0
    let mine := d.admission p
    let pending := (mine.map (fun a => a.initiator && a.peer.isNone)).getD false
    let under := mine.isSome && !pending
    if !d.mayAdmit || under || (!pending && !(bitAt (d.rnat (secKey 0x144)) 0)) || (pending && decide (d.selfId < p)) then d
    else if !(d.peerGood o m.encrypts) then d.admitRefuse port p
    else
      let encrypt := (mine.map (·.encrypt)).getD false
      let own := d.ownData nonce (fun priv => Config.kemCipher priv o.kem)
      let a : Admission :=
        { port := port, initiator := false, encrypt := encrypt, own := some own.2, peer := some o, peerEncrypt := m.encrypts, priv := own.1
          proofGood := false, doneSeen := false, answered := true }
      ((d.drew.setAdmission p a).sendAdmit port p 1 (b2n encrypt) (AdmitData_bytes own.2)).sendProof p a

def answerEff (port : Nat) (o : AdmitData) (d : Dev) : Dev :=
  match d.headAdmit port 1 (AdmitData_bytes o) with
  | none => d
  | some m =>
    let p := m.hdr.src.toNat
    let d := d.popMsg port 0
    match d.admission p with
    | none => d
    | some a =>
      if !a.initiator || a.peer.isSome || a.port != port || !d.mayAdmit then d
      else if !(d.peerGood o m.encrypts) then d.admitRefuse port p
      else
        let a := { a with peer := some o, peerEncrypt := m.encrypts, answered := true }
        (d.setAdmission p a).sendProof p a

/-- The keys of the two directions (R433): initiator to responder, responder to initiator. -/
def Dev.portKeys (d : Dev) (p : Nat) (a : Admission) : BitVec 256 × BitVec 256 :=
  let kem := (a.peer.map (·.kem)).getD []
  let pub := (a.peer.map (·.x25519)).getD 0
  let k := Config.shake256
    (Config.x25519 a.priv pub ++ Config.kemSecret a.priv kem ++ d.transcript p a ++ ascii "ILAVO/TAPKEY") 64
  (BitVec.ofNat 256 (leNat (k.take 32)), BitVec.ofNat 256 (leNat (k.drop 32)))

/-- Both proofs verify and both sides are done: the partner is ADMITTED on this port, with its keys where either
side requested encryption or the policy requires it. -/
def Dev.admitDone (d : Dev) (p : Nat) (a : Admission) : Dev :=
  let used := a.encrypt || a.peerEncrypt || bitAt (d.rnat (secKey 0x144)) 1
  let ks := d.portKeys p a
  let old := d.partner p
  let d := d.noteEvent (islMgmt 0)
  let e : Partner :=
    { state := .admitted
      ports := (if old.state == .admitted then old.ports else 0) ||| BitVec.ofNat 16 (2 ^ a.port)
      at_ := d.seqOf (islMgmt 0)
      session := if used then Config.freeWord d.free else 0
      encrypted := used
      keyTx := if !used then 0 else if a.initiator then ks.1 else ks.2
      keyRx := if !used then 0 else if a.initiator then ks.2 else ks.1 }
  let fresh := fun (t : Table Nat) => tcut t (p * 4) (p * 4 + 4)
  let d := d.drew.setPartner p e
  let d := { d with ports := d.ports.map (fun (q : Nat × Port) =>
    let x : Port := { q.2 with counters := fresh q.2.counters, sendCounters := fresh q.2.sendCounters }
    (q.1, x)) }
  ((d.endAdmission p).count (secKey 0x800) 1).devEvent 0 (BitVec.ofNat 32 p) []

/-- The exchange goes on after a message of it: it is done once the peer's proof and its DONE have come. -/
def Dev.admitGo (d : Dev) (p : Nat) (a : Admission) : Dev :=
  if a.proofGood && a.doneSeen then d.admitDone p a else d.setAdmission p a

def proofEff (port : Nat) (signature : List Byte) (d : Dev) : Dev :=
  match d.headAdmit port 2 signature with
  | none => d
  | some m =>
    let p := m.hdr.src.toNat
    let d := d.popMsg port 0
    match d.admission p with
    | none => d
    | some a =>
      match a.peer with
      | none => d
      | some o =>
        if a.port != port || a.proofGood || !d.mayAdmit then d
        else if Config.hybridVerify (Config.aliasKeys o.aliasRecord) signature (ascii "ILAVO/ADMIT") (d.transcript p a) then
          (d.sendAdmit port p 3 0 (leBytes 2 0)).admitGo p { a with proofGood := true }
        else d.admitRefuse port p

def doneEff (port : Nat) (status : W16) (d : Dev) : Dev :=
  match d.headAdmit port 3 (leBytes 2 status.toNat) with
  | none => d
  | some m =>
    let p := m.hdr.src.toNat
    let d := d.popMsg port 0
    match d.admission p with
    | none => d
    | some a =>
      if a.port != port || !d.mayAdmit then d
      else if status = 0 then (if a.peer.isSome then d.admitGo p { a with doneSeen := true } else d)
      else d.admitFails p Code.admitFailed

def admitTimeoutEff (p : Nat) (d : Dev) : Dev :=
  if (d.admission p).isSome then d.admitFails p Code.admitTimeout else d

def revokeEff (p : Nat) (d : Dev) : Dev :=
  if d.hostUp then d.atBlock (islMgmt 0) (fun d => (d.noteEvent (islMgmt 0)).revokePartner p) else d

/-! ## Firmware update (R437, Table 15.11) -/

/-- An FW_UPDATE operation: on the physical function's admin queue, one update at a time; WRITE, VERIFY and ACTIVATE
in RECOVERY as well (Table 15.7). -/
def Dev.fwCmd (d : Dev) (h : CmdHdr) (recovery : Bool) (f : Dev → Dev) : Dev :=
  if d.sec.devState != .ready && !(recovery && d.sec.devState == .recovery) then d.complete h Code.deviceNotReady 0
  else if h.queue != .admin || h.fn != 0 then d.complete h Code.cmdFunction 0
  else if d.sec.updateBusy then d.complete h Code.fwBusy 0
  else f d

def fwUpdateWriteEff (h : CmdHdr) (offset : Nat) (data : List Byte) (d : Dev) : Dev :=
  d.fwCmd h true (fun d =>
    if offset % 0x1000 ≠ 0 ∨ data.length % 0x1000 ≠ 0 ∨ 0x1000000 < offset + data.length then d.complete h Code.fwRange 0
    else (d.bankWrite offset data).complete h 0 0)

def fwUpdateVerifyEff (h : CmdHdr) (image : Signed) (d : Dev) : Dev :=
  d.fwCmd h true (fun d =>
    let bank := (d.flash.banks.get d.idleBank).getD image
    let r := d.bankVerify image
    r.2.complete h r.1 (if r.1 = 0 then BitVec.ofNat 32 bank.rollback else 0))

def fwUpdateActivateEff (h : CmdHdr) (d : Dev) : Dev :=
  d.fwCmd h true (fun d =>
    if d.sec.verified then d.bankActivate.complete h 0 0 else d.complete h Code.fwState 0)

def fwUpdateCommitEff (h : CmdHdr) (d : Dev) : Dev :=
  d.fwCmd h false (fun d =>
    if d.dirNow.bankB == d.sec.bankB && !d.sec.fallback then
      (d.raiseRollback 0 (((d.runningImage).map (·.rollback)).getD 0)).complete h 0 0
    else d.complete h Code.fwState 0)

/-- A class-3 blob that names this device, checked under R418; what it does raises the class-3 counter. -/
def Dev.blobActs (d : Dev) (h : CmdHdr) (blob : Signed) (serial : W64) (refused : W16) (f : Dev → Dev) : Dev :=
  let st := d.checkSigned blob 3 false
  if st ≠ 0 then d.complete h st 0
  else if refused ≠ 0 then d.complete h refused 0
  else if serial ≠ d.fuses.serial then d.complete h Code.fwState 0
  else ((f d).raiseRollback 3 blob.rollback).complete h 0 0

def revokeSlotEff (h : CmdHdr) (blob : Signed) (serial : W64) (slot : Nat) (d : Dev) : Dev :=
  d.fwCmd h false (fun d =>
    let refused : W16 := if blob.slot = slot ∨ 2 ≤ slot then Code.fwState else 0
    d.blobActs h blob serial refused (fun d =>
      { d with fuses := { d.fuses with vendorRevoked :=
        (if slot = 0 then d.fuses.vendorRevoked.set 0 true else d.fuses.vendorRevoked.set 1 true) } }))

def ownerEnrolEff (h : CmdHdr) (blob : Signed) (serial : W64) (root : BitVec 512) (d : Dev) : Dev :=
  d.fwCmd h false (fun d =>
    if d.sec.lifecycle ≠ 2 then d.complete h Code.lifecycle 0
    else if d.fuses.ownerValid then d.complete h Code.ownerPresent 0
    else
      d.blobActs h blob serial 0 (fun d =>
        { d with fuses := { d.fuses with ownerRoot := root, ownerValid := true } }))

/-! ## The commands -/

def execTokenPresent (via : TokenVia) (token : Signed) (body : TokenBody) (s : State) :
    Host.Outcome State Fault Refusal := onDev s (tokenPresentEff via token body)
def execDebugEntry (s : State) : Host.Outcome State Fault Refusal := onDev s debugEntryEff
def execAdmitReq (partner : BitVec 24) (port : Nat) (encrypt : Bool) (nonce : BitVec 256) (s : State) :
    Host.Outcome State Fault Refusal := onDev s (admitReqEff partner.toNat port encrypt nonce)
def execOffer (port : PortId) (d : AdmitData) (nonce : BitVec 256) (s : State) : Host.Outcome State Fault Refusal :=
  onDev s (offerEff port.1 d nonce)
def execAnswer (port : PortId) (d : AdmitData) (s : State) : Host.Outcome State Fault Refusal :=
  onDev s (answerEff port.1 d)
def execProof (port : PortId) (signature : List Byte) (s : State) : Host.Outcome State Fault Refusal :=
  onDev s (proofEff port.1 signature)
def execDone (port : PortId) (status : W16) (s : State) : Host.Outcome State Fault Refusal :=
  onDev s (doneEff port.1 status)
def execAdmitTimeout (partner : BitVec 24) (s : State) : Host.Outcome State Fault Refusal :=
  onDev s (admitTimeoutEff partner.toNat)
def execRevoke (partner : BitVec 24) (s : State) : Host.Outcome State Fault Refusal := onDev s (revokeEff partner.toNat)
def execFwUpdateWrite (h : CmdHdr) (offset : W32) (data : List Byte) (s : State) : Host.Outcome State Fault Refusal :=
  onCmd s (fwUpdateWriteEff h offset.toNat data)
def execFwUpdateVerify (h : CmdHdr) (bank : Signed) (s : State) : Host.Outcome State Fault Refusal :=
  onCmd s (fwUpdateVerifyEff h bank)
def execFwUpdateActivate (h : CmdHdr) (s : State) : Host.Outcome State Fault Refusal := onCmd s (fwUpdateActivateEff h)
def execFwUpdateCommit (h : CmdHdr) (s : State) : Host.Outcome State Fault Refusal := onCmd s (fwUpdateCommitEff h)
def execRevokeSlot (h : CmdHdr) (blob : Signed) (serial : W64) (slot : Nat) (s : State) :
    Host.Outcome State Fault Refusal := onCmd s (revokeSlotEff h blob serial slot)
def execOwnerEnrol (h : CmdHdr) (blob : Signed) (serial : W64) (root : BitVec 512) (s : State) :
    Host.Outcome State Fault Refusal := onCmd s (ownerEnrolEff h blob serial root)

end Sys2Proof.Machine
end

