-- ==== Sys2Proof/Machine/Sequencer.lean ====
section
/-! DEFINITION. The core sequencer: the instructions of Table 4.10 (R118, R119, R495), the issue of a descriptor
(R127 to R140, R215, R237) and the stalls that a later command ends. -/

namespace Sys2Proof.Machine

/-! ## Fetching an instruction -/

def wordOp (w : W64) : Nat := w.toNat / 2 ^ 56
/-- The G register, or the semaphore of WAIT and LOADW, in bits [50:48]. -/
def wordG (w : W64) : Nat := bitsOf w.toNat 50 48

/-- What an instruction does, where the word at the slot's pc is of its opcode and nothing stalls the slot; a pc
beyond the tile program stops the task. `u` is what the code of the instruction memory finds in that word (R89). -/
def Dev.onInstr (d : Dev) (core : Nat) (t : SlotIx) (op : Nat) (u : WordEcc) (f : Slot → W64 → Dev → Dev) : Dev :=
  let s := d.slot core t
  if !(d.executes core t) || s.stall != .none then d
  else
    match s.program[s.seq.pc]? with
    | none => d.taskFail core t Code.pcRange 0
    | some w => if wordOp w = op then d.withWord core t u (f s w) else d

/-- The slot goes on with the next instruction. -/
def Dev.nextInstr (d : Dev) (core : Nat) (t : SlotIx) : Dev := d.goTo core t ((d.slot core t).seq.pc + 1)

/-- The slot waits with its pc at the present instruction. -/
def Dev.stallAt (d : Dev) (core : Nat) (t : SlotIx) (k : Stall) : Dev :=
  d.modSlot core t (fun s => { s with stall := k, state := .waiting })

/-! ## Registers and branches -/

def nopEff (core : Nat) (t : SlotIx) (u : WordEcc) (d : Dev) : Dev :=
  d.onInstr core t 0 u (fun _ _ d => d.nextInstr core t)

def addiEff (core : Nat) (t : SlotIx) (u : WordEcc) (d : Dev) : Dev :=
  d.onInstr core t 5 u (fun _ w d =>
    (d.modSlot core t (fun s => s.setG (wordG w) (s.g (wordG w) + w.setWidth 32))).nextInstr core t)

def moviEff (core : Nat) (t : SlotIx) (u : WordEcc) (d : Dev) : Dev :=
  d.onInstr core t 9 u (fun _ w d => (d.modSlot core t (fun s => s.setG (wordG w) (w.setWidth 32))).nextInstr core t)

def setlenEff (core : Nat) (t : SlotIx) (u : WordEcc) (d : Dev) : Dev :=
  d.onInstr core t 8 u (fun _ w d =>
    (d.modSlot core t (fun s => s.setLen (bitsOf w.toNat 42 40) (s.g (wordG w)))).nextInstr core t)

/-- G = G − 1, and a branch where G is not 0. -/
def loopEff (core : Nat) (t : SlotIx) (u : WordEcc) (d : Dev) : Dev :=
  d.onInstr core t 4 u (fun s w d =>
    let v := s.g (wordG w) - 1
    (d.modSlot core t (fun s => s.setG (wordG w) v)).goTo core t
      (if v = 0 then s.seq.pc + 1 else bitsOf w.toNat 11 0))

def brzEff (core : Nat) (t : SlotIx) (u : WordEcc) (d : Dev) : Dev :=
  d.onInstr core t 6 u (fun s w d =>
    d.goTo core t (if s.g (wordG w) = 0 then bitsOf w.toNat 11 0 else s.seq.pc + 1))

/-- G takes a word of the own scratchpad, checked under R85. -/
def loadgEff (core : Nat) (t : SlotIx) (u : WordEcc) (d : Dev) : Dev :=
  d.onInstr core t 7 u (fun s w d =>
    let off := bitsOf w.toNat 21 0
    let st := s.boundStatus 0 off 4
    if st ≠ 0 then d.taskFail core t st 0
    else
      let v := BitVec.ofNat 32 (leNat (d.opRead core t 0 off 4))
      (d.modSlot core t (fun s => s.setG (wordG w) v)).nextInstr core t)

/-! ## Waits and fences -/

/-- Waits until SEM ≥ n, then subtracts n. A wait that is not met may leave its context blocked (R236). -/
def waitEff (core : Nat) (t : SlotIx) (u : WordEcc) (d : Dev) : Dev :=
  d.onInstr core t 2 u (fun s w d =>
    let n := w.toNat % 2 ^ 16
    let sem := wordG w
    if n ≤ s.sem sem then (d.modSlot core t (fun s => s.setSem sem (s.sem sem - n))).nextInstr core t
    else (d.stallAt core t (.wait sem n)).checkBlocked s.ctx)

def waitReleaseEff (core : Nat) (t : SlotIx) (d : Dev) : Dev :=
  let s := d.slot core t
  match s.stall with
  | .wait sem n =>
    if d.executes core t && decide (n ≤ s.sem sem) then
      (d.modSlot core t (fun s => s.setSem sem (s.sem sem - n))).nextInstr core t
    else d
  | _ => d

/-- Nothing of the slot is queued or running, and every LOADW of it is complete (R495). -/
def Slot.quiet (s : Slot) : Bool := !s.busy && !s.loading

def fenceEff (core : Nat) (t : SlotIx) (u : WordEcc) (d : Dev) : Dev :=
  d.onInstr core t 10 u (fun s _ d => if s.quiet then d.nextInstr core t else d.stallAt core t .fence)

def fenceReleaseEff (core : Nat) (t : SlotIx) (d : Dev) : Dev :=
  let s := d.slot core t
  if s.stall == .fence && d.executes core t && s.quiet then d.nextInstr core t else d

/-! ## Claims (R139, R143) -/

/-- The slot has reached a CLAIM or END: its tickets close once their tiles have completed. -/
def Slot.reach (s : Slot) : Slot := { s with tickets := s.tickets.map (fun o => { o with reached := true }) }

/-- A claim goes to the work counter; with two tickets still open it stalls first. -/
def claimEff (core : Nat) (t : SlotIx) (u : WordEcc) (d : Dev) : Dev :=
  d.onInstr core t 3 u (fun _ w d =>
    let num := w.toNat % 2 ^ 16
    let d := d.modSlot core t Slot.reach
    d.stallAt core t
      (if 2 ≤ (d.slot core t).openCount then .claimFull (wordG w) num else .claimSent (wordG w) num))

/-! ## LOADW (R495) -/

/-- The block sequence at an offset begins to be copied, where its range lies in the grant. -/
def Dev.startLoadw (d : Dev) (core : Nat) (t : SlotIx) (sem off : Nat) : Dev :=
  let s := d.slot core t
  let len := dN (d.opRead core t 0 off 64) 8 4
  let st := firstFail [s.boundStatus 0 off 64, s.boundStatus 0 off len]
  if st ≠ 0 then d.taskFail core t st 0
  else
    (d.modSlot core t (fun s => { s with
      nextLoadw := s.nextLoadw + 1
      loadws := s.loadws ++ [{ id := s.nextLoadw, offset := off, sem := sem, length := len, copied := 0,
                               done := false, consumed := false }] })).nextInstr core t

/-- A slot holds two LOADW sequences that are not yet consumed. -/
def Slot.loadwFull (s : Slot) : Bool := decide (2 ≤ (s.loadws.filter (fun l => !l.consumed)).length)

def loadwEff (core : Nat) (t : SlotIx) (u : WordEcc) (d : Dev) : Dev :=
  d.onInstr core t 11 u (fun s w d =>
    if s.loadwFull then d.stallAt core t .loadw else d.startLoadw core t (wordG w) (bitsOf w.toNat 21 0))

/-- The last byte of a sequence is in the weight buffer: its semaphore is incremented. -/
def loadwCompleteEff (core : Nat) (t : SlotIx) (d : Dev) : Dev :=
  let s := d.slot core t
  match s.loadws.find? (fun l => !l.done && decide (l.length ≤ l.copied)) with
  | none => d
  | some l =>
    (d.modSlot core t (fun s => { s with
      loadws := (s.loadws.map (fun k => if k.id = l.id then { k with done := true } else k)).filter
        (fun k => !(k.consumed && k.done)) })).semUp core t l.sem 1

/-! ## Issue (R96, R127 to R140, R215, R237) -/

/-- What an ISSUE finds. -/
inductive Issued where
  /-- it stalls; on grist data where `grist` -/
  | stall (grist : Bool)
  /-- a check fails: the completion carries the code -/
  | fail (status : W16)
  /-- a tile wholly beyond its lengths, or with a ticket that is not open: SUCCESS at issue -/
  | skip (revoked : Bool) (bytes : List Byte)
  | queue (q : QDesc)
  deriving DecidableEq, Repr

/-- Offsets that the sequencer adds: every operand address of the descriptor (R85, R118). -/
def plainShift (b : List Byte) (delta : Int) : W16 × List Byte :=
  shiftFields b ((addrFields b).map (fun f => (f.off, delta)))

/-- The changes of R140 to a ticketed tile. -/
def ticketShift (b : List Byte) (o : OpenTicket) (r : QueueRec) : W16 × List Byte :=
  let n : Int := o.localIx
  let mx := dInMx b
  let scale : Int := o.localIx * r.sliceRows * (dK b / 32)
  let x := shiftFields b ([(0x10, n * r.strideA.toNat), (0x30, n * r.strideOut.toNat), (0x2C, n * r.strideZmask.toNat),
    (0x38, n * r.strideAmax.toNat), (0x3C, n * r.strideOscale.toNat)] ++ (if mx then [(0x28, scale)] else []))
  (x.1, redirects x.2 (ticketOwner o.ticket) ([0x10, 0x30, 0x2C, 0x38, 0x3C] ++ (if mx then [0x28] else [])))

/-- Check 7 over every operand (R85, R494). -/
def Slot.boundsOf (s : Slot) (b : List Byte) : W16 :=
  firstFail ((spansOf b).map (fun p => let a := dN b p.field 4; s.boundStatus (opTarget a) (opOffset a) p.len))

/-- The estimate of what remains of the descriptors of an engine (R237). -/
def Slot.backlog (s : Slot) (engine : Nat) : Nat :=
  ((s.descs.filter (fun q => q.engine == engine)).map (fun q =>
    match q.st with
    | .queued => q.est
    | .running => q.est - ((s.tile.map (·.cycles)).getD 0)
    | .finished _ => 0)).sum

/-- Descriptors of an engine that are queued and not yet running (R97). -/
def Slot.queuedOn (s : Slot) (engine : Nat) : Nat :=
  (s.descs.filter (fun q => q.engine == engine && q.st == .queued)).length

/-- What the grist stream that a tile names answers at issue: SUCCESS, a failing code, or none while the tile's
first 32 KiB are not there (R215, R216). -/
def Dev.gristIssue (d : Dev) (core : Nat) (t : SlotIx) (b : List Byte) : Option W16 :=
  let a := dN b 0x14 4
  if dEngine b ≠ 0 ∨ opTarget a ≠ 7 then some 0
  else
    match (d.cluster (core / 16)).stream (d.slot core t).ctx (opOffset a % 8) with
    | none => some Code.gristSequence
    | some g =>
      let j := opOffset a / 8
      if !(g.rec_.consumers.getLsbD (core % 16)) || decide (g.rec_.entries ≤ j) || decide (j < g.low)
          || g.released.contains j then
        some Code.gristSequence
      else
        match g.held.find? (fun h => h.num == j) with
        | some h => some (h.fault.getD 0)
        | none => if j < g.next then some Code.gristSequence else none

/-- Checks 8 to 10 of a descriptor, its supply of weights and the room at its engine. -/
def Dev.issueTail (d : Dev) (core : Nat) (t : SlotIx) (q : QDesc) : Issued :=
  let s := d.slot core t
  let b := q.bytes
  let st := firstFail ((if q.engine = 0 then [checkAccSlot b s.kind s.accSlots, checkDemand b s.kind] else [])
    ++ [checkDuration b s.kind (d.emuOne s.ctx) q.rv q.cv q.kv])
  if st ≠ 0 then .fail st
  else if 20480 < s.backlog q.engine + q.est then .stall false
  else
    match d.gristIssue core t b with
    | none => .stall true
    | some st => if st = 0 then .queue q else .fail st

/-- The descriptor of an ISSUE after its offsets, with the status that checks 6 and 7 give. -/
def Dev.issueBody (d : Dev) (core : Nat) (t : SlotIx) (q : QDesc) (ticket : Option OpenTicket)
    (x : W16 × List Byte) : Issued :=
  let s := d.slot core t
  let st := firstFail [x.1, s.boundsOf x.2]
  if st ≠ 0 then .fail st
  else
    let origin := (ticket.map (·.origin)).getD 0
    let e := extents x.2 s.seq.len origin
    let q : QDesc := { q with
      bytes := x.2, ticket := ticket.map (·.ticket), origin := origin, rv := e.1, cv := e.2.1, kv := e.2.2
      est := estimateOf x.2 s.kind (d.emuOne s.ctx) e.1 e.2.1 e.2.2 }
    if q.engine = 0 ∧ (e.1 = 0 ∨ e.2.1 = 0) then .skip false x.2 else d.issueTail core t q

/-- A scratchpad window of a context still awaits its copy-in (R301). -/
def Dev.copyInDue (d : Dev) (x : Nat) : Bool :=
  d.windows.any (fun w => w.2.state != .free && w.2.body.owner == x && w.2.redirected)

/-- What the ISSUE with word w finds. Holds for a pre-emption, an apply, a hot die (R478) and a copy-in stall it first, and so does a
full queue; then come the checks in the order of Table 5.1. -/
def Dev.issueFind (d : Dev) (core : Nat) (t : SlotIx) (w : W64) : Issued :=
  let s := d.slot core t
  let engine := bitsOf w.toNat 55 52
  let off := bitsOf w.toNat 21 0
  let out := bitAt (d.rnat (coreKey core 2 0x14)) 6
  let held := s.preempt || s.heldApply || out || (d.diePower (core / 128)).issueHold
  if d.copyInDue s.ctx || (engine == 0 && held) || decide (4 ≤ s.queuedOn engine) then .stall false
  else
    let st := s.boundStatus 0 off 64
    if st ≠ 0 then .fail st
    else
      let b := d.opRead core t 0 off 64
      let st := firstFail [if off % 64 = 0 then 0 else Code.descFieldInvalid, check1 b (some engine),
        if engine = 0 then checkShape b else 0]
      if st ≠ 0 then .fail st
      else
        let sem := bitsOf w.toNat 51 48
        let q : QDesc :=
          { engine := engine, bytes := b, offset := off, sem := if h : sem < 8 then some ⟨sem, h⟩ else none
            ticket := none, origin := 0, rv := 0, cv := 0, kv := 0, est := 0, cycles := 0, st := .queued
            health := Health.zero }
        let g := s.g (bitsOf w.toNat 46 44)
        if !(bitAt w.toNat 43) then d.issueBody core t q none (0, b)
        else if engine = 0 ∧ bitAt g.toNat 31 then
          if 5 ≤ ticketOwner g then .fail Code.ticketInvalid
          else
            match s.tickets.find? (fun o => o.ticket == g && !o.due),
                (d.cluster (core / 16)).queueOf s.ctx (ticketQueue g) with
            | some o, some r => d.issueBody core t q (some o) (ticketShift b o r.rec_)
            | _, _ => .skip true b
        else d.issueBody core t q none (plainShift b g.toInt)

/-- The consumer core has issued a tile that names a sequence of a stream (R213). -/
def Dev.nameSeq (d : Dev) (core : Nat) (t : SlotIx) (b : List Byte) : Dev :=
  let a := dN b 0x14 4
  if dEngine b ≠ 0 ∨ opTarget a ≠ 7 then d
  else
    let j := core / 16
    let x := (d.slot core t).ctx
    match (d.cluster j).stream x (opOffset a % 8) with
    | none => d
    | some g =>
      let k := core % 16
      let g : GStream := { g with named := tset g.named k (max (tget g.named k 0) (opOffset a / 8 + 1)) }
      let d := d.modCluster j (fun c => c.setStream g)
      d.passRelease j g

/-- The ISSUE at the slot's pc, with all its effects (R99, R128). -/
def Dev.issueNow (d : Dev) (core : Nat) (t : SlotIx) (w : W64) : Dev :=
  let sem := bitsOf w.toNat 51 48
  let semO : Option (Fin 8) := if h : sem < 8 then some ⟨sem, h⟩ else none
  let off := bitsOf w.toNat 21 0
  let engine := bitsOf w.toNat 55 52
  let work := hubKey (core / 16) 2 0
  match d.issueFind core t w with
  | .stall _ => d.stallAt core t .issue
  | .fail st =>
    let g := (d.slot core t).g (bitsOf w.toNat 46 44)
    let d := if bitAt w.toNat 43 && engine == 0 then
        d.modSlot core t (fun s => { s with
          tickets := s.tickets.map (fun o => if o.ticket = g then { o with failed := true } else o) })
      else d
    let d := if st = Code.gristSequence then d.errFire (hubKey (core / 16) 3 0) 0
        (opOffset (dN (d.opRead core t 0 off 64) 0x14 4) % 8 + (d.slot core t).ctx * 2 ^ 16) else d
    let d := d.engineError core t engine 0 st
    let tag := if (d.slot core t).boundStatus 0 off 64 = 0 then some (dTag (d.opRead core t 0 off 64)) else none
    (d.postStatus core t semO tag st off).nextInstr core t
  | .skip revoked b =>
    let d := (d.nameSeq core t b).count (work + (if revoked then 0x830 else 0x838)) 1
    (d.postStatus core t semO (some (dTag b)) 0 off).nextInstr core t
  | .queue q =>
    let d := d.modSlot core t (fun s => { s with
      descs := s.descs ++ [q]
      tickets := s.tickets.map (fun o => if some o.ticket = q.ticket then { o with running := o.running + 1 } else o) })
    (d.nameSeq core t q.bytes).nextInstr core t

def issueEff (core : Nat) (t : SlotIx) (u : WordEcc) (d : Dev) : Dev :=
  d.onInstr core t 1 u (fun _ w d => d.issueNow core t w)

/-- A stalled ISSUE or LOADW is tried again: it proceeds, fails, or stalls on. -/
def issueStallEndEff (core : Nat) (t : SlotIx) (d : Dev) : Dev :=
  let s := d.slot core t
  if !(d.executes core t) then d
  else
    match s.stall, s.program[s.seq.pc]? with
    | .issue, some w => d.issueNow core t w
    | .loadw, some w => if s.loadwFull then d else d.startLoadw core t (wordG w) (bitsOf w.toNat 21 0)
    | _, _ => d

/-- A stall on grist data has lasted STARVE_LIMIT cycles: one event tells the host (R218). -/
def gristStarvedEff (core : Nat) (t : SlotIx) (d : Dev) : Dev :=
  let s := d.slot core t
  let page := hubKey (core / 16) 3 0
  match s.stall, s.program[s.seq.pc]? with
  | .issue, some w =>
    if d.rnat (page + 0x100) = 0 || s.starved || d.issueFind core t w != .stall true then d
    else
      let b := d.opRead core t 0 (bitsOf w.toNat 21 0) 64
      let d := ((d.modSlot core t (fun s => { s with starved := true })).noteEvent (islOfHub (core / 16))).count
        (page + 0x820) 1
      d.ctxEvent s.ctx Code.gristStarved (BitVec.ofNat 32 (core / 16 * 2 ^ 8 + opOffset (dN b 0x14 4) % 8)) []
  | _, _ => d

/-! ## END -/

/-- END is reached: the slot's tickets close, and the program waits for its descriptors and closings. A slot that is
to yield waits at END for its tile boundary (R235). -/
def endProgramEff (core : Nat) (t : SlotIx) (u : WordEcc) (d : Dev) : Dev :=
  d.onInstr core t 15 u (fun s _ d =>
    let d := d.modSlot core t Slot.reach
    if s.preempt then d.modSlot core t (fun s => { s with state := .waiting }) else d.stallAt core t .endFence)

/-- END completes: nothing of the slot is queued or running and every closing has been answered (R143). -/
def endCompletionEff (core : Nat) (t : SlotIx) (d : Dev) : Dev :=
  let s := d.slot core t
  if s.stall == .endFence && d.executes core t && !s.preempt && s.quiet && s.tickets.isEmpty then
    let d := (d.modSlot core t (fun s => { s with ended := some 0, state := .idle, stall := .none })).count
      (coreKey core 1 0x800) 1
    d.modGyle s.ctx (fun g => { g with
      endedTasks := if g.endedTasks.contains s.task then g.endedTasks else g.endedTasks ++ [s.task] })
  else d

def execNop (core : CoreId) (slot : Meeting SlotIx WordEcc) (s : State) : Host.Outcome State Fault Refusal :=
  onCore s core.1 (nopEff core.1 slot.at_ slot.fault)
def execWait (core : CoreId) (slot : Meeting SlotIx WordEcc) (s : State) : Host.Outcome State Fault Refusal :=
  onCore s core.1 (waitEff core.1 slot.at_ slot.fault)
def execWaitRelease (core : CoreId) (slot : SlotIx) (s : State) : Host.Outcome State Fault Refusal :=
  onCore s core.1 (waitReleaseEff core.1 slot)
def execClaim (core : CoreId) (slot : Meeting SlotIx WordEcc) (s : State) : Host.Outcome State Fault Refusal :=
  onCore s core.1 (claimEff core.1 slot.at_ slot.fault)
def execLoop (core : CoreId) (slot : Meeting SlotIx WordEcc) (s : State) : Host.Outcome State Fault Refusal :=
  onCore s core.1 (loopEff core.1 slot.at_ slot.fault)
def execAddi (core : CoreId) (slot : Meeting SlotIx WordEcc) (s : State) : Host.Outcome State Fault Refusal :=
  onCore s core.1 (addiEff core.1 slot.at_ slot.fault)
def execBrz (core : CoreId) (slot : Meeting SlotIx WordEcc) (s : State) : Host.Outcome State Fault Refusal :=
  onCore s core.1 (brzEff core.1 slot.at_ slot.fault)
def execLoadg (core : CoreId) (slot : Meeting SlotIx WordEcc) (s : State) : Host.Outcome State Fault Refusal :=
  onCore s core.1 (loadgEff core.1 slot.at_ slot.fault)
def execSetlen (core : CoreId) (slot : Meeting SlotIx WordEcc) (s : State) : Host.Outcome State Fault Refusal :=
  onCore s core.1 (setlenEff core.1 slot.at_ slot.fault)
def execMovi (core : CoreId) (slot : Meeting SlotIx WordEcc) (s : State) : Host.Outcome State Fault Refusal :=
  onCore s core.1 (moviEff core.1 slot.at_ slot.fault)
def execFence (core : CoreId) (slot : Meeting SlotIx WordEcc) (s : State) : Host.Outcome State Fault Refusal :=
  onCore s core.1 (fenceEff core.1 slot.at_ slot.fault)
def execFenceRelease (core : CoreId) (slot : SlotIx) (s : State) : Host.Outcome State Fault Refusal :=
  onCore s core.1 (fenceReleaseEff core.1 slot)
def execLoadw (core : CoreId) (slot : Meeting SlotIx WordEcc) (s : State) : Host.Outcome State Fault Refusal :=
  onCore s core.1 (loadwEff core.1 slot.at_ slot.fault)
def execEndProgram (core : CoreId) (slot : Meeting SlotIx WordEcc) (s : State) : Host.Outcome State Fault Refusal :=
  onCore s core.1 (endProgramEff core.1 slot.at_ slot.fault)
def execEndCompletion (core : CoreId) (slot : SlotIx) (s : State) : Host.Outcome State Fault Refusal :=
  onCore s core.1 (endCompletionEff core.1 slot)
def execGristStarved (core : CoreId) (slot : SlotIx) (s : State) : Host.Outcome State Fault Refusal :=
  onCore s core.1 (gristStarvedEff core.1 slot)

end Sys2Proof.Machine
end

