-- ==== Sys2Proof/Machine/Signals.lean ====
section
/-! DEFINITION. The commands that may raise a semaphore of a task: a collective that consumes it as its ready
semaphore goes on at once (R310). -/

namespace Sys2Proof.Machine

/-- An effect, after which every running collective goes as far as it can. -/
def polled (f : Dev → Dev) (d : Dev) : Dev := (f d).collPoll

/-- The completion of a descriptor may be what a task at a remote wait still had at work: its context is tested again
for BLOCKED (R230). -/
def completed (core : Nat) (t : SlotIx) (f : Dev → Dev) (d : Dev) : Dev :=
  (polled f d).checkBlocked (d.slot core t).ctx

def execDescriptorCompletion (core : CoreId) (slot : SlotIx) (engine : Fin 16) (m : Measured)
    (s : State) : Host.Outcome State Fault Refusal :=
  onCore s core.1 (completed core.1 slot (descriptorCompletionEff core.1 slot engine.1 m))
def execInRing (core : CoreId) (binding : Meeting (Fin 32) Bool) (s : State) : Host.Outcome State Fault Refusal :=
  onCore s core.1 (polled (inRingEff core.1 binding.at_.1 binding.fault))
def execOutRing (core : CoreId) (binding : Meeting (Fin 32) Bool) (s : State) : Host.Outcome State Fault Refusal :=
  onCore s core.1 (polled (outRingEff core.1 binding.at_.1 binding.fault))
def execSemIn (core : CoreId) (binding : Meeting (Fin 32) Bool) (s : State) : Host.Outcome State Fault Refusal :=
  onCore s core.1 (polled (semInEff core.1 binding.at_.1 binding.fault))
def execClaimRecord (core : CoreId) (slot : Meeting SlotIx Bool) (s : State) : Host.Outcome State Fault Refusal :=
  onCore s core.1 (polled (claimRecordEff core.1 slot.at_ slot.fault))
def execTicketClose (core : CoreId) (slot : Meeting SlotIx Bool) (s : State) : Host.Outcome State Fault Refusal :=
  onCore s core.1 (polled (ticketCloseEff core.1 slot.at_ slot.fault))
def execTicketReturn (core : CoreId) (slot : Meeting SlotIx Bool) (s : State) : Host.Outcome State Fault Refusal :=
  onCore s core.1 (polled (ticketReturnEff core.1 slot.at_ slot.fault))
def execIssue (core : CoreId) (slot : Meeting SlotIx WordEcc) (s : State) : Host.Outcome State Fault Refusal :=
  onCore s core.1 (polled (issueEff core.1 slot.at_ slot.fault))
def execIssueStallEnd (core : CoreId) (slot : SlotIx) (s : State) : Host.Outcome State Fault Refusal :=
  onCore s core.1 (polled (issueStallEndEff core.1 slot))
def execLoadwComplete (core : CoreId) (slot : SlotIx) (s : State) : Host.Outcome State Fault Refusal :=
  onCore s core.1 (polled (loadwCompleteEff core.1 slot))
def execWrite (port : PortId) (s : State) : Host.Outcome State Fault Refusal :=
  onDev s (polled (writeEff port.1))
def execWack (port : PortId) (s : State) : Host.Outcome State Fault Refusal := onDev s (polled (wackEff port.1))
def execHeldWriteRelease (port : PortId) (s : State) : Host.Outcome State Fault Refusal :=
  onDev s (polled (heldWriteReleaseEff port.1))

end Sys2Proof.Machine
end

