-- ==== Sys2Proof/Machine/Tick.lean ====
section
/-! DEFINITION. What a tick of the clocks does. -/

namespace Sys2Proof.Machine

/-- An island whose clock runs. -/
def IslSt.clocked (x : IslSt) : Bool := x.run == .run && !x.clocksStopped

/-- Every island that runs counts one cycle, unless its clocks are stopped (R386, R479). The islands advance
together, one cycle a tick, whatever their frequencies (assumption 8). -/
def Dev.countCycles (d : Dev) : Dev :=
  { d with islands := d.islands.map (fun (e : Nat × IslSt) =>
      (e.1, if e.2.clocked then { e.2 with cycle := e.2.cycle + 1 } else e.2)) }

/-- A slot whose idle count rises in this cycle: it idles and has no fabric wait open (R173). -/
def Dev.idleRises (d : Dev) (core : Nat) (t : SlotIx) : Bool :=
  let s := d.slot core t
  s.valid && (d.island (islOfCore core)).clocked && d.idles core t && !(d.remoteOpen s.ctx s.task s.program s.seq)

/-- The idle count of a slot, where it may rise, reaches the limit: the island reports it, and the controller begins to ask every island of
the region. -/
def idleCountLimitEff (isl x : Nat) (d : Dev) : Dev :=
  let ss := (d.slotsIn isl x).filter (fun s => d.idleRises s.1 s.2)
  if ss.isEmpty then d
  else
    let limit := (d.ctx x).stallLimit
    let d := ss.foldl (fun d s =>
      let m := tget d.moves (moveKey s.1 s.2) (0, 0)
      { d with moves := tset d.moves (moveKey s.1 s.2) (max m.1 limit, m.2) }) d
    d.modCtx x (fun c => if c.probe.isSome then c else { c with probe := some (1, []), probeSeen := [] })

/-- The idle counts of the slots that made no move since the last tick rise by one (R173). -/
def Dev.countIdle (d : Dev) : Dev :=
  let both := d.cores.flatMap (fun (e : Nat × Core) => [(e.1, (0 : SlotIx)), (e.1, (1 : SlotIx))])
  let up := both.filter (fun s => d.idleRises s.1 s.2)
  { d with moves := up.foldl (fun m s =>
      let k := moveKey s.1 s.2
      let v := tget m k (0, 0)
      tset m k (v.1 + 1, v.2)) d.moves }

/-- A detection on a unit other than a core's awaits its retest, which is due at once (R333, R337). -/
def Dev.retestsDue (d : Dev) : List (Nat × Nat) :=
  (d.ras.hist.filter (fun e => e.2.pending.isSome && decide (4 ≤ e.1 / 2 ^ 32) && e.2.state != .retired)).map (fun e =>
    (e.1 / 2 ^ 32, e.1 % 2 ^ 32))

/-- Pseudo-channels and ports of a die whose interval ends: 600 s of management cycles, 30 s for an OBSERVED one (R337). -/
def Dev.intervalsDue (d : Dev) (die : Nat) : List (Nat × Nat) :=
  let now := d.cycleOf (islMgmt die)
  let due := fun (u : Nat × Nat) => match (d.hist u.1 u.2).state with
    | .normal => now % 300000000000 == 0
    | .observed => true
    | .retired => false
  if now = 0 ∨ now % 15000000000 ≠ 0 then []
  else
    ((List.range 256).map (fun c => (Unit.pc, 256 * die + c)) ++ (List.range 3).map (fun p => (Unit.port, 3 * die + p))).filter
      due

/-- The tests of units other than cores that fall due in this cycle. -/
def Dev.unitTests (d : Dev) : Dev :=
  if d.sec.devState != .ready then d
  else
    (d.retestsDue ++ ([0, 1, 2, 3] : List Nat).flatMap d.intervalsDue).dedup.foldl (fun d u => (d.unitTest u.1 u.2).2) d

/-- Operating hours count by 0.1 h of management cycles of die 0 (R333); the tenth that completes an hour comes with
OPERATING_HOUR. -/
def Dev.countHours (d : Dev) : Dev :=
  let now := d.cycleOf (islMgmt 0)
  if now = 0 ∨ now % 180000000000 ≠ 0 ∨ d.ras.hours % 10 = 9 then d
  else { d with ras := { d.ras with hours := d.ras.hours + 1 } }

/-- A tick of the clocks: cycles and operating hours count, idle counts rise, acknowledgements of control events
arrive, and tests that fall due are run (R173, R333, R337, R381, R386). -/
def idleTick (d : Dev) : Dev := d.countIdle.countCycles.countHours.ackEvents.unitTests

def execIdleCountLimit (isl : Isl) (ctx : CtxId) (s : State) : Host.Outcome State Fault Refusal :=
  onNamed s isl (idleCountLimitEff (islId isl) ctx.1)

end Sys2Proof.Machine
end

