-- ==== Sys2Proof/Machine/Dispatch.lean ====
section
/-! DEFINITION. The meaning of every command: one arm per row of the table. -/

namespace Sys2Proof.Machine

def exec (i : Instr) (s : State) : Host.Outcome State Fault Refusal :=
  match i with
  | .nop core slot => Sys2Proof.Machine.execNop core slot s
  | .issue core slot => Sys2Proof.Machine.execIssue core slot s
  | .issueStallEnd core slot => Sys2Proof.Machine.execIssueStallEnd core slot s
  | .wait core slot => Sys2Proof.Machine.execWait core slot s
  | .waitRelease core slot => Sys2Proof.Machine.execWaitRelease core slot s
  | .claim core slot => Sys2Proof.Machine.execClaim core slot s
  | .claimRecord core slot => Sys2Proof.Machine.execClaimRecord core slot s
  | .claimReply core slot => Sys2Proof.Machine.execClaimReply core slot s
  | .loop core slot => Sys2Proof.Machine.execLoop core slot s
  | .addi core slot => Sys2Proof.Machine.execAddi core slot s
  | .brz core slot => Sys2Proof.Machine.execBrz core slot s
  | .loadg core slot => Sys2Proof.Machine.execLoadg core slot s
  | .setlen core slot => Sys2Proof.Machine.execSetlen core slot s
  | .movi core slot => Sys2Proof.Machine.execMovi core slot s
  | .fence core slot => Sys2Proof.Machine.execFence core slot s
  | .fenceRelease core slot => Sys2Proof.Machine.execFenceRelease core slot s
  | .loadw core slot => Sys2Proof.Machine.execLoadw core slot s
  | .loadwComplete core slot => Sys2Proof.Machine.execLoadwComplete core slot s
  | .endProgram core slot => Sys2Proof.Machine.execEndProgram core slot s
  | .endCompletion core slot => Sys2Proof.Machine.execEndCompletion core slot s
  | .weightPlaneFill core slot => Sys2Proof.Machine.execWeightPlaneFill core slot s
  | .matrixTile core slot => Sys2Proof.Machine.execMatrixTile core slot s
  | .arrayPass core slot u => Sys2Proof.Machine.execArrayPass core slot u s
  | .chainedConversion core slot u => Sys2Proof.Machine.execChainedConversion core slot u s
  | .vectorDescriptor core slot u => Sys2Proof.Machine.execVectorDescriptor core slot u s
  | .transpose core slot u => Sys2Proof.Machine.execTranspose core slot u s
  | .fwdFirst core slot u => Sys2Proof.Machine.execFwdFirst core slot u s
  | .fwdNext core slot u => Sys2Proof.Machine.execFwdNext core slot u s
  | .fwdLast core slot u => Sys2Proof.Machine.execFwdLast core slot u s
  | .fwdOnly core slot u => Sys2Proof.Machine.execFwdOnly core slot u s
  | .recompute core slot u => Sys2Proof.Machine.execRecompute core slot u s
  | .gather core slot u => Sys2Proof.Machine.execGather core slot u s
  | .scatter core slot u => Sys2Proof.Machine.execScatter core slot u s
  | .scatterAdd core slot u => Sys2Proof.Machine.execScatterAdd core slot u s
  | .compact core slot u => Sys2Proof.Machine.execCompact core slot u s
  | .dispatch core slot u => Sys2Proof.Machine.execDispatch core slot u s
  | .combine core slot u => Sys2Proof.Machine.execCombine core slot u s
  | .topk core slot u => Sys2Proof.Machine.execTopk core slot u s
  | .sample core slot u => Sys2Proof.Machine.execSample core slot u s
  | .quantise core slot u => Sys2Proof.Machine.execQuantise core slot u s
  | .bits8 core slot u => Sys2Proof.Machine.execBits8 core slot u s
  | .bits16 core slot u => Sys2Proof.Machine.execBits16 core slot u s
  | .bits32 core slot u => Sys2Proof.Machine.execBits32 core slot u s
  | .uniform core slot u => Sys2Proof.Machine.execUniform core slot u s
  | .mask core slot u => Sys2Proof.Machine.execMask core slot u s
  | .normal core slot u => Sys2Proof.Machine.execNormal core slot u s
  | .copyDescriptor core slot u => Sys2Proof.Machine.execCopyDescriptor core slot u s
  | .descriptorCompletion core slot engine m => Sys2Proof.Machine.execDescriptorCompletion core slot engine m s
  | .ticketClose core slot => Sys2Proof.Machine.execTicketClose core slot s
  | .ticketReturn core slot => Sys2Proof.Machine.execTicketReturn core slot s
  | .queueReset cluster ctx queue => Sys2Proof.Machine.execQueueReset cluster ctx queue s
  | .tokenArrive core cell port parityBad => Sys2Proof.Machine.execTokenArrive core cell port parityBad s
  | .tokenForward core cell port => Sys2Proof.Machine.execTokenForward core cell port s
  | .creditReturn core cell port => Sys2Proof.Machine.execCreditReturn core cell port s
  | .mov core cell u => Sys2Proof.Machine.execMov core cell u s
  | .add core cell u => Sys2Proof.Machine.execAdd core cell u s
  | .sub core cell u => Sys2Proof.Machine.execSub core cell u s
  | .mul core cell u => Sys2Proof.Machine.execMul core cell u s
  | .fma core cell u => Sys2Proof.Machine.execFma core cell u s
  | .max core cell u => Sys2Proof.Machine.execMax core cell u s
  | .min core cell u => Sys2Proof.Machine.execMin core cell u s
  | .abs core cell u => Sys2Proof.Machine.execAbs core cell u s
  | .neg core cell u => Sys2Proof.Machine.execNeg core cell u s
  | .cmpgt core cell u => Sys2Proof.Machine.execCmpgt core cell u s
  | .sel core cell u => Sys2Proof.Machine.execSel core cell u s
  | .rcp core cell u => Sys2Proof.Machine.execRcp core cell u s
  | .rsqrt core cell u => Sys2Proof.Machine.execRsqrt core cell u s
  | .exp2 core cell u => Sys2Proof.Machine.execExp2 core cell u s
  | .log2 core cell u => Sys2Proof.Machine.execLog2 core cell u s
  | .cvtDown core cell u => Sys2Proof.Machine.execCvtDown core cell u s
  | .cvtUp core cell u => Sys2Proof.Machine.execCvtUp core cell u s
  | .dup core cell u => Sys2Proof.Machine.execDup core cell u s
  | .steer core cell u => Sys2Proof.Machine.execSteer core cell u s
  | .merge core cell u => Sys2Proof.Machine.execMerge core cell u s
  | .count core cell u => Sys2Proof.Machine.execCount core cell u s
  | .acc core cell u => Sys2Proof.Machine.execAcc core cell u s
  | .inRing core binding => Sys2Proof.Machine.execInRing core binding s
  | .outRing core binding => Sys2Proof.Machine.execOutRing core binding s
  | .semIn core binding => Sys2Proof.Machine.execSemIn core binding s
  | .lenOut core binding => Sys2Proof.Machine.execLenOut core binding s
  | .idleCountLimit isl ctx => Sys2Proof.Machine.execIdleCountLimit isl ctx s
  | .stallProbeReply isl ctx => Sys2Proof.Machine.execStallProbeReply isl ctx s
  | .sampleRecord isl ctx => Sys2Proof.Machine.execSampleRecord isl ctx s
  | .hubAccess cluster ctx write va data u => Sys2Proof.Machine.execHubAccess cluster ctx write va data u s
  | .scrubStep stack find => Sys2Proof.Machine.execScrubStep stack find s
  | .gristFetch cluster ctx stream u => Sys2Proof.Machine.execGristFetch cluster ctx stream u s
  | .gristStarved core slot => Sys2Proof.Machine.execGristStarved core slot s
  | .frameZeroed die => Sys2Proof.Machine.execFrameZeroed die s
  | .objCreate h entry => Sys2Proof.Machine.execObjCreate h entry s
  | .objAttach h entry => Sys2Proof.Machine.execObjAttach h entry s
  | .objRelease h object => Sys2Proof.Machine.execObjRelease h object s
  | .objMoveUp h object range => Sys2Proof.Machine.execObjMoveUp h object range s
  | .objMoveDown h object range => Sys2Proof.Machine.execObjMoveDown h object range s
  | .moveComplete object => Sys2Proof.Machine.execMoveComplete object s
  | .fnAssign h ctx fn => Sys2Proof.Machine.execFnAssign h ctx fn s
  | .ctxLoad h image => Sys2Proof.Machine.execCtxLoad h image s
  | .ctxUnload h => Sys2Proof.Machine.execCtxUnload h s
  | .ctxKill h => Sys2Proof.Machine.execCtxKill h s
  | .ctxResume h => Sys2Proof.Machine.execCtxResume h s
  | .ctxSet h offset value => Sys2Proof.Machine.execCtxSet h offset value s
  | .tasksStopped ctx => Sys2Proof.Machine.execTasksStopped ctx s
  | .spargeComplete ctx => Sys2Proof.Machine.execSpargeComplete ctx s
  | .quantumExpiry ctx => Sys2Proof.Machine.execQuantumExpiry ctx s
  | .preemptRequest core ctx => Sys2Proof.Machine.execPreemptRequest core ctx s
  | .slotYield core slot => Sys2Proof.Machine.execSlotYield core slot s
  | .preemptOverrun core slot => Sys2Proof.Machine.execPreemptOverrun core slot s
  | .swapOutComplete ctx => Sys2Proof.Machine.execSwapOutComplete ctx s
  | .swapInComplete ctx => Sys2Proof.Machine.execSwapInComplete ctx s
  | .gyleBegin h gyle hostTime => Sys2Proof.Machine.execGyleBegin h gyle hostTime s
  | .gyleAbort h gyle => Sys2Proof.Machine.execGyleAbort h gyle s
  | .gyleDecide h gyle outcome => Sys2Proof.Machine.execGyleDecide h gyle outcome s
  | .gyleResolve h gyle outcome => Sys2Proof.Machine.execGyleResolve h gyle outcome s
  | .gyleReplay h => Sys2Proof.Machine.execGyleReplay h s
  | .gyleStart ctx => Sys2Proof.Machine.execGyleStart ctx s
  | .captureComplete ctx => Sys2Proof.Machine.execCaptureComplete ctx s
  | .vote ctx => Sys2Proof.Machine.execVote ctx s
  | .gyleVote port => Sys2Proof.Machine.execGyleVote port s
  | .gyleDecideMessage port => Sys2Proof.Machine.execGyleDecideMessage port s
  | .voteDeadline ctx => Sys2Proof.Machine.execVoteDeadline ctx s
  | .decideTimeout ctx => Sys2Proof.Machine.execDecideTimeout ctx s
  | .gyleCommitApply ctx => Sys2Proof.Machine.execGyleCommitApply ctx s
  | .gyleAbortApply ctx => Sys2Proof.Machine.execGyleAbortApply ctx s
  | .linkWordSend port => Sys2Proof.Machine.execLinkWordSend port s
  | .groupReceive port g => Sys2Proof.Machine.execGroupReceive port g s
  | .retryTimeout port => Sys2Proof.Machine.execRetryTimeout port s
  | .portTrained port => Sys2Proof.Machine.execPortTrained port s
  | .partnerLookup port vc bad => Sys2Proof.Machine.execPartnerLookup port vc bad s
  | .write port => Sys2Proof.Machine.execWrite port s
  | .wack port => Sys2Proof.Machine.execWack port s
  | .nack port => Sys2Proof.Machine.execNack port s
  | .collData port => Sys2Proof.Machine.execCollData port s
  | .collCts port => Sys2Proof.Machine.execCollCts port s
  | .winOpen h body => Sys2Proof.Machine.execWinOpen h body s
  | .winClose h window => Sys2Proof.Machine.execWinClose h window s
  | .windowCloseDrained window => Sys2Proof.Machine.execWindowCloseDrained window s
  | .spillRedirect window => Sys2Proof.Machine.execSpillRedirect window s
  | .copyIn window => Sys2Proof.Machine.execCopyIn window s
  | .heldWriteRelease port => Sys2Proof.Machine.execHeldWriteRelease port s
  | .sendFire core slot sem => Sys2Proof.Machine.execSendFire core slot sem s
  | .sendResend ctx tag => Sys2Proof.Machine.execSendResend ctx tag s
  | .writeTimeout ctx tag => Sys2Proof.Machine.execWriteTimeout ctx tag s
  | .collectiveStart core slot sem => Sys2Proof.Machine.execCollectiveStart core slot sem s
  | .collDeadline channel => Sys2Proof.Machine.execCollDeadline channel s
  | .layoutSet h epoch flags => Sys2Proof.Machine.execLayoutSet h epoch flags s
  | .coreTestDue core retest => Sys2Proof.Machine.execCoreTestDue core retest s
  | .coreTestStart core => Sys2Proof.Machine.execCoreTestStart core s
  | .coreTestComplete core r => Sys2Proof.Machine.execCoreTestComplete core r s
  | .digestPass isl flips => Sys2Proof.Machine.execDigestPass isl flips s
  | .calOverlayAdd h entry => Sys2Proof.Machine.execCalOverlayAdd h entry s
  | .calOverlayRemove h entry => Sys2Proof.Machine.execCalOverlayRemove h entry s
  | .testRequest h unitKind unit => Sys2Proof.Machine.execTestRequest h unitKind unit s
  | .testpackLoad h pack stepping formGood => Sys2Proof.Machine.execTestpackLoad h pack stepping formGood s
  | .resilSet h block => Sys2Proof.Machine.execResilSet h block s
  | .caskHost h owner ownerCtx slotSize => Sys2Proof.Machine.execCaskHost h owner ownerCtx slotSize s
  | .caskRelease h slot => Sys2Proof.Machine.execCaskRelease h slot s
  | .caskSchedule h gyle => Sys2Proof.Machine.execCaskSchedule h gyle s
  | .caskDrain ctx => Sys2Proof.Machine.execCaskDrain ctx s
  | .caskWrite port => Sys2Proof.Machine.execCaskWrite port s
  | .caskSeal port => Sys2Proof.Machine.execCaskSeal port s
  | .caskRead port u => Sys2Proof.Machine.execCaskRead port u s
  | .caskRdata port => Sys2Proof.Machine.execCaskRdata port s
  | .caskLost port => Sys2Proof.Machine.execCaskLost port s
  | .caskSched port => Sys2Proof.Machine.execCaskSched port s
  | .caskReport port => Sys2Proof.Machine.execCaskReport port s
  | .ckptExport h addr size => Sys2Proof.Machine.execCkptExport h addr size s
  | .restore h source version reserved rest => Sys2Proof.Machine.execRestore h source version reserved rest s
  | .rackBegin h body ownFail sendFail => Sys2Proof.Machine.execRackBegin h body ownFail sendFail s
  | .rackData port => Sys2Proof.Machine.execRackData port s
  | .rackComplete ctx => Sys2Proof.Machine.execRackComplete ctx s
  | .rackTimeout ctx => Sys2Proof.Machine.execRackTimeout ctx s
  | .crossingTransfer src dst => Sys2Proof.Machine.execCrossingTransfer src dst s
  | .crossingEvent src dst => Sys2Proof.Machine.execCrossingEvent src dst s
  | .resetNotice src dst => Sys2Proof.Machine.execResetNotice src dst s
  | .crossingTimeout src dst => Sys2Proof.Machine.execCrossingTimeout src dst s
  | .frequencyChange isl mhz => Sys2Proof.Machine.execFrequencyChange isl mhz s
  | .droopStart isl => Sys2Proof.Machine.execDroopStart isl s
  | .droopEnd isl stretched => Sys2Proof.Machine.execDroopEnd isl stretched s
  | .registerWrite fn offset size value => Sys2Proof.Machine.execRegisterWrite fn offset size value s
  | .errStatusClear offset value => Sys2Proof.Machine.execErrStatusClear offset value s
  | .counterLowRead offset => Sys2Proof.Machine.execCounterLowRead offset s
  | .stageGenWrite offset gen => Sys2Proof.Machine.execStageGenWrite offset gen s
  | .winDataWrite core value => Sys2Proof.Machine.execWinDataWrite core value s
  | .probeSelect core test value => Sys2Proof.Machine.execProbeSelect core test value s
  | .probeAnswer core test => Sys2Proof.Machine.execProbeAnswer core test s
  | .mirrorUpdate offset => Sys2Proof.Machine.execMirrorUpdate offset s
  | .counterSnapshot page => Sys2Proof.Machine.execCounterSnapshot page s
  | .memwinRead offset len => Sys2Proof.Machine.execMemwinRead offset len s
  | .memwinWrite offset data => Sys2Proof.Machine.execMemwinWrite offset data s
  | .sqTail fn ctx index => Sys2Proof.Machine.execSqTail fn ctx index s
  | .cqHead fn ctx index => Sys2Proof.Machine.execCqHead fn ctx index s
  | .eqHead fn index => Sys2Proof.Machine.execEqHead fn index s
  | .commandFetch fn ctx entry => Sys2Proof.Machine.execCommandFetch fn ctx entry s
  | .completionPost queue => Sys2Proof.Machine.execCompletionPost queue s
  | .coalesceTimeout queue => Sys2Proof.Machine.execCoalesceTimeout queue s
  | .queueCreate h ctx kind location base entries vector coalCount coalUs => Sys2Proof.Machine.execQueueCreate h ctx kind location base entries vector coalCount coalUs s
  | .queueDelete h ctx kind => Sys2Proof.Machine.execQueueDelete h ctx kind s
  | .hostRegister h addr size => Sys2Proof.Machine.execHostRegister h addr size s
  | .hostUnregister h range => Sys2Proof.Machine.execHostUnregister h range s
  | .copy h src dst bytes flags => Sys2Proof.Machine.execCopy h src dst bytes flags s
  | .copyPiece copyId hostData u => Sys2Proof.Machine.execCopyPiece copyId hostData u s
  | .pcieCompletionTimeout copyId => Sys2Proof.Machine.execPcieCompletionTimeout copyId s
  | .functionLevelReset fn => Sys2Proof.Machine.execFunctionLevelReset fn s
  | .d3hotRequest fn => Sys2Proof.Machine.execD3hotRequest fn s
  | .mctpMessage m => Sys2Proof.Machine.execMctpMessage m s
  | .pldmPowerCapWrite watts => Sys2Proof.Machine.execPldmPowerCapWrite watts s
  | .spdmRequest doe r => Sys2Proof.Machine.execSpdmRequest doe r s
  | .ideKmRequest r secureSession => Sys2Proof.Machine.execIdeKmRequest r secureSession s
  | .sysRstNDeassert sbMode => Sys2Proof.Machine.execSysRstNDeassert sbMode s
  | .fuseCheck bad nonce => Sys2Proof.Machine.execFuseCheck bad nonce s
  | .firmwareVerify historyBad stuck => Sys2Proof.Machine.execFirmwareVerify historyBad stuck s
  | .supervisorStart failed => Sys2Proof.Machine.execSupervisorStart failed s
  | .dieLinkTraining failed => Sys2Proof.Machine.execDieLinkTraining failed s
  | .hbmTraining failed pprRows portsUp => Sys2Proof.Machine.execHbmTraining failed pprRows portsUp s
  | .selfTest fails => Sys2Proof.Machine.execSelfTest fails s
  | .tokenPresent via token body => Sys2Proof.Machine.execTokenPresent via token body s
  | .admitReq partner port encrypt nonce => Sys2Proof.Machine.execAdmitReq partner port encrypt nonce s
  | .offer port d nonce => Sys2Proof.Machine.execOffer port d nonce s
  | .answer port d => Sys2Proof.Machine.execAnswer port d s
  | .proof port signature => Sys2Proof.Machine.execProof port signature s
  | .done port status => Sys2Proof.Machine.execDone port status s
  | .admitTimeout partner => Sys2Proof.Machine.execAdmitTimeout partner s
  | .revoke partner => Sys2Proof.Machine.execRevoke partner s
  | .fwUpdateWrite h offset data => Sys2Proof.Machine.execFwUpdateWrite h offset data s
  | .fwUpdateVerify h bank => Sys2Proof.Machine.execFwUpdateVerify h bank s
  | .fwUpdateActivate h => Sys2Proof.Machine.execFwUpdateActivate h s
  | .fwUpdateCommit h => Sys2Proof.Machine.execFwUpdateCommit h s
  | .revokeSlot h blob serial slot => Sys2Proof.Machine.execRevokeSlot h blob serial slot s
  | .ownerEnrol h blob serial root => Sys2Proof.Machine.execOwnerEnrol h blob serial root s
  | .applyRequest gen => Sys2Proof.Machine.execApplyRequest gen s
  | .applyDiscard gen => Sys2Proof.Machine.execApplyDiscard gen s
  | .applyPrepare isl => Sys2Proof.Machine.execApplyPrepare isl s
  | .applyReady isl => Sys2Proof.Machine.execApplyReady isl s
  | .applySwap isl => Sys2Proof.Machine.execApplySwap isl s
  | .applyDone isl => Sys2Proof.Machine.execApplyDone isl s
  | .drainTimeout isl => Sys2Proof.Machine.execDrainTimeout isl s
  | .drainFail isl => Sys2Proof.Machine.execDrainFail isl s
  | .applyAbort isl => Sys2Proof.Machine.execApplyAbort isl s
  | .powerTick r => Sys2Proof.Machine.execPowerTick r s
  | .vrRegulationTimeout die retryFailed => Sys2Proof.Machine.execVrRegulationTimeout die retryFailed s
  | .powerCapWrite watts => Sys2Proof.Machine.execPowerCapWrite watts s
  | .thermalSample die t ms1 ms10 => Sys2Proof.Machine.execThermalSample die t ms1 ms10 s
  | .thermtrip die sensor => Sys2Proof.Machine.execThermtrip die sensor s
  | .tapEnableWrite port enable => Sys2Proof.Machine.execTapEnableWrite port enable s
  | .pcieLinkTrained rate width => Sys2Proof.Machine.execPcieLinkTrained rate width s
  | .vfEnableWrite enable numVfs => Sys2Proof.Machine.execVfEnableWrite enable numVfs s
  | .jtagInstruction j => Sys2Proof.Machine.execJtagInstruction j s
  | .dynamicAddressAssignment setdasa addr => Sys2Proof.Machine.execDynamicAddressAssignment setdasa addr s
  | .caskDrainTimeout ctx => Sys2Proof.Machine.execCaskDrainTimeout ctx s
  | .objectMoveFrame object => Sys2Proof.Machine.execObjectMoveFrame object s
  | .operatingHour => Sys2Proof.Machine.execOperatingHour s
  | .sysRstNAssert => Sys2Proof.Machine.execSysRstNAssert s
  | .pwrOkDeassert => Sys2Proof.Machine.execPwrOkDeassert s
  | .perstAssert => Sys2Proof.Machine.execPerstAssert s
  | .perstDeassert => Sys2Proof.Machine.execPerstDeassert s
  | .repairApply => Sys2Proof.Machine.execRepairApply s
  | .identityDerive => Sys2Proof.Machine.execIdentityDerive s
  | .debugEntry => Sys2Proof.Machine.execDebugEntry s
  | .applyTake => Sys2Proof.Machine.execApplyTake s
  | .applyTimeout => Sys2Proof.Machine.execApplyTimeout s
  | .pwrOkAssert => Sys2Proof.Machine.execPwrOkAssert s
  | .powerLoss => Sys2Proof.Machine.execPowerLoss s

end Sys2Proof.Machine
end

