-- ==== Sys2Proof/Safety.lean ====
section
/-! DEFINITION. What counts as a safe step and a safe run. -/

namespace Sys2Proof.Safety

open Sys2Proof.Machine

/-- A step that answers a next state: the device neither stops nor lacks a meaning for the command. -/
def StepSafe (s : State) : Prop := ∃ t, step s = .next t

/-- Fuses G are fuses F with nothing unblown: the lifecycle and the rollback counters never fall, a revoked slot
stays revoked, an enrolled owner stays, and the identity and the factory repair map stand (Table 15.2, R419); no
counter passes 64 (R418). -/
structure OnlyBlown (F G : Fuses) : Prop where
  lifecycle : F.lifecycle ≤ G.lifecycle
  rollback : ∀ i : Fin 4, F.rollback.get i ≤ G.rollback.get i
  counted : ∀ i : Fin 4, F.rollback.get i ≤ 64 → G.rollback.get i ≤ 64
  revoked : ∀ i : Fin 2, F.vendorRevoked.get i = true → G.vendorRevoked.get i = true
  owner : F.ownerValid = true → G.ownerValid = true ∧ G.ownerRoot = F.ownerRoot
  fixed : G.vendorRoot = F.vendorRoot ∧ G.vendorFused = F.vendorFused ∧ G.deviceSecret = F.deviceSecret
    ∧ G.serial = F.serial ∧ G.repair = F.repair ∧ G.avs = F.avs ∧ G.thermal = F.thermal ∧ G.serdes = F.serdes
    ∧ G.binM = F.binM

/-- The device memories that commands address are in canonical form: HBM, and what the device wrote to host
memory (assumption 3). -/
structure MemoriesGood (d : Dev) : Prop where
  hbm : Memory.wf d.hbm = true
  host : Memory.rising d.hostMem = true

/-- A run of k steps that neither faults nor is refused. -/
def RunSafe (k : Nat) (s : State) : Prop := ∃ t, Sys2Proof.core.run k s = .next t

end Sys2Proof.Safety
end

