-- ==== Sys2Proof/Certificates/Slice0/Obligations.lean ====
section
/-! DEFINITION. The statements about this device, one definition each, and the words that they share. -/

namespace Sys2Proof.Claims

open Sys2Proof.Machine

/-! ## Words that the statements share -/

/-- The clocks of an island run (R479). -/
abbrev Clocked (d : Dev) (isl : Nat) : Prop := (d.island isl).clocksStopped = false

/-- The clocks of an island run, and the device is not in the error state, in which no core or hub works (R329). -/
abbrev Serving (d : Dev) (isl : Nat) : Prop := Clocked d isl ∧ d.sec.devState ≠ .error

/-- An island that the device has, whose clocks run: nn 34 is on die 0 only (R377). -/
abbrev There (d : Dev) (isl : Isl) : Prop := (isl.nn.1 = 34 → isl.d.1 = 0) ∧ Clocked d (islId isl)

/-- A slot executes the word w at its pc, whose opcode is op (R118, R119). -/
abbrev AtWord (d : Dev) (core : CoreId) (x : SlotIx) (op : Nat) (w : W64) : Prop :=
  Serving d (islOfCore core.1) ∧ d.executes core.1 x = true ∧ (d.slot core.1 x).stall = .none
    ∧ (d.slot core.1 x).program[(d.slot core.1 x).seq.pc]? = some w ∧ wordOp w = op

/-- The slot after an instruction that leaves it as v and goes on at pc. -/
def Slot.onward (v : Slot) (pc : Nat) : Slot :=
  { (v.setPc pc) with stall := .none, state := if v.ended.isSome then v.state else .running, starved := false }

/-- The whole frame of a sequencer instruction: of all the device, one task slot has changed, to v, and the
counter INSTRUCTIONS of its core has risen by one; no memory, no other slot, no other register has. -/
def OnlySlot (s t : State) (core : Nat) (x : SlotIx) (v : Slot) : Prop :=
  t.pending = s.pending
    ∧ t.dev = { s.dev with cores := t.dev.cores, blk := t.dev.blk }
    ∧ t.dev.core core = (s.dev.core core).setSlot x v
    ∧ (∀ n, n ≠ core → t.dev.core n = s.dev.core n)
    ∧ t.dev.rget64 (coreKey core 1 0x800) = min (s.dev.rget64 (coreKey core 1 0x800) + 1) (2 ^ 64 - 1)
    ∧ ∀ k, k ≠ coreKey core 1 0x800 → k ≠ coreKey core 1 0x804 → t.dev.rget k = s.dev.rget k

/-- The sequencer instructions: core, slot, what the code of the instruction memory finds in the word, and opcode
(Table 4.10). -/
def fetched (c : Instr) : Option (CoreId × SlotIx × WordEcc × Nat) :=
  match c with
  | .nop k ⟨x, u⟩ => some (k, x, u, 0)
  | .issue k ⟨x, u⟩ => some (k, x, u, 1)
  | .wait k ⟨x, u⟩ => some (k, x, u, 2)
  | .claim k ⟨x, u⟩ => some (k, x, u, 3)
  | .loop k ⟨x, u⟩ => some (k, x, u, 4)
  | .addi k ⟨x, u⟩ => some (k, x, u, 5)
  | .brz k ⟨x, u⟩ => some (k, x, u, 6)
  | .loadg k ⟨x, u⟩ => some (k, x, u, 7)
  | .setlen k ⟨x, u⟩ => some (k, x, u, 8)
  | .movi k ⟨x, u⟩ => some (k, x, u, 9)
  | .fence k ⟨x, u⟩ => some (k, x, u, 10)
  | .loadw k ⟨x, u⟩ => some (k, x, u, 11)
  | .endProgram k ⟨x, u⟩ => some (k, x, u, 15)
  | _ => none

/-- An admin command that its queue, its function and the device's state let run (R404). -/
abbrev AdminGood (d : Dev) (h : CmdHdr) (pfOnly : Bool) : Prop :=
  d.sec.devState = .ready ∧ h.queue = .admin ∧ (pfOnly = true → h.fn = 0)

/-- The same of a context command, whose context belongs to its function (R225). -/
abbrev CtxGood (d : Dev) (h : CmdHdr) : Prop :=
  d.sec.devState = .ready ∧ h.queue = .context ∧ h.ctx < 1024 ∧ (d.ctx h.ctx).fn = h.fn

/-- The same of one for a context that is neither FREE nor KILLED nor SPARGING (Table 8.4). -/
abbrev LiveGood (d : Dev) (h : CmdHdr) : Prop := CtxGood d h ∧ (d.ctx h.ctx).state.gone = false

/-- The same of a gyle command, which a halted context refuses (R247). -/
abbrev GyleGood (d : Dev) (h : CmdHdr) : Prop := LiveGood d h ∧ (d.ctx h.ctx).halted = false

/-- The same of a FW_UPDATE operation (R437). -/
abbrev FwGood (d : Dev) (h : CmdHdr) : Prop :=
  d.sec.devState = .ready ∧ h.queue = .admin ∧ h.fn = 0 ∧ d.sec.updateBusy = false

end Sys2Proof.Claims

open Sys2Proof Sys2Proof.Machine Sys2Proof.Claims

/-! ## The machine as a whole -/

/-- For every command and state: a step with the command at the front of the queue is exec of the command on the
state with the rest of the queue. -/
def Obligations.StepRunsFrontCommand : Prop :=
  ∀ (c : Instr) (s : State), step { s with pending := c :: s.pending } = exec c s

/-- With no command waiting the clocks tick: every running island counts one cycle (the model's choice,
assumption 8). Where no test of a unit falls due in it, no memory, no fuse, no core and no context changes. -/
def Obligations.IdleStepTicksClocks : Prop :=
  ∀ (s : State), s.pending = [] → ∃ t, step s = .next t ∧ t.pending = []
    ∧ (let d := s.dev.countIdle.countCycles.countHours.ackEvents
      d.sec.devState ≠ .ready ∨ (d.retestsDue = [] ∧ ∀ n < 4, d.intervalsDue n = []) →
        (∀ i, t.dev.cycleOf i = s.dev.cycleOf i + b2n (s.dev.island i).clocked)
        ∧ t.dev.fuses = s.dev.fuses ∧ t.dev.flash = s.dev.flash ∧ t.dev.hbm = s.dev.hbm
        ∧ t.dev.hostMem = s.dev.hostMem ∧ t.dev.cores = s.dev.cores ∧ t.dev.ctxs = s.dev.ctxs)

/-- A device reset leaves nothing but the fuses, the flash, the pins as driven and what the host's memory holds:
no register is written, no context, object, window or cask is held, no island runs and the device is off (R425). -/
def Obligations.DeviceResetKeepsFusesAndFlash : Prop :=
  ∀ (c : Instr) (s : State), c = .sysRstNAssert ∨ c = .pwrOkDeassert ∨ c = .powerLoss →
    ∃ t, exec c s = .next t ∧ t.pending = s.pending ∧ t.dev.fuses = s.dev.fuses ∧ t.dev.flash = s.dev.flash
      ∧ t.dev.blk = [] ∧ t.dev.mirror = [] ∧ t.dev.latch = [] ∧ t.dev.islands = [] ∧ t.dev.crossings = []
      ∧ t.dev.cores = [] ∧ t.dev.clusters = [] ∧ t.dev.ctxs = [] ∧ t.dev.objs = [] ∧ t.dev.swapUsed = []
      ∧ t.dev.hbm = [] ∧ t.dev.windows = [] ∧ t.dev.ports = [] ∧ t.dev.chans = [] ∧ t.dev.apply = Apply.reset
      ∧ t.dev.ras = Ras.reset ∧ t.dev.power = [] ∧ t.dev.casks = [] ∧ t.dev.stamps = [] ∧ t.dev.sec = Sec.reset
      ∧ t.dev.host.queues = [] ∧ t.dev.host.ranges = [] ∧ t.dev.host.copies = []

/-- The memories that commands address are in canonical form at reset. -/
def Obligations.MemoriesGoodAtReset : Prop := Sys2Proof.Safety.MemoriesGood State.reset.dev

/-- Every step keeps the canonical form of HBM and of the list of host bytes written, so that equal memories are
equal data. -/
def Obligations.EveryStepKeepsMemoriesGood : Prop :=
  ∀ (s t : State), Sys2Proof.Safety.MemoriesGood s.dev → step s = .next t → Sys2Proof.Safety.MemoriesGood t.dev

/-- No step unblows a fuse: the lifecycle never falls, no rollback counter falls or passes 64, a revoked slot stays
revoked, an enrolled owner stays, and what the factory blew stands (R416, R418, R419). -/
def Obligations.EveryStepOnlyBlowsFuses : Prop :=
  ∀ (s t : State), step s = .next t → Sys2Proof.Safety.OnlyBlown s.dev.fuses t.dev.fuses

/-- No command changes the queue of the commands behind it. -/
def Obligations.ExecLeavesTheQueue : Prop :=
  ∀ (c : Instr) (s t : State), exec c s = .next t → t.pending = s.pending

/-- No command is refused, and none stops the device but one that names an island which no die has (R377). -/
def Obligations.OnlyAMissingIslandFaults : Prop :=
  ∀ (c : Instr) (s : State), (∃ t, exec c s = .next t)
    ∨ ∃ i : Isl, i.nn.1 = 34 ∧ i.d.1 ≠ 0 ∧ exec c s = .fault (.noSuchIsland (islId i))

/-- A byte of HBM reads as it was last written, other bytes are left alone, and a range that the spec left undefined is
defined where it has been written (R4, R255; assumption 3). -/
def Obligations.HbmReadsWhatWasWritten : Prop :=
  ∀ (d : Dev) (a b : Nat) (bs : List Byte), Sys2Proof.Safety.MemoriesGood d →
    (∀ i (h : i < bs.length), (d.hbmWrite a bs).hbmByte (a + i) = bs[i])
      ∧ (b < a ∨ a + bs.length ≤ b → (d.hbmWrite a bs).hbmByte b = d.hbmByte b)

/-! ## The core sequencer -/

/-- NOP, ADDI, MOVI and SETLEN before the last word of a tile program, fetched without an error: the register takes its
value, the pc the next word, and nothing else of the device changes but the count of instructions (Table 4.10). A fetched
word that is found corrected is noted and executed all the same, and one found uncorrected stops the task (R89, assumption
16), whatever the instruction. -/
def Obligations.RegisterInstructionsComplete : Prop :=
  ∀ (s : State) (core : CoreId) (x : SlotIx) (w : W64),
    (s.dev.slot core.1 x).seq.pc + 1 < (s.dev.slot core.1 x).program.length →
    (AtWord s.dev core x 0 w → ∃ t, exec (.nop core ⟨x, .clean⟩) s = .next t ∧ OnlySlot s t core.1 x
      (Slot.onward (s.dev.slot core.1 x) ((s.dev.slot core.1 x).seq.pc + 1)))
    ∧ (AtWord s.dev core x 0 w → exec (.nop core ⟨x, .corrected⟩) s
      = .next { s with dev := (s.dev.wordCorrected core.1 x 0 .instruction).nextInstr core.1 x })
    ∧ (∀ c op, fetched c = some (core, x, .uncorrected, op) → AtWord s.dev core x op w →
      ∃ f : Dev → Dev, exec c s
          = .next ⟨s.pending, f ((s.dev.wordUncorrected core.1 x 0 .instruction).taskFail core.1 x Code.memUncorrected 0)⟩
        ∧ (f = id ∨ f = Dev.collPoll))
    ∧ (AtWord s.dev core x 5 w → ∃ t, exec (.addi core ⟨x, .clean⟩) s = .next t ∧ OnlySlot s t core.1 x
      (Slot.onward ((s.dev.slot core.1 x).setG (wordG w) ((s.dev.slot core.1 x).g (wordG w) + w.setWidth 32))
        ((s.dev.slot core.1 x).seq.pc + 1)))
    ∧ (AtWord s.dev core x 9 w → ∃ t, exec (.movi core ⟨x, .clean⟩) s = .next t ∧ OnlySlot s t core.1 x
      (Slot.onward ((s.dev.slot core.1 x).setG (wordG w) (w.setWidth 32)) ((s.dev.slot core.1 x).seq.pc + 1)))
    ∧ (AtWord s.dev core x 8 w → ∃ t, exec (.setlen core ⟨x, .clean⟩) s = .next t ∧ OnlySlot s t core.1 x
      (Slot.onward ((s.dev.slot core.1 x).setLen (bitsOf w.toNat 42 40) ((s.dev.slot core.1 x).g (wordG w)))
        ((s.dev.slot core.1 x).seq.pc + 1)))

/-- LOOP and BRZ to a word of the program: LOOP decrements G and branches while it is not 0, BRZ branches where G is 0;
the frame is that of a register instruction (Table 4.10).

LOADG of a word inside the grant: G takes the four bytes, least significant first; nothing but the slot changes
(R85, Table 4.10). -/
def Obligations.BranchesAndLoadgComplete : Prop :=
  (∀ (s : State) (core : CoreId) (x : SlotIx) (w : W64),
    (s.dev.slot core.1 x).seq.pc + 1 < (s.dev.slot core.1 x).program.length →
    bitsOf w.toNat 11 0 < (s.dev.slot core.1 x).program.length →
    (AtWord s.dev core x 4 w → ∃ t, exec (.loop core ⟨x, .clean⟩) s = .next t ∧ OnlySlot s t core.1 x
      (Slot.onward ((s.dev.slot core.1 x).setG (wordG w) ((s.dev.slot core.1 x).g (wordG w) - 1))
        (if (s.dev.slot core.1 x).g (wordG w) - 1 = 0 then (s.dev.slot core.1 x).seq.pc + 1 else bitsOf w.toNat 11 0)))
    ∧ (AtWord s.dev core x 6 w → ∃ t, exec (.brz core ⟨x, .clean⟩) s = .next t ∧ OnlySlot s t core.1 x
      (Slot.onward (s.dev.slot core.1 x)
        (if (s.dev.slot core.1 x).g (wordG w) = 0 then bitsOf w.toNat 11 0 else (s.dev.slot core.1 x).seq.pc + 1))))
  ∧ ∀ (s : State) (core : CoreId) (x : SlotIx) (w : W64), AtWord s.dev core x 7 w →
    (s.dev.slot core.1 x).seq.pc + 1 < (s.dev.slot core.1 x).program.length →
    (s.dev.slot core.1 x).boundStatus 0 (bitsOf w.toNat 21 0) 4 = 0 →
    ∃ t, exec (.loadg core ⟨x, .clean⟩) s = .next t ∧ OnlySlot s t core.1 x
      (Slot.onward ((s.dev.slot core.1 x).setG (wordG w)
        (BitVec.ofNat 32 (leNat (s.dev.opRead core.1 x 0 (bitsOf w.toNat 21 0) 4))))
        ((s.dev.slot core.1 x).seq.pc + 1))

/-- WAIT that its semaphore meets subtracts n and goes on; so does a stalled WAIT once it is met; FENCE goes on where
nothing of the slot is queued, running or loading, and a stalled FENCE once that is so (Table 4.10, R495). -/
def Obligations.WaitsAndFencesComplete : Prop :=
  ∀ (s : State) (core : CoreId) (x : SlotIx) (w : W64),
    (s.dev.slot core.1 x).seq.pc + 1 < (s.dev.slot core.1 x).program.length →
    (AtWord s.dev core x 2 w → w.toNat % 2 ^ 16 ≤ (s.dev.slot core.1 x).sem (wordG w) →
      ∃ t, exec (.wait core ⟨x, .clean⟩) s = .next t ∧ OnlySlot s t core.1 x
        (Slot.onward ((s.dev.slot core.1 x).setSem (wordG w)
          ((s.dev.slot core.1 x).sem (wordG w) - w.toNat % 2 ^ 16)) ((s.dev.slot core.1 x).seq.pc + 1)))
    ∧ (∀ sem n, Serving s.dev (islOfCore core.1) → s.dev.executes core.1 x = true →
      (s.dev.slot core.1 x).stall = .wait sem n → n ≤ (s.dev.slot core.1 x).sem sem →
      ∃ t, exec (.waitRelease core x) s = .next t ∧ OnlySlot s t core.1 x
        (Slot.onward ((s.dev.slot core.1 x).setSem sem ((s.dev.slot core.1 x).sem sem - n))
          ((s.dev.slot core.1 x).seq.pc + 1)))
    ∧ (AtWord s.dev core x 10 w → (s.dev.slot core.1 x).quiet = true →
      ∃ t, exec (.fence core ⟨x, .clean⟩) s = .next t ∧ OnlySlot s t core.1 x
        (Slot.onward (s.dev.slot core.1 x) ((s.dev.slot core.1 x).seq.pc + 1)))
    ∧ (Serving s.dev (islOfCore core.1) → s.dev.executes core.1 x = true → (s.dev.slot core.1 x).stall = .fence →
      (s.dev.slot core.1 x).quiet = true →
      ∃ t, exec (.fenceRelease core x) s = .next t ∧ OnlySlot s t core.1 x
        (Slot.onward (s.dev.slot core.1 x) ((s.dev.slot core.1 x).seq.pc + 1)))

/-- CLAIM sends the claim, after it has closed what can close, and stalls first while two tickets are open; the counter,
which the claim reaches over the crossing to the hub and which records one event of a queue in a hub cycle, answers a
ticket of the slice that R141 gives, 0 where it gives none, or QUEUE_INVALID where the context has no such queue or the
core takes no part in it; a parity error in the queue's state answers nothing; the reply's ticket goes to G and opens in
the slot (R139, R143, R147, R151). -/
def Obligations.ClaimsComplete : Prop :=
  ∀ (p : List Instr) (d : Dev) (core : CoreId) (x : SlotIx),
    (∀ w, AtWord d core x 3 w →
      exec (.claim core ⟨x, .clean⟩) ⟨p, d⟩ = .next ⟨p, (d.modSlot core.1 x Slot.reach).stallAt core.1 x
        (if 2 ≤ ((d.modSlot core.1 x Slot.reach).slot core.1 x).openCount then .claimFull (wordG w) (w.toNat % 2 ^ 16)
          else .claimSent (wordG w) (w.toNat % 2 ^ 16))⟩)
    ∧ (∀ g num, Serving d (islOfCore core.1) → (d.slot core.1 x).claimOut = some (g, num) →
      let j := core.1 / 16
      let y := (d.slot core.1 x).ctx
      let d0 := d.carry (islOfCore core.1) (islOfHub j)
      exec (.claimRecord core ⟨x, true⟩) ⟨p, d⟩ = .next ⟨p, (d0.queueParity core.1 x).collPoll⟩
      ∧ ((∀ o ∈ (d0.slot core.1 x).tickets, o.due = false) →
        ((∀ q, (d0.cluster j).queueOf y num = some q → q.rec_.participants.getLsbD (core.1 % 16) = false) →
          exec (.claimRecord core ⟨x, false⟩) ⟨p, d⟩ = .next ⟨p, ((d0.errFire (hubKey j 2 0) 0
            (core.1 % 16 * 2 ^ 8 + y * 2 ^ 16)).modSlot core.1 x
              (fun s => { s with stall := .claimReply g num 0 0 0 true })).collPoll⟩)
        ∧ ∀ q, (d0.cluster j).queueOf y num = some q → q.rec_.participants.getLsbD (core.1 % 16) = true →
          let hub := d0.cycleOf (islOfHub j)
          let now := q.recordAt hub
          (q.grant core.1 now = .none →
            exec (.claimRecord core ⟨x, false⟩) ⟨p, d⟩ = .next ⟨p, ((((d0.modCluster j (fun c =>
              c.modQueue y num (fun q => { (q.recorded hub) with
                zeroed := if q.zeroed.contains (core.1 * 2 + x.1) then q.zeroed else q.zeroed ++ [core.1 * 2 + x.1] }))).count
              (hubKey j 2 0x818) 1).modSlot core.1 x
                (fun s => { s with stall := .claimReply g num 0 0 0 false })).roundEnd j y num).collPoll⟩)
          ∧ ∀ dir owner i aged, q.grant core.1 now = .slice dir owner i aged →
            exec (.claimRecord core ⟨x, false⟩) ⟨p, d⟩ = .next ⟨p, (((d0.modCluster j (fun c =>
              c.modQueue y num (fun q' => (q'.recorded hub).modSlice i (fun z =>
                { state := .claimed, gen := (q.slice i).gen + b2n aged
                  tickets := z.tickets ++ [Outstanding.mk ((q.slice i).gen + b2n aged) core.1 x.1 now] })))).count
              (hubKey j 2 (if aged then 0x810 else if dir = 0 then 0x800 else 0x808)) 1).modSlot core.1 x
                (fun s => { s with
                  stall := .claimReply g num (ticketOf ((q.slice i).gen + b2n aged) dir num i)
                    (i * q.rec_.sliceRows) (i - (q.portion owner).1) false })).collPoll⟩))
    ∧ ∀ g num ticket origin ix, Serving d (islOfCore core.1) →
      let d0 := d.carry (islOfHub (core.1 / 16)) (islOfCore core.1)
      ((d.slot core.1 x).stall = .claimReply g num ticket origin ix false →
        exec (.claimReply core x) ⟨p, d⟩ = .next ⟨p, (d0.modSlot core.1 x (fun s =>
          { (s.setG g ticket) with
            tickets := if ticket = 0 then s.tickets else s.tickets ++
              [{ ticket := ticket, queue := num, origin := origin, localIx := ix, running := 0, failed := false,
                 reached := false, health := Health.zero }] })).goTo core.1 x ((d.slot core.1 x).seq.pc + 1)⟩)
      ∧ ((d.slot core.1 x).stall = .claimReply g num ticket origin ix true →
        exec (.claimReply core x) ⟨p, d⟩ = .next ⟨p, (d0.modSlot core.1 x (fun s => { s with stall := .none })).taskFail
          core.1 x Code.queueInvalid 0⟩)

/-- ISSUE, at once or after a stall: the descriptor joins its engine's queue, with its ticket counting one more tile, and
the program goes on (Table 4.10, R97). -/
def Obligations.IssueCompletes : Prop :=
  ∀ (p : List Instr) (d : Dev) (core : CoreId) (x : SlotIx) (w : W64) (q : QDesc),
    d.issueFind core.1 x w = .queue q →
    (AtWord d core x 1 w → exec (.issue core ⟨x, .clean⟩) ⟨p, d⟩ = .next ⟨p, ((((d.modSlot core.1 x (fun s => { s with
      descs := s.descs ++ [q]
      tickets := s.tickets.map (fun o => if some o.ticket = q.ticket then { o with running := o.running + 1 } else o) })).nameSeq
        core.1 x q.bytes).nextInstr core.1 x)).collPoll⟩)
    ∧ (Serving d (islOfCore core.1) → d.executes core.1 x = true → (d.slot core.1 x).stall = .issue →
      (d.slot core.1 x).program[(d.slot core.1 x).seq.pc]? = some w →
      exec (.issueStallEnd core x) ⟨p, d⟩ = .next ⟨p, ((((d.modSlot core.1 x (fun s => { s with
        descs := s.descs ++ [q]
        tickets := s.tickets.map (fun o => if some o.ticket = q.ticket then { o with running := o.running + 1 } else o) })).nameSeq
          core.1 x q.bytes).nextInstr core.1 x)).collPoll⟩)

/-- LOADW of a sequence inside the grant records it, unless two that are not consumed are held; its semaphore rises once
its last byte is in the weight buffer (R495). -/
def Obligations.LoadwCompletes : Prop :=
  ∀ (p : List Instr) (d : Dev) (core : CoreId) (x : SlotIx),
    (∀ w, AtWord d core x 11 w → (d.slot core.1 x).loadwFull = false →
      (d.slot core.1 x).boundStatus 0 (bitsOf w.toNat 21 0) 64 = 0 →
      (d.slot core.1 x).boundStatus 0 (bitsOf w.toNat 21 0)
        (dN (d.opRead core.1 x 0 (bitsOf w.toNat 21 0) 64) 8 4) = 0 →
      exec (.loadw core ⟨x, .clean⟩) ⟨p, d⟩ = .next ⟨p, (d.modSlot core.1 x (fun s => { s with
        nextLoadw := s.nextLoadw + 1
        loadws := s.loadws ++ [{ id := s.nextLoadw, offset := bitsOf w.toNat 21 0, sem := wordG w,
                                 length := dN (d.opRead core.1 x 0 (bitsOf w.toNat 21 0) 64) 8 4, copied := 0,
                                 done := false, consumed := false }] })).nextInstr core.1 x⟩)
    ∧ ∀ l, Serving d (islOfCore core.1) →
      (d.slot core.1 x).loadws.find? (fun l => !l.done && decide (l.length ≤ l.copied)) = some l →
      exec (.loadwComplete core x) ⟨p, d⟩ = .next ⟨p, (((d.modSlot core.1 x (fun s => { s with
        loadws := (s.loadws.map (fun k => if k.id = l.id then { k with done := true } else k)).filter
          (fun k => !(k.consumed && k.done)) })).semUp core.1 x l.sem 1)).collPoll⟩

/-- END is reached, and completes once nothing of the slot is queued, running or loading and every ticket has closed: the
slot's tile program has ended with SUCCESS and its task counts as ended in the gyle (Table 4.10, R143, R495). -/
def Obligations.EndCompletes : Prop :=
  ∀ (p : List Instr) (d : Dev) (core : CoreId) (x : SlotIx),
    (∀ w, AtWord d core x 15 w → (d.slot core.1 x).preempt = false →
      exec (.endProgram core ⟨x, .clean⟩) ⟨p, d⟩ = .next ⟨p, (d.modSlot core.1 x Slot.reach).stallAt core.1 x .endFence⟩)
    ∧ (Serving d (islOfCore core.1) → d.executes core.1 x = true → (d.slot core.1 x).stall = .endFence →
      (d.slot core.1 x).preempt = false → (d.slot core.1 x).quiet = true → (d.slot core.1 x).tickets = [] →
      exec (.endCompletion core x) ⟨p, d⟩ = .next ⟨p, ((d.modSlot core.1 x (fun s =>
        { s with ended := some 0, state := .idle, stall := .none })).count (coreKey core.1 1 0x800) 1).modGyle
          (d.slot core.1 x).ctx (fun g => { g with
            endedTasks := if g.endedTasks.contains (d.slot core.1 x).task then g.endedTasks
              else g.endedTasks ++ [(d.slot core.1 x).task] })⟩)

/-! ## The engines of a core -/

/-- A free plane takes the next bytes of its source; a tile whose header is in the weight buffer and agrees with it
starts; a pass whose block is there runs, and after the last one the chained conversion (R53, R92, R93, R132, R220,
R495). -/
def Obligations.ArrayCommandsComplete : Prop :=
  ∀ (p : List Instr) (d : Dev) (core : CoreId) (x : SlotIx), Serving d (islOfCore core.1) →
    (∀ src pos bs,
      let d1 := d.modSlot core.1 x Slot.reap
      let s1 := d1.slot core.1 x
      s1.valid = true → s1.planes.length < 2 →
      ((s1.loadws.filter (fun l => l.consumed && !l.done)).map (fun l => WSource.loadw l.id)
        ++ fillOrder s1.descs (s1.loadws.filter (fun l => !l.consumed))).findSome?
          (fun src => (d1.fillBytes core.1 x src).map (fun y => (src, y))) = some (src, pos, bs) →
      let filled := fun (d : Dev) => d.modSlot core.1 x (fun s => { s with
        planes := if s.loadws.any (fun l => WSource.loadw l.id == src && l.consumed) then s.planes
          else s.planes ++ [{ source := src, start := pos, bytes := bs }]
        loadws := s.loadws.map (fun l =>
          if WSource.loadw l.id = src then { l with copied := pos + bs.length } else l) })
      exec (.weightPlaneFill core ⟨x, .clean⟩) ⟨p, d⟩ = .next ⟨p, filled d1⟩
      ∧ ((∃ id, src = .loadw id) →
        exec (.weightPlaneFill core ⟨x, .corrected⟩) ⟨p, d⟩ = .next ⟨p, filled (d1.wordCorrected core.1 x 0 .scratchpad)⟩
        ∧ exec (.weightPlaneFill core ⟨x, .uncorrected⟩) ⟨p, d⟩ = .next ⟨p, d1.fillBad core.1 x⟩)
      ∧ ((∃ st n, src = .grist st n) → ∀ u, exec (.weightPlaneFill core ⟨x, u⟩) ⟨p, d⟩ = .next ⟨p, filled d1⟩))
    ∧ (∀ q src hdr, (d.slot core.1 x).tileDesc = some q → (d.slot core.1 x).tile = none → d.startsWork core.1 x = true →
      d.unrepairable core.1 = false →
      (opTarget (dN q.bytes 0x14 4) = 7 ∨ ∃ l, (d.slot core.1 x).nextSeq = some l
        ∧ l.offset = opOffset (dN q.bytes 0x14 4) ∧ 64 ≤ l.length) →
      tileSource q.bytes (d.slot core.1 x).nextSeq = some src →
      (d.slot core.1 x).planeRead src 0 64 = some hdr → headerOk q.bytes hdr (foldWidth (d.slot core.1 x).kind) = true →
      exec (.matrixTile core x) ⟨p, d⟩ = .next ⟨p,
        let r : TileRun :=
          { npass := 0, pass := 0, hdr := hdr, wpos := npassStart q.bytes hdr (foldWidth (d.slot core.1 x).kind) 0, source := src,
            sub := 0, strips := [], opened := false, amax := .fin false ⟨0, 0⟩, drained := false,
            converted := false, cycles := 0 }
        ((d.countNbrs core.1 x q.bytes).modSlot core.1 x (fun s =>
          { (s.modTileDesc (fun q => { q with st := .running })) with tile := some r })).openTile core.1 x q r⟩)
    ∧ (∀ q r u entry, (d.slot core.1 x).tileDesc = some q → (d.slot core.1 x).tile = some r → r.drained = false →
      d.openTile core.1 x q r = d → r.opened = true →
      (d.slot core.1 x).planeRead r.source (passStart q.bytes r.hdr (foldWidth (d.slot core.1 x).kind) r.npass r.pass)
        (entryBytes (dInFmt q.bytes) (dInMx q.bytes) (dSparsity q.bytes) (foldWidth (d.slot core.1 x).kind)) = some entry →
      (dSparsity q.bytes = 1 → indexOrderOk (foldWidth (d.slot core.1 x).kind) entry = true) →
      exec (.arrayPass core x u) ⟨p, d⟩ = .next ⟨p, d.runPass core.1 x q r entry u⟩)
    ∧ ∀ q r, (d.slot core.1 x).tileDesc = some q → (d.slot core.1 x).tile = some r → r.drained = true →
      r.converted = false → dOutEn q.bytes = true →
      exec (.chainedConversion core x .none) ⟨p, d⟩ = .next ⟨p, ((d.chain core.1 x q r).1.engineCount core.1 1 0x820 1).modSlot
        core.1 x (fun s => (s.modTileDesc (fun q => { q with health := (d.chain core.1 x q r).2 })).endTile 0)⟩

/-- The descriptor commands of the engines but the array: core, slot, upset, engine and operation code (Table 4.4), and
what the engine does with the descriptor. -/
def Sys2Proof.Claims.engineCommand (c : Instr) : Option (CoreId × SlotIx × Upset × Nat × Nat × (Dev → QDesc → EngOut)) :=
  match c with
  | .vectorDescriptor k x u => some (k, x, u, 2, 0, vectorRun k.1 x)
  | .transpose k x u => some (k, x, u, 6, 0, transposeRun k.1 x)
  | .fwdFirst k x u => some (k, x, u, 3, 0, softmaxRun k.1 x)
  | .fwdNext k x u => some (k, x, u, 3, 1, softmaxRun k.1 x)
  | .fwdLast k x u => some (k, x, u, 3, 2, softmaxRun k.1 x)
  | .fwdOnly k x u => some (k, x, u, 3, 3, softmaxRun k.1 x)
  | .recompute k x u => some (k, x, u, 3, 4, recomputeRun k.1 x)
  | .gather k x u => some (k, x, u, 4, 0, gatherRun u k.1 x)
  | .scatter k x u => some (k, x, u, 4, 1, gatherRun u k.1 x)
  | .scatterAdd k x u => some (k, x, u, 4, 2, gatherRun u k.1 x)
  | .compact k x u => some (k, x, u, 4, 3, compactRun k.1 x)
  | .dispatch k x u => some (k, x, u, 4, 4, dispatchRun u k.1 x)
  | .combine k x u => some (k, x, u, 4, 5, gatherRun u k.1 x)
  | .topk k x u => some (k, x, u, 7, 0, topkRun k.1 x)
  | .sample k x u => some (k, x, u, 7, 1, sampleRun k.1 x)
  | .quantise k x u => some (k, x, u, 1, 0, quantiseRun k.1 x)
  | .bits8 k x u => some (k, x, u, 8, 0, bitsRun 8 k.1 x)
  | .bits16 k x u => some (k, x, u, 8, 1, bitsRun 16 k.1 x)
  | .bits32 k x u => some (k, x, u, 8, 2, bitsRun 32 k.1 x)
  | .uniform k x u => some (k, x, u, 8, 3, uniformRun k.1 x)
  | .mask k x u => some (k, x, u, 8, 4, maskRun k.1 x)
  | .normal k x u => some (k, x, u, 8, 5, normalRun k.1 x)
  | .copyDescriptor k x u => some (k, x, u, 9, 0, copyRun k.1 x)
  | _ => none

/-- A descriptor command runs the first unfinished descriptor that its slot has at the engine, where that holds the
command's operation and the slot has its turn (R97): the engine's work on it is done and its status kept for the
completion. A void one finishes at once with SUCCESS; an upset fails it, and what it wrote is unspecified (R89, R324,
assumption 16). -/
def Obligations.EngineCommandsComplete : Prop :=
  ∀ (p : List Instr) (d : Dev) (c : Instr) (core : CoreId) (x : SlotIx) (u : Upset) (engine op : Nat)
    (run : Dev → QDesc → EngOut) (q : QDesc),
    engineCommand c = some (core, x, u, engine, op, run) → Serving d (islOfCore core.1) →
    (d.slot core.1 x).nextOn engine = some q → d.startsWork core.1 x = true → dOp q.bytes = op →
    d.turnOf core.1 x engine = true →
    let d1 := d.modCore core.1 (fun c => { c with lastSlot := tset c.lastSlot engine x.1 })
    (q.isVoid = true →
      exec c ⟨p, d⟩ = .next ⟨p, d1.modSlot core.1 x (fun s => s.finishOn engine q.health 0)⟩)
    ∧ (q.isVoid = false → u = .none →
      exec c ⟨p, d⟩ = .next ⟨p, (run (d1.countNbrs core.1 x q.bytes) q).d.modSlot core.1 x (fun s =>
        s.finishOn engine (run (d1.countNbrs core.1 x q.bytes) q).h (run (d1.countNbrs core.1 x q.bytes) q).st)⟩)
    ∧ (q.isVoid = false → upsetStatus u ≠ 0 →
      exec c ⟨p, d⟩ = .next ⟨p, ((run ((d1.countNbrs core.1 x q.bytes).upsetNote core.1 x engine u) q).d.spoil core.1 x
        q.bytes).modSlot core.1 x (fun s => s.finishOn engine q.health (upsetStatus u))⟩)

/-- The completion of an engine's oldest finished descriptor: it leaves the queue, its ticket counts one tile less, its
counts are kept, its status is posted with its tag, and where every task of its context then stands at a remote wait the
context becomes BLOCKED (R87, R97, R99, R121, R230). -/
def Obligations.DescriptorCompletionPosts : Prop :=
  ∀ (p : List Instr) (d : Dev) (core : CoreId) (x : SlotIx) (engine : Fin 16) (m : Measured) (q : QDesc),
    Serving d (islOfCore core.1) → (d.slot core.1 x).finishedOn engine.1 = some q → q.st = .finished 0 → engine.1 ≠ 0 →
    exec (.descriptorCompletion core x engine m) ⟨p, d⟩ = .next ⟨p,
      (Dev.postStatus (Dev.addHealth (Dev.modSlot (Dev.exactCheck ((((d.engineCount core.1 engine.1 0x800 1).engineCount core.1
        engine.1 0x808 m.cycles).engineCount core.1 engine.1 0x810 (workOf q.bytes q.rv q.cv))) core.1 x q m) core.1 x (fun s =>
          ({ s with descs := dropFirst (fun q => q.engine == engine.1 && q.isFinished) s.descs }).ticketDone q.ticket 0))
        core.1 x q.ticket q.health) core.1 x q.sem (some (dTag q.bytes)) 0 q.offset).collPoll.checkBlocked
            (d.slot core.1 x).ctx⟩

/-- A due closing is recorded and the ticket leaves the slot; a slot that yields returns its first open ticket; both reach
the counter over the crossing to the hub, and a parity error in the queue's state is an error of the gyle instead (R151).
A queue whose reset waits is made fresh once none of its tickets is out: every slice FREE with its generation raised, no
FAILED mark (R143, R144, R149). -/
def Obligations.TicketsCloseAndReturn : Prop :=
  ∀ (p : List Instr) (d : Dev) (core : CoreId) (x : SlotIx),
    (∀ o, Serving d (islOfCore core.1) → (d.slot core.1 x).tickets.find? OpenTicket.due = some o →
      exec (.ticketClose core ⟨x, false⟩) ⟨p, d⟩
        = .next ⟨p, ((d.carry (islOfCore core.1) (islOfHub (core.1 / 16))).closeTicket core.1 x o).collPoll⟩
      ∧ exec (.ticketClose core ⟨x, true⟩) ⟨p, d⟩
        = .next ⟨p, ((d.carry (islOfCore core.1) (islOfHub (core.1 / 16))).queueParity core.1 x).collPoll⟩)
    ∧ (∀ o r, Serving d (islOfCore core.1) → (d.slot core.1 x).preempt = true → (d.slot core.1 x).atBoundary = true →
      (d.slot core.1 x).tickets = o :: r → o.due = false →
      exec (.ticketReturn core ⟨x, false⟩) ⟨p, d⟩
        = .next ⟨p, ((d.carry (islOfCore core.1) (islOfHub (core.1 / 16))).returnTicket core.1 x o).collPoll⟩
      ∧ exec (.ticketReturn core ⟨x, true⟩) ⟨p, d⟩
        = .next ⟨p, ((d.carry (islOfCore core.1) (islOfHub (core.1 / 16))).queueParity core.1 x).collPoll⟩)
    ∧ ∀ (j : ClusterId) (y : CtxId) (num : Fin 32) (q : WQueue), Serving d (islOfHub j.1) →
      (d.cluster j.1).queueOf y.1 num.1 = some q → q.resetPending = true → (∀ s ∈ q.slices, s.tickets = []) →
      exec (.queueReset j y num) ⟨p, d⟩ = .next ⟨p, d.modCluster j.1 (fun c => c.modQueue y.1 num.1 (fun q =>
        { q.fresh with failed := false, resetPending := false }))⟩

/-! ## The cell grid -/

/-- A token of its stream's epoch enters the input queue, one with bad parity is discarded and its credit goes back; a
router forwards under a credit, which it spends, and a route whose entry fails its parity stops; a credit that comes back,
over the same crossings as the tokens, can be spent again (R17, R155, R158, R159, R172, Table 6.7). -/
def Obligations.RoutersMoveTokens : Prop :=
  ∀ (p : List Instr) (d : Dev) (core : CoreId) (i : CellIx) (port : Fin 5), Serving d (islOfCore core.1) →
    (∀ k rest, (d.cell core.1 i.1).coming port.1 = k :: rest → ((d.cell core.1 i.1).queue port.1).length < 8 →
      let d1 := d.setCell core.1 i.1 ((d.cell core.1 i.1).setComing port.1 rest)
      (exec (.tokenArrive core i port true) ⟨p, d⟩ = .next ⟨p, (d1.creditBack core.1 i.1 port.1).cellEvent core.1 i.1 3 k.stream⟩)
      ∧ ((d1.core core.1).epochAt i.1 k.stream = some k.epoch →
        exec (.tokenArrive core i port false) ⟨p, d⟩ = .next ⟨p, (d1.modCell core.1 i.1 (fun x =>
          x.setQueue port.1 (x.queue port.1 ++ [k]))).moved core.1 (d1.cellSlot core.1 i.1)⟩))
    ∧ (∀ inp k, d.hasCredit core.1 i.1 port.1 = true →
      (rotation 6 ((d.cell core.1 i.1).served port.1)).findSome? (fun q =>
        if q = port.1 ∨ q = 5 then none else ((d.cell core.1 i.1).forwardable q port.1).map (fun k => (q, k))) = some (inp, k) →
      exec (.tokenForward core i ⟨port, false⟩) ⟨p, d⟩ = .next ⟨p, ((d.takeToken core.1 i.1 inp k.stream).modCell core.1 i.1
        (fun s => s.setServed port.1 inp)).sendToken core.1 i.1 port.1 k⟩
      ∧ exec (.tokenForward core i ⟨port, true⟩) ⟨p, d⟩ = .next ⟨p, d.stopRoute core.1 i.1 k.stream⟩)
    ∧ ((d.cell core.1 i.1).backOn port.1 ≠ 0 →
      let home := fun (d : Dev) => d.modCell core.1 i.1 (fun c =>
        (c.setBack port.1 (c.backOn port.1 - 1)).setSpent port.1 (c.spentOn port.1 - 1))
      (creditWay core.1 i.1 port.1 = none → exec (.creditReturn core i port) ⟨p, d⟩ = .next ⟨p, home d⟩)
      ∧ ∀ n k way, creditWay core.1 i.1 port.1 = some (n, k, way) →
        (d.pathOpen way = true →
          exec (.creditReturn core i port) ⟨p, d⟩ = .next ⟨p, home (d.linkTravel n k (farPort port.1) way)⟩)
        ∧ (d.pathOpen way = false → exec (.creditReturn core i port) ⟨p, d⟩ = .next ⟨p, d⟩))

/-- The commands of the cell operations of Table 6.5: core, cell, upset and operation code. -/
def Sys2Proof.Claims.cellCommand (c : Instr) : Option (CoreId × CellIx × Upset × Nat) :=
  match c with
  | .mov k i u => some (k, i, u, 0x00)
  | .add k i u => some (k, i, u, 0x01)
  | .sub k i u => some (k, i, u, 0x02)
  | .mul k i u => some (k, i, u, 0x03)
  | .fma k i u => some (k, i, u, 0x04)
  | .max k i u => some (k, i, u, 0x05)
  | .min k i u => some (k, i, u, 0x06)
  | .abs k i u => some (k, i, u, 0x07)
  | .neg k i u => some (k, i, u, 0x08)
  | .cmpgt k i u => some (k, i, u, 0x09)
  | .sel k i u => some (k, i, u, 0x0A)
  | .rcp k i u => some (k, i, u, 0x0B)
  | .rsqrt k i u => some (k, i, u, 0x0C)
  | .exp2 k i u => some (k, i, u, 0x0D)
  | .log2 k i u => some (k, i, u, 0x0E)
  | .cvtDown k i u => some (k, i, u, 0x10)
  | .cvtUp k i u => some (k, i, u, 0x11)
  | .dup k i u => some (k, i, u, 0x18)
  | .steer k i u => some (k, i, u, 0x19)
  | .merge k i u => some (k, i, u, 0x1A)
  | .count k i u => some (k, i, u, 0x1B)
  | .acc k i u => some (k, i, u, 0x1C)
  | _ => none

/-- A cell operation fires the cell's next ready entry, where that entry holds the operation; a corrected register is
counted and recorded, an uncorrected one is an event of its cell, and an entry with bad table parity stops and fires no
more, which is an event too (R160, R161, R172, Tables 6.5 and 6.7). -/
def Obligations.CellOperationsFire : Prop :=
  ∀ (p : List Instr) (d : Dev) (c : Instr) (core : CoreId) (i : CellIx) (u : Upset) (op ix : Nat) (e : W128),
    cellCommand c = some (core, i, u, op) → Serving d (islOfCore core.1) → d.nextEntry core.1 i.1 = some (ix, e) →
    feOp e = op →
    ((u = .none ∨ ∃ m, u = .memory m) → exec c ⟨p, d⟩ = .next ⟨p, d.fire core.1 i.1 ix e false⟩)
    ∧ ((∃ m, u = .corrected m) → exec c ⟨p, d⟩ = .next ⟨p, ((d.count (coreKey core.1 0 0x800) 1).detect
      (coreDetection core.1 0 3 Unit.cell (core.1 * 16 + i.1) ((d.cellOwner core.1 i.1).getD 0) 0
        (coreKey core.1 12 0))).fire core.1 i.1 ix e false⟩)
    ∧ ((∃ m, u = .uncorrected m) → exec c ⟨p, d⟩ = .next ⟨p, (d.cellEvent core.1 i.1 4 (feOperand e 0).2).fire core.1 i.1 ix e true⟩)
    ∧ (u = .parity → exec c ⟨p, d⟩ = .next ⟨p, (d.modCell core.1 i.1 (fun c => { c with
        stoppedEntries := c.stoppedEntries ++ [ix] })).cellEvent core.1 i.1 5 (feOperand e 0).2⟩)

/-- The core ports: IN_RING writes its next DATA token to the ring slot and posts a batch; OUT_RING sends the token of its
next ring slot; SEM_IN turns a SEM token into a unit of its semaphore; LEN_OUT sends its length register, 0 where it is
negative; a binding whose entry fails its parity stops (R166, R172, Table 6.6). -/
def Obligations.CorePortsComplete : Prop :=
  ∀ (p : List Instr) (d : Dev) (core : CoreId) (n : Fin 32) (b : BindSt), Serving d (islOfCore core.1) →
    (∀ port k, d.bindingOf core.1 n.1 0 = some b →
      let units := (d.slot core.1 (bdSlot b.cfg)).sem (bdSemA b.cfg)
      let b : BindSt := { b with units := b.units + units }
      let d1 := (d.semDown core.1 (bdSlot b.cfg) (bdSemA b.cfg) units).setBinding core.1 n.1 b
      (d1.cell core.1 (bdCell b.cfg)).portToken (bdStream b.cfg) (bdEpoch b.cfg) = some (port, k) → k.kind = Kind.data →
      b.pos < bdSlots b.cfg + bdBatch b.cfg * b.units →
      let d2 := (((d1.takePortToken core.1 (bdCell b.cfg) (bdStream b.cfg) port).opWrite core.1 (bdSlot b.cfg) 0
        (bdRing b.cfg + 16 * (b.pos % max (bdSlots b.cfg) 1)) (leBytes 16 k.payload.toNat)).setBinding core.1 n.1
          { b with pos := b.pos + 1 }).portMoved core.1 (bdSlot b.cfg)
      exec (.inRing core ⟨n, false⟩) ⟨p, d⟩ = .next ⟨p, (if (b.pos + 1) % max (bdBatch b.cfg) 1 = 0 then
        d2.semUp core.1 (bdSlot b.cfg) (bdSemB b.cfg) 1 else d2).collPoll⟩)
    ∧ (d.bindingOf core.1 n.1 1 = some b → d.maySend core.1 b = true → b.pos % max (bdBatch b.cfg) 1 = 0 →
      (d.slot core.1 (bdSlot b.cfg)).sem (bdSemA b.cfg) ≠ 0 →
      let d1 := d.semDown core.1 (bdSlot b.cfg) (bdSemA b.cfg) 1
      let d2 := (d1.setBinding core.1 n.1 { b with pos := b.pos + 1, units := b.units + 1 }).portSend core.1 b Kind.data
        (BitVec.ofNat 128 (leNat (d1.opRead core.1 (bdSlot b.cfg) 0
          (bdRing b.cfg + 16 * (b.pos % max (bdSlots b.cfg) 1)) 16)))
      exec (.outRing core ⟨n, false⟩) ⟨p, d⟩ = .next ⟨p, (if (b.pos + 1) % max (bdBatch b.cfg) 1 = 0 then
        d2.semUp core.1 (bdSlot b.cfg) (bdSemB b.cfg) 1 else d2).collPoll⟩)
    ∧ (∀ port k, d.bindingOf core.1 n.1 2 = some b →
      (d.cell core.1 (bdCell b.cfg)).portToken (bdStream b.cfg) (bdEpoch b.cfg) = some (port, k) → k.kind = Kind.sem →
      exec (.semIn core ⟨n, false⟩) ⟨p, d⟩ = .next ⟨p, (((d.takePortToken core.1 (bdCell b.cfg) (bdStream b.cfg) port).portMoved core.1
        (bdSlot b.cfg)).semUp core.1 (bdSlot b.cfg) (bdSemA b.cfg) 1).collPoll⟩)
    ∧ (d.bindingOf core.1 n.1 3 = some b → d.maySend core.1 b = true →
      (d.slot core.1 (bdSlot b.cfg)).sem (bdSemA b.cfg) ≠ 0 →
      exec (.lenOut core ⟨n, false⟩) ⟨p, d⟩ = .next ⟨p, ((d.semDown core.1 (bdSlot b.cfg) (bdSemA b.cfg) 1).setBinding core.1 n.1
        { b with pos := b.pos + 1, units := b.units + 1 }).portSend core.1 b Kind.iter
          (BitVec.ofNat 128 (((d.slot core.1 (bdSlot b.cfg)).seq.len.toList.getD (bdLen b.cfg) 0).toInt.toNat))⟩)
    ∧ (let stop := (d.setBinding core.1 n.1 { b with stopped := true }).cellEvent core.1 (bdCell b.cfg) 5 (bdStream b.cfg)
      (d.bindingOf core.1 n.1 0 = some b → exec (.inRing core ⟨n, true⟩) ⟨p, d⟩ = .next ⟨p, stop.collPoll⟩)
      ∧ (d.bindingOf core.1 n.1 1 = some b → exec (.outRing core ⟨n, true⟩) ⟨p, d⟩ = .next ⟨p, stop.collPoll⟩)
      ∧ (d.bindingOf core.1 n.1 2 = some b → exec (.semIn core ⟨n, true⟩) ⟨p, d⟩ = .next ⟨p, stop.collPoll⟩)
      ∧ (d.bindingOf core.1 n.1 3 = some b → exec (.lenOut core ⟨n, true⟩) ⟨p, d⟩ = .next ⟨p, stop⟩))

/-- A stalled region is watched: an idle count at its limit starts the controller's questions; an answer of an island
whose slots work ends them; the last answer of the second round raises the deadlock where every island of the region has
answered and nothing moved; an island of a context that samples writes its record (R173, R174, R184). -/
def Obligations.StallWatchCompletes : Prop :=
  ∀ (p : List Instr) (d : Dev) (isl : Isl) (x : CtxId), There d isl →
    ((d.ctx x.1).probe = none → (d.slotsIn (islId isl) x.1).filter (fun s => d.idleRises s.1 s.2) ≠ [] →
      ∃ t, exec (.idleCountLimit isl x) ⟨p, d⟩ = .next t ∧ t.pending = p
        ∧ (t.dev.ctx x.1) = { d.ctx x.1 with probe := some (1, []), probeSeen := [] }
        ∧ t.dev.cores = d.cores ∧ t.dev.blk = d.blk
        ∧ ∀ s ∈ d.slotsIn (islId isl) x.1, d.idleRises s.1 s.2 = true →
          (d.ctx x.1).stallLimit ≤ (tget t.dev.moves (moveKey s.1 s.2) (0, 0)).1)
    ∧ (∀ round first, (d.ctx x.1).probe = some (round, first) → (d.slotsIn (islId isl) x.1) ≠ [] →
      (d.ctx x.1).probeSeen.contains (islId isl) = false →
      ((d.slotsIn (islId isl) x.1).any (fun s => (d.slot s.1 s.2).busy) = true →
        exec (.stallProbeReply isl x) ⟨p, d⟩ = .next ⟨p, d.modCtx x.1 (fun c => { c with probe := none, probeSeen := [] })⟩)
      ∧ ((d.slotsIn (islId isl) x.1).all (fun s => d.slotTokens s.1 s.2 == 0
            || decide ((d.ctx x.1).stallLimit ≤ (tget d.moves (moveKey s.1 s.2) (0, 0)).1)) = true →
          (d.slotsIn (islId isl) x.1).any (fun s => (d.slot s.1 s.2).busy) = false → round = 2 →
          tget first (islId isl) 0 = ((d.slotsIn (islId isl) x.1).map (fun s => (tget d.moves (moveKey s.1 s.2) (0, 0)).2)).sum →
          (d.regionOf x.1).all (fun i => (islId isl :: (d.ctx x.1).probeSeen).contains i) = true →
          exec (.stallProbeReply isl x) ⟨p, d⟩ = .next ⟨p, (d.modCtx x.1 (fun c =>
            { c with probe := none, probeSeen := [] })).deadlock (islId isl) x.1⟩))
    ∧ ((d.ctx x.1).perfMode = 1 → (d.slotsIn (islId isl) x.1) ≠ [] →
      let cores := (List.range 512).filter (fun n => islOfCore n == islId isl)
      let w := d.perfRecord x.1 (islId isl) 1 (coreKey (cores.headD 0) 13 0)
        (cores.flatMap (fun n => leBytes 2 (if (d.slotsIn (islId isl) x.1).any (fun s => s.1 == n) then d.busyBits x.1 n else 0))
          ++ (d.depthCounts (islId isl) x.1).flatMap (leBytes 2))
      w.1 = true →
      exec (.sampleRecord isl x) ⟨p, d⟩ = .next ⟨p, ((d.slotsIn (islId isl) x.1).map (·.1)).dedup.foldl
        (fun d n => d.count (coreKey n 13 0x810) 1) w.2⟩)

/-! ## Memory -/

/-- A place in host memory. -/
def Sys2Proof.Claims.onHost : Phys → Bool
  | .t2 _ => true
  | .t1 _ _ => false

/-- A hub performs a context access where no crossing on its way is closed: a read that its range admits and nothing
upsets answers the bytes, a write stores them, what the range forbids answers its status and stores nothing, and an access
to host memory that the host fails answers HOST_ACCESS; one that would pass a closed crossing does nothing (R193, R194,
R202, R208, R382). -/
def Obligations.HubAccessCompletes : Prop :=
  ∀ (p : List Instr) (d : Dev) (j : ClusterId) (x : CtxId) (va : Nat) (data : List Byte), Serving d (islOfHub j.1) →
    (d.memOpen j.1 x.1 va data.length = false → ∀ w u, exec (.hubAccess j x w va data u) ⟨p, d⟩ = .next ⟨p, d⟩)
    ∧ (d.memOpen j.1 x.1 va data.length = true → (d.ctx x.1).rangeStatus va data.length true = 0 →
      (piecesOf va data.length).any (fun q => onHost ((d.ctx x.1).translate q.1 false false).2) = true →
      exec (.hubAccess j x true va data .hostFail) ⟨p, d⟩ = .next ⟨p, { d with answer := (Code.hostAccess, []) }⟩)
    ∧ (d.memOpen j.1 x.1 va data.length = true →
    ((d.ctxRead x.1 va data.length).1 = 0 → ∃ t, exec (.hubAccess j x false va data .none) ⟨p, d⟩ = .next t
      ∧ t.pending = p ∧ t.dev.answer = (0, (d.ctxRead x.1 va data.length).2)
      ∧ t.dev = { (d.hubRead j.1 x.1 va data.length).2.2 with answer := t.dev.answer })
    ∧ ((d.ctxRead x.1 va data.length).1 ≠ 0 → exec (.hubAccess j x false va data .none) ⟨p, d⟩
      = .next ⟨p, { d with answer := ((d.ctxRead x.1 va data.length).1, []) }⟩)
    ∧ ((d.ctx x.1).rangeStatus va data.length true = 0 → exec (.hubAccess j x true va data .none) ⟨p, d⟩
      = .next ⟨p, { (d.hubWritePieces j.1 x.1 data (piecesOf va data.length)).2 with
          answer := ((d.hubWritePieces j.1 x.1 data (piecesOf va data.length)).1, []) }⟩)
    ∧ ((d.ctx x.1).rangeStatus va data.length true ≠ 0 → exec (.hubAccess j x true va data .none) ⟨p, d⟩
      = .next ⟨p, { d with answer := ((d.ctx x.1).rangeStatus va data.length true, []) }⟩))

/-- A hub fetches a stream's next sequence while its window and its locked ways have room and holds it; a fetch that
meets a status holds the status in its place (R214, R216); a stall on grist data that has lasted its limit is counted
and told to the context once (R218). -/
def Obligations.GristStreamsComplete : Prop :=
  ∀ (p : List Instr) (d : Dev),
    (∀ (j : ClusterId) (x : CtxId) (n : Fin 8) (g : GStream), Serving d (islOfHub j.1) →
      (d.cluster j.1).streams.find? (fun g => g.ctx == x.1 && g.num == n.1) = some g → d.onCluster j.1 x.1 = true →
      g.due < g.rec_.entries → g.due < g.low + g.rec_.window →
      ((d.ctxRead x.1 (g.rec_.schedule + 8 * g.due) 8).1 ≠ 0 →
        exec (.gristFetch j x n .none) ⟨p, d⟩ = .next ⟨p, (d.modCluster j.1 (fun c => c.setStream { g with
          next := g.due + 1
          held := g.held ++ [GristSeq.mk g.due 0 0 (some (d.ctxRead x.1 (g.rec_.schedule + 8 * g.due) 8).1)] })).errFire
            (hubKey j.1 3 0) 1 (n.1 + x.1 * 2 ^ 16)⟩)
      ∧ ∀ num o, (d.ctxRead x.1 (g.rec_.schedule + 8 * g.due) 8).1 = 0 → d.objOf x.1 g.rec_.object = some (num, o) →
        let off := leNat (d.ctxRead x.1 (g.rec_.schedule + 8 * g.due) 8).2 % 2 ^ 48
        let va := (o.addrIn x.1).getD 0 + off
        let len := max 64 (leNat (((d.ctxRead x.1 va 64).2.drop 8).take 4))
        off + 64 ≤ pagesOf o.size * 0x200000 → (d.ctxRead x.1 va 64).1 = 0 →
        g.heldBytes + len ≤ g.rec_.lock * 0x200000 → off + len ≤ pagesOf o.size * 0x200000 → (d.ctxRead x.1 va len).1 = 0 →
        d.memOpen j.1 x.1 va len = true →
        exec (.gristFetch j x n .none) ⟨p, d⟩ = .next ⟨p, ((((d.drew.modCluster j.1 (fun c => c.setStream { g with
          next := g.due + 1, held := g.held ++ [GristSeq.mk g.due va len none] })).stackReads x.1 (g.rec_.schedule + 8 * g.due)
            8).fetchTrip j.1 x.1 va len).count (hubKey j.1 3 0x800) len).count (hubKey j.1 3 0x808) 1⟩)
    ∧ ∀ (core : CoreId) (x : SlotIx) (w : W64), Serving d (islOfCore core.1) → (d.slot core.1 x).stall = .issue →
      (d.slot core.1 x).program[(d.slot core.1 x).seq.pc]? = some w → d.rnat (hubKey (core.1 / 16) 3 0 + 0x100) ≠ 0 →
      (d.slot core.1 x).starved = false → d.issueFind core.1 x w = .stall true →
      exec (.gristStarved core x) ⟨p, d⟩ = .next ⟨p, (((d.modSlot core.1 x (fun s => { s with starved := true })).noteEvent
        (islOfHub (core.1 / 16))).count (hubKey (core.1 / 16) 3 0 + 0x820) 1).ctxEvent (d.slot core.1 x).ctx Code.gristStarved
          (BitVec.ofNat 32 (core.1 / 16 * 2 ^ 8
            + opOffset (dN (d.opRead core.1 x 0 (bitsOf w.toNat 21 0) 64) 0x14 4) % 8)) []⟩

/-- A scrub step of a stack in service counts a full pass, or the error that it finds; a frame that was freed is zeroed
before the region's first zeroing once that is done (R196, R246, R327, R424). -/
def Obligations.HbmUpkeepCompletes : Prop :=
  ∀ (p : List Instr) (d : Dev),
    (∀ (k : StackId), d.stackIn k.1 = true →
      exec (.scrubStep k (.clean true)) ⟨p, d⟩ = .next ⟨p, d.count (hbmKey k.1 0 0x820) 1⟩
      ∧ exec (.scrubStep k (.clean false)) ⟨p, d⟩ = .next ⟨p, d⟩
      ∧ (∀ pc, exec (.scrubStep k (.corrected pc)) ⟨p, d⟩ = .next ⟨p, d.hbmCorrected k.1 (pc % 64) 0 0xFFFF⟩)
      ∧ (∀ pc f o, exec (.scrubStep k (.uncorrected pc f o)) ⟨p, d⟩
          = .next ⟨p, d.hbmUncorrected k.1 (pc % 64) (k.1 / 4 * 65536 + f % 65536) 0xFFFF true⟩)
      ∧ exec (.scrubStep k .caParity) ⟨p, d⟩ = .next ⟨p, d.errFire (hbmKey k.1 0 0) 2 0x3FF00⟩)
    ∧ ∀ (n : DieId) f rest, d.sec.devState = .ready → (d.poolOf n.1).toZero = f :: rest →
      d.regionFrames n.1 ≤ (d.poolOf n.1).zeroed →
      exec (.frameZeroed n) ⟨p, d⟩ = .next ⟨p, ((d.hbmClear (n.1 * 65536 + f)).drew).setPool n.1
        { d.poolOf n.1 with toZero := rest }⟩

/-- The object commands: an entry that passes its checks makes or joins an object and completes with its number; a
release gives the hold back; a move between HBM and host memory takes its target, charges it, and completes only when
its last frame has been carried (R199, R205, R206, R223, Table 7.7).

A move carries one frame at a time over the crossings between its stacks and the host island; once all are carried the
holders' pages lead to the new copy, the source's frames and charges go back and the command completes; a move whose last
hold was released stops at the frame boundary; one whose host access fails ends with HOST_ACCESS, the object at its source
(R205, R208, Table 7.7; the failure's end is the model's choice, assumption 126). Every host command is a scheduling event
(R234). -/
def Obligations.ObjectCommandsAndMovesComplete : Prop :=
  (∀ (p : List Instr) (d : Dev) (h : CmdHdr), LiveGood d h →
    (∀ e, (d.allocate h.ctx (d.ctx h.ctx).bounds e).1 = 0 → (d.allocate h.ctx (d.ctx h.ctx).bounds e).2.2.1 = false →
      exec (.objCreate h e) ⟨p, d⟩ = .next ⟨p, ((d.allocate h.ctx (d.ctx h.ctx).bounds e).2.2.2.complete h 0
        (BitVec.ofNat 32 (d.allocate h.ctx (d.ctx h.ctx).bounds e).2.1)).schedule⟩)
    ∧ (∀ e, entryShares e = true → (d.allocate h.ctx (d.ctx h.ctx).bounds e).1 = 0 →
      exec (.objAttach h e) ⟨p, d⟩ = .next ⟨p, ((d.allocate h.ctx (d.ctx h.ctx).bounds e).2.2.2.complete h 0
        (BitVec.ofNat 32 (d.allocate h.ctx (d.ctx h.ctx).bounds e).2.1)).schedule⟩)
    ∧ ∀ (object range : W32) n o, d.objOf h.ctx object.toNat = some (n, o) →
      exec (.objRelease h object) ⟨p, d⟩ = .next ⟨p, (d.releaseHold h.ctx n o (some h)).schedule⟩
      ∧ (∀ fs d', o.motion = .stable → o.tier = 2 → o.resident = none → (d.rangeOf h.fn range.toNat).isSome = true →
        o.hostRange.map (·.1) = some range.toNat →
        (∀ q ∈ o.holders, (d.ctx q.1).canCharge [0, pagesOf o.size, 0, 0] = true) →
        d.takeFrames (placeDies o.placement ((d.ctx h.ctx).nearDie.getD 0) 0 (pagesOf o.size)) = some (fs, d') →
        exec (.objMoveUp h object range) ⟨p, d⟩ = .next ⟨p, ((o.holders.foldl (fun d q =>
          d.modCtx q.1 (fun c => c.addCharges [0, pagesOf o.size, 0, 0])) d').setObj n
            { o with motion := .up, moveFrames := fs, moved := 0, moveCmd := some h }).schedule⟩)
      ∧ ∀ r bus, o.holders.length ≤ 1 → o.motion = .stable → o.tier = 1 → o.resident = none → o.isVersioned = false →
        o.isLogged = false → o.frames ≠ [] → d.rangeOf h.fn range.toNat = some r → d.roomIn r (pagesOf o.size) = some bus →
        (d.ctx h.ctx).canCharge [0, 0, pagesOf o.size, 0] = true →
        exec (.objMoveDown h object range) ⟨p, d⟩ = .next ⟨p, ((d.modCtx h.ctx (fun c =>
          c.addCharges [0, 0, pagesOf o.size, 0])).setObj n
            { o with motion := .down, moveRange := some (range.toNat, bus), moved := 0, moveCmd := some h }).schedule⟩)
  ∧ ∀ (p : List Instr) (d : Dev) (n : Nat) (o : Obj), tget? d.objs n = some o →
    (pagesOf o.size ≤ o.moved → o.motion = .up → ∃ o2, o2 = { o with
        motion := .stable, tier := 1, frames := o.moveFrames, moveFrames := [], hostRange := none, moved := 0, moveCmd := none }
      ∧ exec (.moveComplete n) ⟨p, d⟩ = .next ⟨p, (((o.holders.foldl (fun d q => d.modCtx q.1 (fun c =>
          c.subCharges [0, 0, pagesOf o.size, 0])) d).setObj n o2).remap o2).completeOpt o.moveCmd 0 0⟩)
    ∧ (pagesOf o.size ≤ o.moved → o.motion = .down → ∃ o2, o2 = { o with
        motion := .stable, tier := 2, frames := [], hostRange := o.moveRange, moveRange := none, moved := 0, moveCmd := none }
      ∧ exec (.moveComplete n) ⟨p, d⟩ = .next ⟨p, ((((o.holders.foldl (fun d q => d.modCtx q.1 (fun c =>
          c.subCharges [0, pagesOf o.size, 0, 0])) d).freeFrameList o.frames).setObj n o2).remap o2).completeOpt o.moveCmd 0 0⟩)
    ∧ (o.moved < pagesOf o.size → o.motion = .up →
      let f := o.moveFrames.getD o.moved 0
      (d.frameOpen f = true → exec (.objectMoveFrame ⟨n, .none⟩) ⟨p, d⟩ = .next ⟨p, ((d.drew.store 32 (.t1 f 0)
        (d.hostReads ((o.hostRange.map (·.2)).getD 0 + o.moved * 0x200000) 0x200000)).frameTrip f false).setObj n
          { o with moved := o.moved + 1 }⟩)
      ∧ (d.frameOpen f = true → exec (.objectMoveFrame ⟨n, .hostFail⟩) ⟨p, d⟩ = .next ⟨p, d.moveFails n o Code.hostAccess⟩)
      ∧ (d.frameOpen f = false → ∀ u, exec (.objectMoveFrame ⟨n, u⟩) ⟨p, d⟩ = .next ⟨p, d⟩))
    ∧ (o.moved < pagesOf o.size → o.motion = .down →
      let f := o.frames.getD o.moved 0
      (d.frameOpen f = true → exec (.objectMoveFrame ⟨n, .none⟩) ⟨p, d⟩ = .next ⟨p, (((d.placeRead (.t1 f 0) 0x200000).store 32
        (.t2 ((o.moveRange.map (·.2)).getD 0 + o.moved * 0x200000)) (d.physRead (.t1 f 0) 0x200000)).frameTrip f true).setObj n
          { o with moved := o.moved + 1 }⟩)
      ∧ (d.frameOpen f = true → exec (.objectMoveFrame ⟨n, .hostFail⟩) ⟨p, d⟩ = .next ⟨p, d.moveFails n o Code.hostAccess⟩))
    ∧ (o.motion = .stopping → ∀ u,
      exec (.objectMoveFrame ⟨n, u⟩) ⟨p, d⟩
        = .next ⟨p, ((d.freeObj n o).completeOpt o.moveCmd Code.objectUnknown 0).completeOpt o.releaseCmd 0 0⟩)

/-! ## Contexts -/

/-- The context commands where their checks pass: an assignment writes the function of a FREE context; a load makes it
LOADED; an unload of one at rest takes it to SPARGING; a kill kills; a resume clears the halt; a descriptor write of
fields that do not wait for a gyle lands at once, in any state that the field's rule admits (R225, R229, R243, R247,
Tables 8.1 and 8.4). Each is a scheduling event (R234). -/
def Obligations.ContextCommandsComplete : Prop :=
  ∀ (p : List Instr) (d : Dev) (h : CmdHdr),
    (∀ ctx fn : W16, AdminGood d h true → ctx.toNat < 1024 → fn.toNat ≤ 64 → (d.ctx ctx.toNat).state = .free →
      exec (.fnAssign h ctx fn) ⟨p, d⟩ = .next ⟨p, ((d.modCtx ctx.toNat (fun c => c.setField 4 2 fn.toNat)).complete h 0 0).schedule⟩)
    ∧ (∀ i, CtxGood d h → (d.ctx h.ctx).state = .free → d.sec.lifecycle ≠ 0 →
      (d.loadImage h.ctx i).1.1 = 0 →
      exec (.ctxLoad h i) ⟨p, d⟩ = .next ⟨p,
        (((((d.loadImage h.ctx i).2.drew.modCtx h.ctx (fun c =>
          { (((c.setField 0x80 8 0).setField 0x92 2 0).setField 0x70 8 (Config.freeNat (d.loadImage h.ctx i).2.free)) with
            gyle := Gyle.reset, health := Health.zero, fhPos := 0, gPos := 0, perfPos := 0, ringFailed := []
            perfLost := false, perfUnread := 0, poolPosted := false, quotaPosted := false, stale := [] })).setState h.ctx .loaded).complete h 0 0).schedule)⟩)
    ∧ (LiveGood d h → (d.ctx h.ctx).state ≠ .running → (d.ctx h.ctx).state ≠ .blocked → (d.ctx h.ctx).places ≠ [] →
      exec (.ctxUnload h) ⟨p, d⟩ = .next ⟨p, ((d.endCtx h.ctx Code.gyleAborted .sparging).modCtx h.ctx (fun c =>
        { c with unloadCmd := some h })).schedule⟩)
    ∧ (LiveGood d h → exec (.ctxKill h) ⟨p, d⟩ = .next ⟨p, (d.kill h.ctx (some h)).schedule⟩)
    ∧ (LiveGood d h → (d.ctx h.ctx).halted = true →
      exec (.ctxResume h) ⟨p, d⟩ = .next ⟨p,
        ((d.modCtx h.ctx (fun c => { c with halted := false })).complete h 0 0).schedule⟩)
    ∧ ∀ (offset : W16) (value : List Byte), CtxGood d h →
      (d.ctx h.ctx).busyGyle = false → 0 < value.length → value.length ≤ 32 → offset.toNat + value.length ≤ 256 →
      (∀ f ∈ descFields, f.1 < offset.toNat + value.length → offset.toNat < f.1 + f.2.1 →
        f.1 ≠ 0xC8 ∧ f.2.2.status (d.ctx h.ctx) h.fn = 0 ∧ badField f.1 ((d.ctx h.ctx).setBytes offset.toNat value) = false
        ∧ lowQuota f.1 ((d.ctx h.ctx).setBytes offset.toNat value) = false
        ∧ (f.2.2 = .reserved → ((d.ctx h.ctx).setBytes offset.toNat value).field f.1 f.2.1 = 0)) →
      exec (.ctxSet h offset value) ⟨p, d⟩ = .next ⟨p, ((d.modCtx h.ctx (fun c =>
        ((List.range value.length).zip value).foldl (fun c p => c.setBytes (offset.toNat + p.1) [p.2]) c)).complete h 0 0).schedule⟩

/-- A killed context whose tasks have stopped goes to SPARGING, and to FREE once no window of it is left and no core of it is
under test; a quantum that has passed is recorded and the scheduler runs, unless the context's table entry fails its
parity, which is an error of the device; a request to pre-empt reaches the slots of its context (R234, R235,
R244, R245, Table 8.3). -/
def Obligations.ContextEventsComplete : Prop :=
  ∀ (p : List Instr) (d : Dev) (x : CtxId),
    ((d.ctx x.1).state = .killed → (∀ s ∈ d.slotsOf x.1, (d.slot s.1 s.2).busy = false) →
      exec (.tasksStopped x) ⟨p, d⟩ = .next ⟨p, (d.setState x.1 .sparging).schedule⟩)
    ∧ ((d.ctx x.1).state = .sparging → d.hasWindows x.1 = false →
      (∀ q ∈ (d.ctx x.1).places, (d.core q.core).test ≠ .running) →
      exec (.spargeComplete x) ⟨p, d⟩ = .next ⟨p, (d.freeCtx x.1).schedule⟩)
    ∧ ((d.ctx x.1).state = .running →
      exec (.quantumExpiry ⟨x, false⟩) ⟨p, d⟩ = .next ⟨p, (d.modCtx x.1 (fun c => { c with quantumOver := true })).schedule⟩)
    ∧ exec (.quantumExpiry ⟨x, true⟩) ⟨p, d⟩ = .next ⟨p, d.contextTableBad x.1⟩
    ∧ ∀ core : CoreId, Serving d (islOfCore core.1) → (d.ctx x.1).preempting = true →
      ∃ t, exec (.preemptRequest core x) ⟨p, d⟩ = .next t ∧ t.pending = p ∧ t.dev = { d with cores := t.dev.cores }
        ∧ (∀ n, n ≠ core.1 → t.dev.core n = d.core n)
        ∧ ∀ k, t.dev.slot core.1 k = { d.slot core.1 k with
            preempt := ((d.slot core.1 k).valid && (d.slot core.1 k).ctx == x.1) || (d.slot core.1 k).preempt }

/-- A slot that may yield returns its tickets, its state is saved and the slot is empty; one that has not yielded in time
halts its context; a swap out with room saves the context's grants and records and a swap in brings them back (R235,
R239, R240, R241, R242). -/
def Obligations.YieldsAndSwapsComplete : Prop :=
  ∀ (p : List Instr) (d : Dev) (core : CoreId) (k : SlotIx) (x : CtxId),
    (Serving d (islOfCore core.1) → (d.slot core.1 k).valid = true → (d.slot core.1 k).preempt = true →
      d.yieldable core.1 k = true → (d.ctx (d.slot core.1 k).ctx).state ≠ .killed →
      let s := d.slot core.1 k
      let y := (d.slot core.1 k).ctx
      let v := (d.returnAll core.1 k).saveOf core.1 k
      let d1 := ((d.returnAll core.1 k).modCtx y (fun c => { c with
        saved := c.saved.filter (fun o => o.task != v.task) ++ [v]
        places := c.places.map (fun p => if p.task = v.task then { p with running := false } else p) })).clearSlot core.1 k
      let d2 := (((d1.modSlot core.1 k (fun _ => s.yieldedOf)).leaveCluster y (core.1 / 16)).modCore core.1
        (fun k => { k with regionSaved := true })).count (coreKey core.1 1 0x810) 1
      let d3 := (d2.noteEvent (islMgmt 0)).raise (schedKey 0x808)
        ((d2.noteEvent (islMgmt 0)).cycleOf (islMgmt 0) - ((d2.noteEvent (islMgmt 0)).ctx y).preemptAt)
      exec (.slotYield core k) ⟨p, d⟩ = .next ⟨p, (if (d3.slotsOf y).isEmpty then d3.allYielded y else d3).schedule⟩)
    ∧ (Serving d (islOfCore core.1) → (d.slot core.1 k).valid = true → (d.ctx (d.slot core.1 k).ctx).preempting = true →
      (d.slot core.1 k).overrun = false →
      exec (.preemptOverrun core k) ⟨p, d⟩ = .next ⟨p, (((((d.modSlot core.1 k (fun s =>
        { s with overrun := true, preempt := true })).abortCause (d.slot core.1 k).ctx 5 Code.preemptOverrun
          (srcCore core.1)).modCtx (d.slot core.1 k).ctx (fun c => { c with halted := true })).errFire (schedKey 0) 0
            ((d.slot core.1 k).ctx * 2 ^ 16)).count (schedKey 0x830) 1).ctxEvent (d.slot core.1 k).ctx Code.preemptOverrun 0 []⟩)
    ∧ (∀ d', (d.ctx x.1).swapping = true → (d.ctx x.1).state = .resident → d.slotsOf x.1 = [] → d.redirectedAll x.1 = true →
      (d.ctx x.1).swapsToHost = false →
      d.takeSwap x.1 (pagesOf (d.ctx x.1).swapBytes - (tget d.swapUsed x.1 []).length) = some d' →
      exec (.swapOutComplete x) ⟨p, d⟩ = .next ⟨p, ((((d'.dropPlaces x.1).modCtx x.1 (fun c => { c with
        saved := d'.saveGrants x.1
        savedQueues := (d'.clusters.map (·.2)).flatMap (fun k => k.queues.filter (fun q => q.ctx == x.1))
        savedStreams := (d'.clusters.map (·.2)).flatMap (fun k => k.streams.filter (fun g => g.ctx == x.1))
        swapping := false })).setState x.1 .swapped).count (schedKey 0x810) 1).schedule⟩)
    ∧ ((d.ctx x.1).swapping = true → (d.ctx x.1).state = .swapped → (d.ctx x.1).places ≠ [] →
      (∀ q ∈ (d.ctx x.1).places, (d.core q.core).test ≠ .running) →
      let d0 := (d.ctx x.1).places.foldl (fun d' p =>
        match (d.ctx x.1).task p.task, (d.ctx x.1).saved.find? (fun v => v.task == p.task) with
        | some t, some v => d'.modCore p.core (fun k => { k with
            spad := v.spad.foldl (fun m e => mwrite m (p.base + e.1) e.2) (mclear k.spad p.base (t.entry.bound * 0x1000)) })
        | _, _ => d') d
      let d1 := (d0.keepSwap x.1 (pagesOf (d.ctx x.1).yieldBytes)).modCtx x.1 (fun c => { c with
        swapping := false, saved := c.saved.map (fun v => { v with spad := [] }) })
      exec (.swapInComplete x) ⟨p, d⟩ = .next ⟨p, (((d1.setState x.1 (if d1.savedBlocked x.1 then .blocked else .resident)).count
        (schedKey 0x818) 1).resumeRestore x.1).schedule⟩)

/-! ## Gyles -/

/-- The gyle commands where their checks pass: BEGIN of the committed number starts a gyle of an idle context, REPLAY one
of a held one; ABORT records cause 12; a host decision is applied as one (R252, R259, R268, R269, R274, Table 9.1). -/
def Obligations.GyleCommandsComplete : Prop :=
  ∀ (p : List Instr) (d : Dev) (h : CmdHdr), GyleGood d h →
    (∀ gyle time : W64, gyle.toNat < 2 ^ 48 → (d.ctx h.ctx).gyle.st = .idle → gyle.toNat = (d.ctx h.ctx).num →
      d.coordinates h.ctx = false →
      exec (.gyleBegin h gyle time) ⟨p, d⟩ = .next ⟨p, ((d.modGyle h.ctx (fun g =>
        { g with cmd := some h, hostTime := time })).startGyle h.ctx false).schedule⟩)
    ∧ (∀ gyle : W64, gyle.toNat < 2 ^ 48 → (d.ctx h.ctx).gyle.st = .running → gyle.toNat = (d.ctx h.ctx).num →
      exec (.gyleAbort h gyle) ⟨p, d⟩ = .next ⟨p, ((d.abortOpen h.ctx 12 srcHost).complete h 0 0).schedule⟩)
    ∧ (∀ (gyle : W64) (outcome : Byte), gyle.toNat < 2 ^ 48 → outcome.toNat ≤ 1 → (d.ctx h.ctx).coordMode = 2 →
      (d.ctx h.ctx).gyle.st = .voted → gyle.toNat = (d.ctx h.ctx).num →
      exec (.gyleDecide h gyle outcome) ⟨p, d⟩ = .next ⟨p, ((d.hostDecides h.ctx (outcome == 0) 13).complete h 0 0).schedule⟩)
    ∧ (∀ (gyle : W64) (outcome : Byte), gyle.toNat < 2 ^ 48 → outcome.toNat ≤ 1 →
      (d.ctx h.ctx).gyle.st = .voted → gyle.toNat = (d.ctx h.ctx).num →
      exec (.gyleResolve h gyle outcome) ⟨p, d⟩ = .next ⟨p, ((d.hostDecides h.ctx (outcome == 0) 16).complete h 0 0).schedule⟩)
    ∧ ((d.ctx h.ctx).gyle.st = .held →
      exec (.gyleReplay h) ⟨p, d⟩ = .next ⟨p, ((d.modGyle h.ctx (fun g => { g with cmd := some h })).startGyle h.ctx true).schedule⟩)

/-- The events of a gyle: its start actions, once no queue reset waits; the end of a capture; a vote, for ABORT once a
cause is recorded and for COMMIT once every condition holds; votes and decisions that arrive from partners; the two
deadlines (R253, R262, R265, R267, R270, Tables 9.1 to 9.4). -/
def Obligations.GyleEventsComplete : Prop :=
  ∀ (p : List Instr) (d : Dev) (x : CtxId),
    ((d.ctx x.1).gyle.st = .running → (d.ctx x.1).gyle.startPending = true → (d.ctx x.1).state = .running →
      d.clusters.any (fun e => e.2.queues.any (fun q => q.ctx == x.1 && q.resetPending)) = false →
      let d1 := ((((((d.startSlots x.1).startCells x.1).startStreams x.1).startCaches x.1).startSettings
        x.1).startFabric x.1).reloadConfig x.1
      exec (.gyleStart x) ⟨p, d⟩ = .next ⟨p, (((d1.slotsOf x.1).foldl (fun d s => d.modSlot s.1 s.2 (fun k => k.setSem 0 1))
        d1).modGyle x.1 (fun g => { g with startPending := false })).startCapture x.1⟩)
    ∧ ((d.ctx x.1).resil.capture = .capturing → (d.ctx x.1).resil.captured = false → (d.ctx x.1).resil.readyCycle = none →
      exec (.captureComplete x) ⟨p, d⟩ = .next ⟨p, (d.captureImage x.1).modResil x.1 (fun r => { r with cost := 0 })⟩)
    ∧ ((d.ctx x.1).gyle.st = .running → (d.ctx x.1).gyle.cause.isSome = true →
      exec (.vote x) ⟨p, d⟩ = .next ⟨p, d.castVote x.1⟩)
    ∧ ((d.ctx x.1).gyle.st = .running → (d.ctx x.1).gyle.cause = none → (d.ctx x.1).gyle.startPending = false →
      d.voteReady x.1 = true → (d.ctx x.1).resil.capture ≠ .capturing → d.proofHolds x.1 = true →
      exec (.vote x) ⟨p, d⟩ = .next ⟨p, d.castVote x.1⟩)
    ∧ (∀ (n : PortId) m, d.headMsg n.1 0 (fun m => m.hdr.type == 6 && (ballotOf m.data).type == 1) = some m →
      m.hdr.dstCtx.toNat < 1024 →
      exec (.gyleVote n) ⟨p, d⟩ = .next ⟨p, (d.popMsg n.1 0).recordVote m.hdr.dstCtx.toNat
        (m.hdr.src.toNat, m.hdr.srcCtx.toNat) (ballotOf m.data) m.hdr.attempt.toNat⟩)
    ∧ (∀ (n : PortId) m, d.headMsg n.1 0 (fun m => m.hdr.type == 6 && (ballotOf m.data).type == 2) = some m →
      m.hdr.dstCtx.toNat < 1024 →
      exec (.gyleDecideMessage n) ⟨p, d⟩ = .next ⟨p, (d.popMsg n.1 0).decideHere m.hdr.dstCtx.toNat (ballotOf m.data).job
        { gyle := (ballotOf m.data).gyle, commit := (ballotOf m.data).value == 0, cause := (ballotOf m.data).cause
          status := (ballotOf m.data).status, origin := BitVec.ofNat 24 (ballotOf m.data).origin
          attempt := m.hdr.attempt.toNat }⟩)
    ∧ (d.coordinates x.1 = true → (d.ctx x.1).gyle.coord.deadlineRuns = true →
      (d.ctx x.1).resil.startCycle + 500 * (d.ctx x.1).voteDeadline ≤ d.cycleOf (islMgmt 0) →
      exec (.voteDeadline x) ⟨p, d⟩ = .next ⟨p, (d.drew.count (gyleKey 0x820) 1).coordDecide x.1 false 14 0
        (openCode (Config.freeNat d.free))⟩)
    ∧ (d.cycleOf (islMgmt 0) < (d.ctx x.1).resil.startCycle + 500 * (d.ctx x.1).voteDeadline →
      exec (.voteDeadline x) ⟨p, d⟩ = .next ⟨p, d⟩)
    ∧ ((d.ctx x.1).gyle.st = .voted →
      exec (.decideTimeout x) ⟨p, d⟩ = .next ⟨p, (((d.noteEvent (islMgmt 0)).sendVote x.1).errFire (gyleKey 0) 2
        (2 + x.1 * 2 ^ 16)).ctxEvent x.1 Code.gyleDecisionOverdue 0 []⟩)

/-- A COMMIT decision makes the gyle's writes the context's state, seals the capture of that gyle, writes its records,
raises the committed number and leaves the gyle IDLE; an ABORT decision, once the context's tasks stand where R235 stops
them and nothing of it runs, undoes them, counts the abort and leaves the gyle HELD unless it replays by itself; a
device in the error state replays nothing. Every sequence of the context's streams is released at either end (R213,
R271, R272, R274, R329, R354). -/
def Obligations.DecisionsApply : Prop :=
  ∀ (p : List Instr) (d : Dev) (x : CtxId) (k : Decision), (d.ctx x.1).gyle.st = .applying →
    (d.ctx x.1).gyle.decision = some k →
    (k.commit = true →
      let f := (d.noteEvent (islMgmt 0)).flipPages x.1
      let l := (f.2.dropXlate x.1).clearLogs x.1
      let r := ((l.2.sealCapture x.1).count (gyleKey 0x848) f.1).endRecords x.1 true f.1 l.1
      let d1 := r.2.modCtx x.1 (fun c => (c.setField 0x80 8 (((d.ctx x.1).num + 1) % 2 ^ 48)).setField 0x92 2 0)
      let d2 := (d1.modResil x.1 (fun r => r.commitTime (d1.cycleOf (islMgmt 0)))).modGyle x.1 (fun y => { y with
        st := .idle, cmd := none, cause := none, decision := none, applied := some ((d.ctx x.1).num, true) })
      exec (.gyleCommitApply x) ⟨p, d⟩ = .next ⟨p, (((((d2.count (gyleKey 0x800) 1).endStreams x.1).rewind x.1).completeOpt
        (d.ctx x.1).gyle.cmd 0 0).resumeRestore x.1).schedule⟩)
    ∧ (k.commit = false → (∀ s ∈ d.slotsOf x.1, (d.slot s.1 s.2).busy = false
        ∧ (d.executes s.1 s.2 = false ∨ (d.slot s.1 s.2).stall ≠ .none)) →
      (d.ctx x.1).resil.capture ≠ .capturing ∨ (d.ctx x.1).resil.captured = true →
      let d0 := (d.slotsOf x.1).foldl (fun d s => d.returnAll s.1 s.2) (d.noteEvent (islMgmt 0))
      let f := d0.clearDirty x.1
      let l := f.2.restoreLogs x.1
      let d1 := (l.2.spoilSlots x.1 (d.ctx x.1).num).count (gyleKey 0x850) l.1
      let r := d1.endRecords x.1 false f.1 l.1
      let d2 := (((r.2.count (gyleKey 0x808) 1).endStreams x.1).rewind x.1).modCtx x.1 (fun c =>
        c.setField 0x92 2 (min 65535 (c.aborts + 1)))
      let d3 := (d2.ctxEvent x.1 (d2.ctx x.1).gyle.firstCause.status 0 (r.1.take 48)).modGyle x.1 (fun y =>
        { y with applied := some ((d.ctx x.1).num, false) })
      let held := d3.modGyle x.1 (fun y => { y with st := .held, cmd := none, cause := none, decision := none })
      (d2.sec.devState ≠ .error → (d2.ctx x.1).replays.1 = true →
        exec (.gyleAbortApply x) ⟨p, d⟩ = .next ⟨p, (d3.startGyle x.1 true).schedule⟩)
      ∧ (d2.sec.devState ≠ .error → (d2.ctx x.1).replays.1 = false → exec (.gyleAbortApply x) ⟨p, d⟩ = .next ⟨p,
          ((held.completeOpt (d.ctx x.1).gyle.cmd (d2.ctx x.1).replays.2 0).resumeRestore x.1).schedule⟩)
      ∧ (d2.sec.devState = .error → exec (.gyleAbortApply x) ⟨p, d⟩ = .next ⟨p,
          ((held.completeOpt (d.ctx x.1).gyle.cmd Code.gyleAborted 0).resumeRestore x.1).schedule⟩))

/-! ## The fabric -/

/-- A port that is up sends its next group, a resent one first, filled up to eight with idle flits, under a link word
with the acknowledgement that is due, the credits that are due and the CRC of the group; keeps it until it is
acknowledged and counts its flits; takes a good group in order, acknowledges it and credits it; discards a bad one;
sends its unacknowledged groups again after a timeout; and comes up from training with every credit. A lookup of a
partner crosses to the management island of die 0 and back (R283 to R287, R292; what idle flits carry and that flits
sent again count are the model's choices, assumption 134). -/
def Obligations.LinksComplete : Prop :=
  ∀ (p : List Instr) (d : Dev) (n : PortId),
    (∀ g : SentGroup, d.portUp n.1 = true → 0 < (d.port n.1).resend →
      (d.port n.1).replay[(d.port n.1).replay.length - (d.port n.1).resend]? = some g →
      exec (.linkWordSend n) ⟨p, d⟩ = .next ⟨p, ((d.setPort n.1 { d.port n.1 with
        sent := some (g.flits, (d.port n.1).wordOf g), ackDue := false, nakDue := false
        resend := (d.port n.1).resend - 1 }).count (tapKey n.1 0x810) 1).count (tapKey n.1 0x800) g.busy⟩)
    ∧ (d.portUp n.1 = true → (d.port n.1).resend = 0 → (d.port n.1).replay.length < 128 →
      let f := (d.port n.1).fillGroup
      let r := f.2.returnCredits
      let g : SentGroup :=
        { seq := (d.port n.1).txSeq, flits := f.1 ++ d.idleFlits (8 - f.1.length), credit := r.1, creditVc := r.2.1 }
      exec (.linkWordSend n) ⟨p, d⟩ = .next ⟨p, (d.drew.setPort n.1 { r.2.2 with
        sent := some (g.flits, r.2.2.wordOf g), ackDue := false, nakDue := false
        replay := r.2.2.replay ++ [g], txSeq := r.2.2.txSeq + 1 }).count (tapKey n.1 0x800) f.1.length⟩)
    ∧ (∀ g : Group, d.portUp n.1 = true → g.word.crc = groupCrc g.flits g.word → g.fecBad = false → g.fecCorrected = 0 →
      g.word.ackValid = false → g.word.seq = (d.port n.1).ack + 1 →
      exec (.groupReceive n g) ⟨p, d⟩ = .next ⟨p, g.flits.foldl (fun d f => d.takeFlit n.1 f)
        ((d.count (tapKey n.1 0x818) 0).setPort n.1 { d.port n.1 with
          ack := g.word.seq, ackDue := true, discarding := false, nakDue := false
          credits := (d.port n.1).credits.set g.word.creditVc.1
            ((d.port n.1).credits.get g.word.creditVc + 8 * g.word.credit) g.word.creditVc.2 })⟩)
    ∧ (∀ g : Group, d.portUp n.1 = true → g.word.crc ≠ groupCrc g.flits g.word ∨ g.fecBad = true →
      exec (.groupReceive n g) ⟨p, d⟩ = .next ⟨p, (((d.count (tapKey n.1 0x818) g.fecCorrected).count (tapKey n.1 0x820)
        1).modPort n.1 (fun q => { q with discarding := true, nakDue := true, ackDue := true })).detect
          { cls := 0, detector := 0x0B, unitKind := 5, unit := n.1, island := islOfPort n.1, ctx := 0xFFFF, status := 0
            address := 0, flags := 0, page := tapKey n.1 0 }⟩)
    ∧ (d.portUp n.1 = true → (d.port n.1).replay ≠ [] → (d.port n.1).resent < d.rnat (tapKey n.1 0x104) % 256 →
      exec (.retryTimeout n) ⟨p, d⟩ = .next ⟨p, d.setPort n.1 { d.port n.1 with
        resend := (d.port n.1).replay.length, resent := (d.port n.1).resent + 1 }⟩)
    ∧ (d.rnat (tapKey n.1 0x14) % 4 = 1 → d.rnat (tapKey n.1 0x10) % 2 = 1 →
      exec (.portTrained n) ⟨p, d⟩ = .next ⟨p, (d.modPort n.1 (fun q =>
        { q.dropLink with credits := Port.reset.credits })).setPortState n.1 2⟩)
    ∧ ∀ (v : Fin 4) m, (d.port n.1).unknown v = some m →
      d.routeOpen (islOfPort n.1) (islMgmt 0) = true → d.routeOpen (islMgmt 0) (islOfPort n.1) = true →
      let r := (d.carry (islOfPort n.1) (islMgmt 0)).partnerRead m.hdr.src.toNat false false
      let d1 := r.2.carry (islMgmt 0) (islOfPort n.1)
      r.1 = true → d1.admitted m.hdr.src.toNat = true →
      ((d1.port n.1).rx.get v).any (fun m => m.admitted.isNone) = false →
      exec (.partnerLookup n v ⟨false, false⟩) ⟨p, d⟩ = .next ⟨p, d1.modPort n.1 (fun q =>
        { q with part := q.part.set v.1 (some { m with admitted := some true }) v.2 })⟩

/-- A write crosses to the home island of its window, and there one that the window takes is performed and answered, one
that it does not take is refused with its status, one of a window that a gyle or a test holds waits in order and is
performed when it may go; an acknowledgement ends its message and, with the last one, its send (R296, R297, R299, R301,
R304). -/
def Obligations.WritesComplete : Prop :=
  ∀ (p : List Instr) (d : Dev) (n : PortId) (m : RxMsg),
    (d.headMsg n.1 1 (fun m => m.hdr.type == 1) = some m →
      d.routeOpen (islOfPort n.1) (islOfPort (d.homePort n.1 m.hdr)) = true →
      let taken := (d.popMsg n.1 1).carry (islOfPort n.1) (islOfPort (d.homePort n.1 m.hdr))
      (d.writeStatus m.hdr ≠ 0 → exec (.write n) ⟨p, d⟩ = .next ⟨p, (taken.refuseWrite (d.homePort n.1 m.hdr) m.hdr
        (d.writeStatus m.hdr)).collPoll⟩)
      ∧ (d.writeStatus m.hdr = 0 → d.heldForGyle (d.window (wrWindow m.hdr)) = false →
        d.heldForTest (d.window (wrWindow m.hdr)) = false →
        (d.port (d.homePort n.1 m.hdr)).hold.any (fun o => o.hdr.type == 1 && wrWindow o.hdr == wrWindow m.hdr) = false →
        exec (.write n) ⟨p, d⟩ = .next ⟨p, (taken.doWrite (d.homePort n.1 m.hdr) m).collPoll⟩)
      ∧ (d.writeStatus m.hdr = 0 → d.heldForGyle (d.window (wrWindow m.hdr)) = true →
        (d.port (d.homePort n.1 m.hdr)).hold.length < 64 →
        exec (.write n) ⟨p, d⟩ = .next ⟨p, (taken.modPort (d.homePort n.1 m.hdr) (fun q =>
          { q with hold := q.hold ++ [m] })).collPoll⟩))
    ∧ ((d.port n.1).hold.find? d.mayGo = some m → m.hdr.type = 1 →
      exec (.heldWriteRelease n) ⟨p, d⟩ = .next ⟨p, ((d.modPort n.1 (fun q =>
        { q with hold := dropFirst (· == m) q.hold })).doWrite n.1 m).collPoll⟩)
    ∧ (∀ i id, d.headMsg n.1 0 (fun m => m.hdr.type == 2) = some m → (d.popMsg n.1 0).staleAnswer m.hdr = false →
      (d.popMsg n.1 0).answered m.hdr = some i → i.sendId = some id →
      exec (.wack n) ⟨p, d⟩ = .next ⟨p, ((((d.popMsg n.1 0).dropMsg m.hdr.dstCtx.toNat i.tag).noteEvent
        (islOfPort n.1)).sendCheck m.hdr.dstCtx.toNat id).collPoll⟩)
    ∧ ∀ i id, d.headMsg n.1 0 (fun m => m.hdr.type == 3) = some m →
      let d1 := (d.popMsg n.1 0).count (tapKey n.1 0x830) 1
      d1.staleAnswer m.hdr = false → d1.answered m.hdr = some i → i.sendId = some id →
      (BitVec.ofNat 16 (bodyField m.hdr 0x24 2) = Code.windowBusy → exec (.nack n) ⟨p, d⟩ = .next ⟨p, d1.modCtx m.hdr.dstCtx.toNat
        (fun c => { c with msgs := c.msgs.map (fun k => if k.tag = i.tag then { k with busy := true } else k) })⟩)
      ∧ (BitVec.ofNat 16 (bodyField m.hdr 0x24 2) = Code.windowKey → exec (.nack n) ⟨p, d⟩ = .next ⟨p,
        d1.sendFail m.hdr.dstCtx.toNat id Code.windowKey⟩)

/-- A unit of a trigger semaphore fires its sends in list order and is consumed; a message answered WINDOW_BUSY goes out
again; one not answered in time fails its send (R303, R304, R305). -/
def Obligations.SendsComplete : Prop :=
  ∀ (p : List Instr) (d : Dev),
    (∀ (core : CoreId) (k : SlotIx) (sem : Fin 8), Serving d (islOfCore core.1) → (d.slot core.1 k).valid = true →
      (d.ctx (d.slot core.1 k).ctx).inWork = true → (d.slot core.1 k).sem sem.1 ≠ 0 →
      let x := (d.slot core.1 k).ctx
      let es := (List.range ((d.ctx x).field 0xEA 2)).map (d.sendEntry x)
      let mine := es.filter (fun e => rn e.2 0 2 == (d.slot core.1 k).task && bitsOf (rn e.2 2 1) 2 0 == sem.1)
      (∀ e ∈ es, e.1 = 0) → mine ≠ [] →
      exec (.sendFire core k sem) ⟨p, d⟩ = .next ⟨p, mine.foldl (fun d e => d.fireSend x e.2)
        (d.semTake x (d.slot core.1 k).task sem.1 1)⟩)
    ∧ (∀ (x : CtxId) (tag : W32) m, (d.ctx x.1).msgs.find? (fun m => m.tag == tag && m.busy) = some m →
      exec (.sendResend x tag) ⟨p, d⟩ = .next ⟨p, (d.modCtx x.1 (fun c => { c with
        msgs := c.msgs.map (fun k => if k.tag = tag then { k with busy := false } else k) })).sendMsg m.port m.hdr m.data⟩)
    ∧ ∀ (x : CtxId) (tag : W32) m id, (d.ctx x.1).resil.reading = none →
      (d.ctx x.1).msgs.find? (fun m => m.tag == tag) = some m → m.sendId = some id →
      exec (.writeTimeout x tag) ⟨p, d⟩ = .next ⟨p, d.sendFail x.1 id Code.remoteTimeout⟩

/-- A window opens under a free number and completes with its number and generation, and closes in two phases, the
second of which frees it under the next generation; writes to a scratchpad window of an owner that has left RUNNING go
to the spill area, and come back when it runs (R294, R295, R298, R300, Table 10.7). -/
def Obligations.WindowsComplete : Prop :=
  ∀ (p : List Instr) (d : Dev),
    (∀ (h : CmdHdr) (b : WinBody), LiveGood d h → b.reservedZero = true → b.owner = h.ctx → b.target = 0 → b.port ≤ 11 →
      bitsOf b.notify.toNat 14 12 = 0 → (d.ctx h.ctx).field 0xF8 2 > d.windowsOf h.ctx → d.windowBad h.ctx b = false →
      let free := (List.range 4096).filter (fun n => (d.window n).state == .free)
      let n := free.getD (Config.freeNat d.free % free.length) 0
      free ≠ [] →
      exec (.winOpen h b) ⟨p, d⟩ = .next ⟨p, ((d.drew.setWindow n { d.window n with
        state := .open, body := b, redirected := false, closeCmd := none }).complete h 0
          (BitVec.ofNat 32 (n + 2 ^ 16 * (d.window n).gen.toNat))).schedule⟩)
    ∧ (∀ (h : CmdHdr) (n : W16), LiveGood d h → n.toNat < 4096 → (d.window n.toNat).state = .open →
      (d.window n.toNat).body.owner = h.ctx →
      exec (.winClose h n) ⟨p, d⟩ = .next ⟨p, (d.setWindow n.toNat { d.window n.toNat with
        state := .closing, closeCmd := some h }).schedule⟩)
    ∧ ∀ n : Fin 4096,
      ((d.window n.1).state = .closing →
        exec (.windowCloseDrained n) ⟨p, d⟩ = .next ⟨p, (d.setWindow n.1 { d.window n.1 with
          state := .free, gen := (d.window n.1).gen + 1, redirected := false, closeCmd := none }).completeOpt
            (d.window n.1).closeCmd 0 (BitVec.ofNat 32 (n.1 + 2 ^ 16 * ((d.window n.1).gen + 1).toNat))⟩)
      ∧ ((d.window n.1).state ≠ .free → winSpills (d.window n.1).body = true → (d.window n.1).redirected = false →
        (d.ctx (d.window n.1).body.owner).state ≠ .running →
        exec (.spillRedirect n) ⟨p, d⟩ = .next ⟨p, (d.noteEvent (islOfPort (d.window n.1).body.port)).setWindow n.1
          { d.window n.1 with redirected := true }⟩)
      ∧ ((d.window n.1).state ≠ .free → (d.window n.1).redirected = true →
        (d.ctx (d.window n.1).body.owner).state = .running →
        let b := (d.window n.1).body
        let marks := leNat (d.ctxRead b.owner (b.spill.toNat + b.size) (ceilDiv b.size 512)).2
        let d1 := (List.range (b.size / 64)).foldl (fun d g =>
          if bitAt marks g then d.grantPut b.owner (winTask b) (winOffset b + 64 * g)
            (d.ctxRead b.owner (b.spill.toNat + 64 * g) 64).2 else d) d
        let d2 := (d1.ctxWrite b.owner (b.spill.toNat + b.size) (List.replicate (ceilDiv b.size 512) 0)).2
        exec (.copyIn n) ⟨p, d⟩ = .next ⟨p, (d2.noteEvent (islOfPort b.port)).setWindow n.1
          { d.window n.1 with redirected := false }⟩)

/-- A unit of a start semaphore starts its consumer's next record where the task and the channel are free; data lands in
its step unless the scratchpad is under test; a clear-to-send is recorded, before the own start if need be; the deadline,
counted in cycles of the home port's island, fails the collective; LAYOUT_SET takes effect at the next gyle start (R306 to R312, R316). -/
def Obligations.CollectivesComplete : Prop :=
  ∀ (p : List Instr) (d : Dev),
    (∀ (core : CoreId) (k : SlotIx) (sem : Fin 8) b, Serving d (islOfCore core.1) → (d.slot core.1 k).valid = true →
      (d.ctx (d.slot core.1 k).ctx).inWork = true → (d.slot core.1 k).sem sem.1 ≠ 0 →
      let x := (d.slot core.1 k).ctx
      let task := (d.slot core.1 k).task
      let all := (List.range ((d.ctx x).field 0xE8 2)).map (d.collRec x)
      let key := task * 8 + sem.1
      all.any (·.isNone) = false →
      ((all.filterMap id).filter (fun b => crTask b == task && crStart b == sem.1))[tget (d.ctx x).collNext key 0]? = some b →
      (∀ e ∈ d.chans, e.2.run = none) → (d.chan (rn b 0 1)).run = none →
      exec (.collectiveStart core k sem) ⟨p, d⟩ = .next ⟨p, (((d.modCtx x (fun c =>
        { c with collNext := tset c.collNext key (tget c.collNext key 0 + 1) })).semTake x task sem.1 1).startColl x
          (all.filterMap id) b)⟩)
    ∧ (∀ (n : PortId) m, d.headMsg n.1 2 (fun m => m.hdr.type == 4) = some m →
      (d.collHeld m.hdr = false → exec (.collData n) ⟨p, d⟩ = .next ⟨p, (d.popMsg n.1 2).landColl n.1 m⟩)
      ∧ (d.collHeld m.hdr = true → (d.port n.1).hold.length < 64 → exec (.collData n) ⟨p, d⟩
        = .next ⟨p, (d.popMsg n.1 2).modPort n.1 (fun q => { q with hold := q.hold ++ [m] })⟩))
    ∧ (∀ (n : PortId) m, d.headMsg n.1 0 (fun m => m.hdr.type == 5) = some m →
      let d1 := d.popMsg n.1 0
      let c := bodyField m.hdr 0x24 1
      d1.collStale m.hdr = 0 → (d1.chan c).owner = some m.hdr.dstCtx.toNat → (d1.chan c).run = none →
      (d1.chan c).collSeq ≤ bodyField m.hdr 0x28 2 →
      exec (.collCts n) ⟨p, d⟩ = .next ⟨p, d1.setChan c { d1.chan c with early := (d1.chan c).early
        ++ [(bodyField m.hdr 0x28 2, bodyField m.hdr 0x25 1, bodyField m.hdr 0x26 1, m.hdr.src.toNat, m.hdr.srcCtx.toNat)] }⟩)
    ∧ (∀ (c : Fin 64) r, (d.chan c.1).run = some r → r.failed = false →
      r.startCycle + 1600 * (if (d.ctx r.ctx).field 0xDC 4 = 0 then 1000000 else (d.ctx r.ctx).field 0xDC 4)
        ≤ (d.island (islOfPort r.port)).cycle →
      exec (.collDeadline c) ⟨p, d⟩ = .next ⟨p, (d.collFail c.1 Code.collDeadline (srcIsland (islOfPort r.port))).count
        (fabricKey 0x828) 1⟩)
    ∧ ∀ (h : CmdHdr) (epoch : W16), LiveGood d h → (d.ctx h.ctx).gyle.st = .idle ∨ (d.ctx h.ctx).gyle.st = .held →
      exec (.layoutSet h epoch 0) ⟨p, d⟩ = .next ⟨p, ((d.modGyle h.ctx (fun g =>
        { g with nextEpoch := some epoch })).complete h 0 0).schedule⟩

/-! ## Tests, errors and repair -/

/-- A core's test falls due, starts on an empty core with the test area saved, and ends with its results recorded, its
requests answered and the area restored; a test of another unit answers at once; digest passes and operating hours are
counted; a test pack loads with the status of its checks (R325, R333, R337 to R340, Table 11.10).

An overlay entry that is well formed and not refused joins the overlay, takes effect and, where it retires a core,
retires it; one of the overlay is removed, and its effect with it (R341, R342, Table 11.9). -/
def Obligations.TestsAndOverlayComplete : Prop :=
  (∀ (p : List Instr) (d : Dev),
    (∀ core : CoreId,
      (d.retired Unit.core core.1 = false → (d.core core.1).test = .idle →
        exec (.coreTestDue core false) ⟨p, d⟩ = .next ⟨p, d.modCore core.1 (fun k => { k with test := .due })⟩)
      ∧ (d.retired Unit.core core.1 = false → (d.core core.1).test = .due →
        exec (.coreTestDue core false) ⟨p, d⟩ = .next ⟨p, d.modCore core.1 (fun k => { k with test := .overdue })⟩)
      ∧ ((d.core core.1).test = .due → d.ctxsOn core.1 = [] →
        exec (.coreTestStart core) ⟨p, d⟩ = .next ⟨p, (d.noteEvent (islMgmt (core.1 / 128))).modCore core.1 (fun k => { k with
          test := .running, testArea := k.spad.filter (fun e => e.1 < testAreaBytes) })⟩)
      ∧ ((d.core core.1).test = .overdue → d.ctxsOn core.1 ≠ [] →
        exec (.coreTestStart core) ⟨p, d⟩ = .next ⟨p, (d.ctxsOn core.1).foldl Dev.preemptCtx d⟩)
      ∧ ∀ r, Serving d (islOfCore core.1) → (d.core core.1).test = .running →
        let k := d.core core.1
        exec (.coreTestComplete core r) ⟨p, d⟩ = .next ⟨p, ((((k.testCmds.foldl (fun d h => d.complete h
          (if r.fails = [] ∧ r.misses = [] then 0 else Code.testFailed) 0) (d.testResults core.1 r)).modCore core.1 (fun c => { c with
            test := .idle, retestPending := false, testCmds := [], testArea := []
            spad := accJoin c.testArea (c.spad.filter (fun e => decide (testAreaBytes ≤ e.1))) })).noteEvent
              (islMgmt (core.1 / 128))).schedule)⟩)
    ∧ (∀ (isl : Isl) (flips : List (Nat × Byte)), There d isl →
      let d1 := d.count (islKey (islId isl) 0x828) 1
      let c := d1.islandConfig (islId isl)
      let held := upsetConfig flips 0 c
      (configDigest held = configDigest c →
        exec (.digestPass isl flips) ⟨p, d⟩ = .next ⟨p, (d1.ctxsIn (islId isl)).foldl (fun d x => d.modGyle x (fun g =>
          { g with digestSeen := islId isl :: g.digestSeen })) d1⟩)
      ∧ (configDigest held ≠ configDigest c →
        exec (.digestPass isl flips) ⟨p, d⟩ = .next ⟨p, (d1.passSeen (islId isl) false).digestFail (islId isl)
          (((c.zip held).filter (fun p => p.1.2 != p.2.2)).map (fun p => p.1.1))⟩))
    ∧ exec .operatingHour ⟨p, d⟩ = .next ⟨p, (d.ras.hist.foldl (fun d e => d.recover e.1 e.2)
      (({ d with ras := { d.ras with hours := (d.ras.hours / 10 + 1) * 10 } } : Dev).noteEvent (islMgmt 0))).histWrite⟩
    ∧ ∀ h : CmdHdr, AdminGood d h true →
      (∀ (kind : Byte) (unit : W32) (c : Nat), unitThere kind.toNat unit.toNat = true → d.retired kind.toNat unit.toNat = false →
        coreOfUnit kind.toNat unit.toNat = some c → d.retired Unit.core c = false →
        exec (.testRequest h kind unit) ⟨p, d⟩ = .next ⟨p, (d.modCore c (fun k => { k with
          testCmds := k.testCmds ++ [h], test := if k.test = .idle then .due else k.test })).schedule⟩)
      ∧ (∀ (kind : Byte) (unit : W32), unitThere kind.toNat unit.toNat = true → d.retired kind.toNat unit.toNat = false →
        coreOfUnit kind.toNat unit.toNat = none →
        exec (.testRequest h kind unit) ⟨p, d⟩ = .next ⟨p, ((d.unitTest kind.toNat unit.toNat).2.complete h
          (if (d.unitTest kind.toNat unit.toNat).1 then 0 else Code.testFailed) 0).schedule⟩)
      ∧ ∀ pack stepping good, (d.loadPack pack stepping good).1 = 0 →
        exec (.testpackLoad h pack stepping good) ⟨p, d⟩ = .next ⟨p, ((d.loadPack pack stepping good).2.complete h 0 0).schedule⟩)
  ∧ ∀ (p : List Instr) (d : Dev) (h : CmdHdr) (e : W128), AdminGood d h true → entryFormed e = true →
    (ovOrigin e = 0 → d.entryRefused e = false → ovType e ≠ 3 →
      exec (.calOverlayAdd h e) ⟨p, d⟩ = .next ⟨p, (((d.addEntry e).overlayChanged e).complete h 0 0).schedule⟩)
    ∧ (ovOrigin e = 0 → d.entryRefused e = false → ovType e = 3 →
      ((d.addEntry e).overlayChanged e).retired Unit.core (ovTarget e) = false →
      exec (.calOverlayAdd h e) ⟨p, d⟩ = .next ⟨p, ((((d.addEntry e).overlayChanged e).setService Unit.core (ovTarget e)
        .retired).complete h 0 0).schedule⟩)
    ∧ (ovOrigin e = 0 → e ∈ d.ras.overlay →
      exec (.calOverlayRemove h e) ⟨p, d⟩ = .next ⟨p, (((({ d with ras := { d.ras with
        overlay := d.ras.overlay.filter (fun o => o != e) } } : Dev).calWrite).overlayChanged e).complete h 0 0).schedule⟩)

/-! ## Resilience -/

/-- The resilience commands where their checks pass: a block is charged and taken, at once where no gyle runs; a cask slot
granted under a number that no slot has (the model's choice: the least one, assumption 133) and with a free key, and
released again; the next cask gyle set, a sealed image written to the host, a restore from staging, cask or host range or
a racking begun (R350, R351, R352, R355, R356, R361, R364, R369, Table 12.3). -/
def Obligations.ResilienceCommandsComplete : Prop :=
  ∀ (p : List Instr) (d : Dev) (h : CmdHdr),
    (∀ b : ResilBytes, LiveGood d h → blockBad b = false → d.stagingBad h.ctx b = false →
      let new := d.caskCharge h.ctx b
      let freed := (d.ctx h.ctx).subCharges [0, 0, 0, (d.ctx h.ctx).resil.charge]
      let d1 := (d.setCtx h.ctx (freed.addCharges [0, 0, 0, new])).modResil h.ctx (fun r => { r with charge := new })
      freed.canCharge [0, 0, 0, new] = true →
      ((d.ctx h.ctx).gyleRuns = true → exec (.resilSet h b) ⟨p, d⟩ = .next ⟨p, ((d1.modResil h.ctx (fun r =>
        { r with nextBlock := some b })).complete h 0 0).schedule⟩)
      ∧ ((d.ctx h.ctx).gyleRuns = false → exec (.resilSet h b) ⟨p, d⟩ = .next ⟨p, (((d1.modResil h.ctx (fun r =>
        { r with block := b, nextBlock := none })).firstCask h.ctx).complete h 0 0).schedule⟩))
    ∧ (∀ (owner : W32) (ctx : W16) (size : W64) fs d', AdminGood d h true → owner.toNat < 2 ^ 24 →
      reservedId owner.toNat = false → ctx.toNat < 1024 → size.toNat ≠ 0 → leastUnused d.casks 0 < 65536 →
      d.takeCask (2 * pagesOf size.toNat) = some (fs, d') →
      exec (.caskHost h owner ctx size) ⟨p, d⟩ = .next ⟨p, (Dev.completePay { d'.drew with
        casks := tset d'.casks (leastUnused d'.casks 0)
          { owner := owner.toNat, ctx := ctx.toNat, size := size.toNat, key := BitVec.ofNat 32 (Config.freeNat d'.free)
            versions := #v[CaskVersion.mk 0 false false, CaskVersion.mk 0 false false], frames := fs, flipped := false } } h 0 (BitVec.ofNat 32 (leastUnused d'.casks 0))
          (leBytes 4 (BitVec.ofNat 32 (Config.freeNat d'.free)).toNat)).schedule⟩)
    ∧ (∀ (slot : W16) k, AdminGood d h true → tget? d.casks slot.toNat = some k →
      exec (.caskRelease h slot) ⟨p, d⟩ = .next ⟨p, ((Dev.giveCask { d with
        casks := tdel d.casks slot.toNat } k.frames).complete h 0 0).schedule⟩)
    ∧ (∀ gyle : W64, LiveGood d h → gyle.toNat < 2 ^ 48 → (d.takeSchedule h.ctx gyle.toNat).1 = false →
      exec (.caskSchedule h gyle) ⟨p, d⟩ = .next ⟨p, ((d.takeSchedule h.ctx gyle.toNat).2.complete h 0 0).schedule⟩)
    ∧ (∀ (addr size : W64) bs, LiveGood d h → d.stagingBytes h.ctx = some bs → (ckptOf bs).sealed = true →
      (ckptOf bs).version = 1 → (d.ctx h.ctx).resil.capture ≠ .capturing → bs.length ≤ size.toNat →
      exec (.ckptExport h addr size) ⟨p, d⟩ = .next ⟨p, (((d.hostWrite addr.toNat bs).count (resilKey 0x820) 1).completePay h 0 0
        (leBytes 8 (ckptOf bs).gyle ++ leBytes 8 bs.length)).schedule⟩)
    ∧ (∀ (source version : Byte) (expected addr : W64) hostFail, LiveGood d h → source.toNat ≤ 2 → version.toNat ≤ 1 →
      (d.ctx h.ctx).resil.waiting = none → (d.ctx h.ctx).resil.racking = none →
      exec (.restore h source version 0 ⟨expected, addr, hostFail⟩) ⟨p, d⟩ = .next ⟨p, (((d.modResil h.ctx (fun r => { r with
        waiting := some { hdr := h, source := source.toNat, version := version.toNat, expected := expected
                          addr := addr.toNat, hostFail := hostFail } })).stopGyle h.ctx 12).resumeRestore h.ctx).schedule⟩)
    ∧ ∀ (b : RackBody) ownFail sendFail, LiveGood d h → b.reservedZero = true → b.ownSource ≤ 2 → b.entries ≤ 65535 → b.gyle < 2 ^ 48 →
      b.shardChange = false → (d.ctx h.ctx).resil.racking = none → (d.ctx h.ctx).resil.waiting = none →
      let d1 := (((d.modCtx h.ctx (fun c => c.setField 0xC0 2 b.epoch.toNat)).modGyle h.ctx (fun g =>
        { g with nextEpoch := none })).stopGyle h.ctx 9)
      (d1.ctx h.ctx).inGyle = true →
      exec (.rackBegin h b ownFail sendFail) ⟨p, d⟩ = .next ⟨p, ((d1.modResil h.ctx (fun r => { r with
        rack := .racking, racking := some { cmd := h, body := b, ownFail := ownFail, sendFail := sendFail, plan := []
                                            restored := false, seeds := [], proof := (0, 0)
                                            received := [] } })).resumeRestore h.ctx).schedule⟩

/-- The cask and racking messages where they pass their checks: a drain sends the next piece of the sealed image; a WRITE
puts its bytes in the held version, a SEAL completes it as the newest, a READ is served; image bytes that arrive in order
are kept; the owner and the participants learn what they are told; racking data land in their object, and the racking
ends when all has come (R355 to R361, R369, Table 12.4). -/
def Obligations.CaskMessagesComplete : Prop :=
  ∀ (p : List Instr) (d : Dev) (n : PortId) (m : RxMsg) (k : CaskSlot),
    (∀ op, d.headCask n.1 op = some m → (d.popMsg n.1 3).caskStatus m.hdr = 0 →
      tget? (d.popMsg n.1 3).casks (ckSlot m.hdr) = some k →
      (op = 0 →
        let older := ckVersion m.hdr != 0
        let d1 := (d.popMsg n.1 3).caskPut k older (ckOffset m.hdr) (m.data.take (ckBytes m.hdr))
        exec (.caskWrite n) ⟨p, d⟩ = .next ⟨p, Dev.sendWack { d1 with
          casks := tset d1.casks (ckSlot m.hdr) (k.setVersion older { k.version older with sealed := false }) } n.1 m.hdr⟩)
      ∧ (op = 1 → ckVersion m.hdr = 0 →
        let d1 := (d.popMsg n.1 3).caskPut k false 0 (m.data.take 256)
        exec (.caskSeal n) ⟨p, d⟩ = .next ⟨p, Dev.sendWack { d1 with
          casks := tset d1.casks (ckSlot m.hdr) (k.setVersion false
            { gyle := leNat (((m.data.take 256).drop 0x10).take 6), sealed := true, lost := false }) } n.1 m.hdr⟩)
      ∧ (op = 2 → ckBytes m.hdr ≤ 0x400000 → (k.version (ckVersion m.hdr != 0)).sealed = true →
        (k.version (ckVersion m.hdr != 0)).lost = false →
        exec (.caskRead n .none) ⟨p, d⟩ = .next ⟨p, ((d.popMsg n.1 3).heldReads k (ckVersion m.hdr != 0) (ckOffset m.hdr)
          (ckBytes m.hdr)).sendRdata n.1 m.hdr
            ((d.popMsg n.1 3).heldBytes k (ckVersion m.hdr != 0) (ckOffset m.hdr) (ckBytes m.hdr))⟩))
    ∧ (∀ r, d.headCask n.1 3 = some m →
      let x := m.hdr.dstCtx.toNat
      let d1 := d.popMsg n.1 3
      (d1.ctx x).resil.reading = some r → (d1.ctx x).msgs.any (fun k => k.reads && k.tag == m.hdr.tag) = true →
      ckOffset m.hdr = r.got.length → (r.got ++ m.data.take (ckBytes m.hdr)).length < r.upTo →
      exec (.caskRdata n) ⟨p, d⟩ = .next ⟨p, d1.modResil x (fun q => { q with
        reading := some { r with got := r.got ++ m.data.take (ckBytes m.hdr) } })⟩)
    ∧ (d.headCask n.1 4 = some m →
      let x := m.hdr.dstCtx.toNat
      let d1 := (d.popMsg n.1 3).sendWack n.1 m.hdr
      x < 1024 → (d1.ctx x).holder = m.hdr.src.toNat → (d1.ctx x).rf 0x10 2 = ckSlot m.hdr →
      exec (.caskLost n) ⟨p, d⟩ = .next ⟨p, (d1.errFire (resilKey 0) 0 (x * 2 ^ 16)).ctxEvent x Code.caskLost
        (BitVec.ofNat 32 (ckVersion m.hdr)) []⟩)
    ∧ (d.headCask n.1 5 = some m →
      let x := m.hdr.dstCtx.toNat
      let d1 := (d.popMsg n.1 3).sendWack n.1 m.hdr
      x < 1024 → (d1.ctx x).state.gone = false → (d1.ctx x).coordinator = m.hdr.src.toNat →
      (d1.ctx x).coordCtx = m.hdr.srcCtx.toNat → (d1.takeSchedule x (ckOffset m.hdr % 2 ^ 48)).1 = false →
      exec (.caskSched n) ⟨p, d⟩ = .next ⟨p, (d1.takeSchedule x (ckOffset m.hdr % 2 ^ 48)).2⟩)
    ∧ (d.headCask n.1 6 = some m →
      let x := m.hdr.dstCtx.toNat
      let d1 := (d.popMsg n.1 3).sendWack n.1 m.hdr
      x < 1024 → d1.coordinates x = true →
      exec (.caskReport n) ⟨p, d⟩ = .next ⟨p, d1.recordReport x (m.hdr.src.toNat, m.hdr.srcCtx.toNat)
        (ckOffset m.hdr % 2 ^ 48) (ckBytes m.hdr) (ckVersion m.hdr == 0)⟩)
    ∧ ∀ i o r, d.headMsg n.1 3 (fun m => m.hdr.type == 9) = some m →
      let x := m.hdr.dstCtx.toNat
      let d1 := d.popMsg n.1 3
      let c := bodyField m.hdr 0x30 4
      (d1.ctx x).resil.racking = some r → r.restored = true → bodyField m.hdr 0x24 1 = 0 → m.hdr.layoutEpoch = r.body.epoch →
      r.expectOf m.hdr = some i → (d1.objOf x (bodyField m.hdr 0x26 2)).map (·.2) = some o →
      exec (.rackData n) ⟨p, d⟩ = .next ⟨p, (((d1.putCurrent x o (bodyField m.hdr 0x28 8) r.body.gyle (m.data.take c)).modResil x
        (fun q => { q with racking := some { r with
          received := (i, bodyField m.hdr 0x28 8, c) :: r.received } })).count
          (resilKey 0x850) c).sendWack n.1 m.hdr⟩

/-- The cask events of a context: a drain sends the next 64 KiB of the sealed image and then its SEAL; a drain or a
racking that is not answered in time fails; a racking whose every range has come and whose every send is answered ends
with its context at the racked gyle (R355, R369, R371). -/
def Obligations.CaskEventsComplete : Prop :=
  ∀ (p : List Instr) (d : Dev) (x : CtxId),
    (∀ off bs, (d.ctx x.1).resil.drainAt = some off → d.stagingBytes x.1 = some bs →
      (off < bs.length → exec (.caskDrain x) ⟨p, d⟩ = .next ⟨p, ((d.modResil x.1 (fun r =>
        { r with drainAt := some (off + min 65536 (bs.length - off)), capture := .draining })).sendCask x.1 0 1 off
          (min 65536 (bs.length - off)) ((bs.drop off).take (min 65536 (bs.length - off)))).count (resilKey 0x808)
            (min 65536 (bs.length - off))⟩)
      ∧ (off = bs.length → exec (.caskDrain x) ⟨p, d⟩ = .next ⟨p, (d.modResil x.1 (fun r =>
        { r with drainAt := some (bs.length + 1), capture := .draining })).sendCask x.1 1 1 0 256 (bs.take 256)⟩))
    ∧ ((d.ctx x.1).msgs.any InFlight.drains = true →
      exec (.caskDrainTimeout x) ⟨p, d⟩ = .next ⟨p, d.drainFails x.1 Code.remoteTimeout⟩)
    ∧ ∀ k, (d.ctx x.1).resil.racking = some k →
      (k.restored = true → (∀ e ∈ k.plan.zipIdx, e.1.kind = 4 → k.got e.2 e.1 = true) →
        (d.ctx x.1).msgs.any (·.rack) = false →
        exec (.rackComplete x) ⟨p, d⟩ = .next ⟨p, (((((d.atGyle x.1 k.body.gyle k.seeds k.proof).modResil x.1 (fun r =>
          { r with rack := .done, racking := none })).count (resilKey 0x840) 1).complete k.cmd 0 0).noteEvent (islMgmt 0)).schedule⟩)
      ∧ exec (.rackTimeout x) ⟨p, d⟩ = .next ⟨p, ((d.modCtx x.1 (fun c =>
          { c with msgs := c.msgs.filter (fun m => !m.rack && !m.reads) })).ctxEvent x.1 Code.rackTimeout
            (BitVec.ofNat 32 k.body.epoch.toNat) []).rackFailed x.1 k Code.rackTimeout⟩

/-! ## Islands -/

/-- A value that crosses makes the receiver's sequence max(S, c) + 1, where c is the sender's, and leaves the sender's
alone; both ends' channel rotation moves on by one, the transfer's toggles invert, its stamp names the cause, and the
two crossing counts rise by one (R379, R380, R386, R388). -/
def Obligations.CrossingTransferCarriesTheSequence : Prop :=
  ∀ (p : List Instr) (d : Dev) (src dst : Isl), There d src → (dst.nn.1 = 34 → dst.d.1 = 0) →
    d.crossOpen (islId src) (islId dst) = true →
    ∃ t, exec (.crossingTransfer src ⟨dst, false⟩) ⟨p, d⟩ = .next t ∧ t.pending = p
      ∧ t.dev.seqOf (islId dst) = max (d.seqOf (islId dst)) (d.seqOf (islId src)) + 1
      ∧ t.dev.seqOf (islId src) = d.seqOf (islId src)
      ∧ (t.dev.cross (islId src) (islId dst)).sendNext
          = ((d.cross (islId src) (islId dst)).sendNext + 1) % crossChannels (islId src) (islId dst)
      ∧ (t.dev.cross (islId src) (islId dst)).recvNext
          = ((d.cross (islId src) (islId dst)).recvNext + 1) % crossChannels (islId src) (islId dst)
      ∧ t.dev.rget64 (islKey (islId src) 0x800) = min (d.rget64 (islKey (islId src) 0x800) + 1) (2 ^ 64 - 1)
      ∧ t.dev.rget64 (islKey (islId dst) 0x808) = min (d.rget64 (islKey (islId dst) 0x808) + 1) (2 ^ 64 - 1)
      ∧ t.dev.stamps = { island := islId dst, causeIsland := islId src, causePartner := 0, cycle := d.cycleOf (islId dst)
                         sequence := max (d.seqOf (islId dst)) (d.seqOf (islId src)) + 1
                         causeSequence := d.seqOf (islId src) } :: d.stamps
      ∧ t.dev = { d with islands := t.dev.islands, crossings := t.dev.crossings, blk := t.dev.blk, stamps := t.dev.stamps }

/-- A control event goes out where its channel is free, waits where it is not and merges into one that waits; a reset
notice flushes both directions of a crossing with its cell links, and outside start-up it, like a crossing timeout, is a
lost crossing; a bad group of a die-to-die link is recorded and crosses once it is retried; an island takes a frequency of its range; a droop stretches a running island's clock until it ends (R381, R382, R385, R387,
R389, Table 13.7). -/
def Obligations.CrossingsAndClocksComplete : Prop :=
  ∀ (p : List Instr) (d : Dev) (a : Isl), There d a →
    (∀ b : Isl, (b.nn.1 = 34 → b.d.1 = 0) →
      let src := islId a
      let dst := islId b
      (d.crossOpen src dst = true → (d.cross src dst).awaits = false →
        exec (.crossingEvent a b) ⟨p, d⟩ = .next ⟨p, d.sendPulse src dst⟩)
      ∧ (d.crossOpen src dst = true → (d.cross src dst).awaits = true → (d.cross src dst).pending = false →
        exec (.crossingEvent a b) ⟨p, d⟩ = .next ⟨p, d.setCross src dst { d.cross src dst with pending := true }⟩)
      ∧ (d.crossOpen src dst = true → (d.cross src dst).awaits = true → (d.cross src dst).pending = true →
        exec (.crossingEvent a b) ⟨p, d⟩ = .next ⟨p, d.count (islKey src 0x810) 1⟩)
      ∧ (crossChannels src dst ≠ 0 → d.sec.devState = .booting →
        exec (.resetNotice a b) ⟨p, d⟩ = .next ⟨p, (((d.receive dst (d.seqOf src)).flushLinks src dst).setCross src dst
          Cross.flushed).setCross dst src Cross.flushed⟩)
      ∧ (crossChannels src dst ≠ 0 → d.sec.devState = .ready →
        exec (.resetNotice a b) ⟨p, d⟩ = .next ⟨p, ((((d.receive dst (d.seqOf src)).flushLinks src dst).setCross src dst
          Cross.flushed).setCross dst src Cross.flushed).lostCrossing dst src⟩)
      ∧ (d.crossOpen src dst = true → src / 256 ≠ dst / 256 →
        exec (.crossingTransfer a ⟨b, true⟩) ⟨p, d⟩ = .next ⟨p, (d.linkRetry src dst).hop src dst⟩)
      ∧ (crossChannels src dst ≠ 0 →
        exec (.crossingTimeout a b) ⟨p, d⟩ = .next ⟨p, d.lostCrossing src dst⟩))
    ∧ (∀ mhz, d.freqGood (islId a) mhz = true →
      exec (.frequencyChange a mhz) ⟨p, d⟩ = .next ⟨p, d.setIsland (islId a) { d.island (islId a) with freq := mhz }⟩)
    ∧ ((d.island (islId a)).run = .run → (d.island (islId a)).stretching = false →
      exec (.droopStart a) ⟨p, d⟩ = .next ⟨p, (d.setIsland (islId a) { d.island (islId a) with stretching := true }).count
        (islKey (islId a) 0x818) 1⟩)
    ∧ ∀ n, (d.island (islId a)).stretching = true →
      exec (.droopEnd a n) ⟨p, d⟩ = .next ⟨p, (d.setIsland (islId a) { d.island (islId a) with stretching := false }).count
        (islKey (islId a) 0x820) n⟩

/-! ## Register pages -/

/-- A write of 4 bytes changes its word and one of 8 its two words, the lower first; ERR_STATUS loses the bits written as
1, in the mirror and, over the management islands, at the block; STAGE_GEN opens a generation; WIN_DATA[3] stages the
selected cell entry; a select asks for contents and the answer reaches the mirror (R395, R397, R442, R445, R450, Table
6.10). -/
def Obligations.RegisterWritesComplete : Prop :=
  ∀ (p : List Instr) (d : Dev), d.hostUp = true →
    (∀ fn offset key (v : W64), windowKey fn offset = some key →
      (offset % 4 = 0 → exec (.registerWrite fn offset 4 v) ⟨p, d⟩ = .next ⟨p, d.writeWord fn key (v.setWidth 32)⟩)
      ∧ (offset % 8 = 0 → exec (.registerWrite fn offset 8 v) ⟨p, d⟩ = .next ⟨p, (d.writeWord fn key (v.setWidth 32)).writeWord fn
          (key + 4) ((v >>> 32).setWidth 32)⟩))
    ∧ (∀ base r pg (v : W32), base % 0x1000 = 0 → regRow (base + 0x18) = some r → pageOfKey base = some pg →
      let m := v &&& BitVec.ofNat 32 r.w1c
      let d1 := d.setMirror (base + 0x18) (d.mirrored (base + 0x18) &&& ~~~m)
      (d.blockUp pg.island = true →
        exec (.errStatusClear (base + 0x18) v) ⟨p, d⟩ = .next ⟨p, (d1.toBlock pg.island).errClear base m.toNat⟩)
      ∧ (d.blockUp pg.island = false → exec (.errStatusClear (base + 0x18) v) ⟨p, d⟩ = .next ⟨p, d1⟩))
    ∧ (∀ base pg (v : W32), base % 0x1000 = 0 → pageOfKey base = some pg → pg.kind ≠ .vfCtl → d.blockUp pg.island = true →
      exec (.stageGenWrite (base + 0x30) v) ⟨p, d⟩ = .next ⟨p, (d.toBlock pg.island).openGen base (v.toNat % 65536)⟩)
    ∧ ∀ core : CoreId, d.blockUp (islOfCore core.1) = true →
      let w := d.toBlock (islOfCore core.1)
      (∀ v : W32, w.stageOpen (coreKey core.1 12 0) = false → bitAt (d.rnat (coreKey core.1 12 0 + 0x40)) 31 = false →
        exec (.winDataWrite core v) ⟨p, d⟩ = .next ⟨p, w.count (applyKey 0x818) 1⟩)
      ∧ (∀ v : W32, w.stageOpen (coreKey core.1 12 0) = true → w.pageState (coreKey core.1 12 0) = 1 →
        bitAt (d.rnat (coreKey core.1 12 0 + 0x40)) 31 = false →
        let base := coreKey core.1 12 0
        let sel := d.rnat (base + 0x40)
        let e : StagedEntry :=
          { page := base, table := bitsOf sel 5 4, cell := if bitsOf sel 5 4 = 2 then 0 else sel % 16, index := bitsOf sel 11 6
            value := v ++ w.rget (base + 0x4C) ++ w.rget (base + 0x48) ++ w.rget (base + 0x44) }
        let d1 := (w.rset (base + 0x50) v).setMirror (base + 0x50) v
        let d2 : Dev := { d1 with apply := { d1.apply with staged := d1.apply.staged.filter (fun o =>
          !(o.page == e.page && o.table == e.table && o.cell == e.cell && o.index == e.index)) ++ [e] } }
        d2.pageState base = 1 →
        exec (.winDataWrite core v) ⟨p, d⟩ = .next ⟨p, d2⟩)
      ∧ (∀ v : W32, exec (.probeSelect core true v) ⟨p, d⟩ = .next ⟨p, ((d.setMirror (coreKey core.1 14 0x110)
          (v &&& 0x00FFFFF3)).toBlock (islOfCore core.1)).rset (coreKey core.1 14 0x110) (v &&& 0x00FFFFF3)⟩)
      ∧ (∀ v : W32, exec (.probeSelect core false v) ⟨p, d⟩ = .next ⟨p, ((d.setMirror (coreKey core.1 12 0x100)
          (v &&& 0x00000FFF)).toBlock (islOfCore core.1)).rset (coreKey core.1 12 0x100) (v &&& 0x00000FFF)⟩)
      ∧ (d.updates (islOfCore core.1) = true → exec (.probeAnswer core false) ⟨p, d⟩ = .next ⟨p, Dev.toMirror ([0, 1, 2, 3].foldl (fun (d' : Dev) i =>
          (d'.rset (coreKey core.1 12 0x104 + 4 * i)
            ((d.cellProbe core.1 (d.rnat (coreKey core.1 12 0x100)) >>> (32 * i)).setWidth 32)).setMirror
              (coreKey core.1 12 0x104 + 4 * i)
                ((d.cellProbe core.1 (d.rnat (coreKey core.1 12 0x100)) >>> (32 * i)).setWidth 32)) d) (islOfCore core.1)⟩)

/-- The mirror follows its blocks while both islands run and the path is open: an update carries the words that change
together and refreshes an entry that has lost its parity, a snapshot every counter of a page; a read of a counter's low
word latches its high word; the memory window reads and writes the context that BASE selects as an access of a hub (R81,
R392, R396, R398, R445, R446; the hub is the model's choice, assumption 124). -/
def Obligations.MirrorCompletes : Prop :=
  ∀ (p : List Instr) (d : Dev),
    (∀ offset pg, pageOfKey offset = some pg → offset % 0x1000 < 0x800 → d.updates pg.island = true →
      exec (.mirrorUpdate ⟨offset, false⟩) ⟨p, d⟩ = .next ⟨p, ((updateOf offset).foldl Dev.mirrorWord d).toMirror pg.island⟩
      ∧ exec (.mirrorUpdate ⟨offset, true⟩) ⟨p, d⟩ = .next ⟨p, (((updateOf offset).foldl Dev.mirrorWord d).toMirror
        pg.island).errFire (hostifKey 0) 4 4⟩)
    ∧ (∀ page pg, page % 0x1000 = 0 → pageOfKey page = some pg → d.updates pg.island = true →
      exec (.counterSnapshot page) ⟨p, d⟩ = .next ⟨p, (((pg.kind.regs.filter (fun r => decide (0x800 ≤ r.off))).map
        (fun r => page + r.off)).foldl (fun d k => d.setMirror k (d.live k)) d).toMirror pg.island⟩)
    ∧ (d.hostUp = true →
      (∀ key, windowKey 0 key = some key → 0x800 ≤ key % 0x1000 → key % 8 = 0 → (regRow key).isSome = true →
        let d1 := d.count (hostifKey 0x800) 1
        exec (.counterLowRead key) ⟨p, d⟩ = .next ⟨p, { d1 with latch := tset d1.latch (key + 4) (d1.mirrored (key + 4)) }⟩)
      ∧ (∀ offset len u, d.memwinGood offset len false = true →
        d.hostMemOpen (d.memwinAt offset).1 (d.memwinAt offset).2 len = true →
        let r := d.hostTrip.hubReadMeets hostHub (d.memwinAt offset).1 (d.memwinAt offset).2 len u
        r.1 = 0 → exec (.memwinRead offset ⟨len, u⟩) ⟨p, d⟩ = .next ⟨p, { r.2.2 with host := { r.2.2.host with
          memwinData := r.2.1 } }⟩)
      ∧ (∀ offset len u, d.memwinGood offset len false = false →
        exec (.memwinRead offset ⟨len, u⟩) ⟨p, d⟩ = .next ⟨p, { (d.count (hostifKey 0x828) 1) with
          host := { (d.count (hostifKey 0x828) 1).host with memwinData := List.replicate len 0xFF } }⟩)
      ∧ (∀ offset data, d.memwinGood offset data.length true = true →
        d.hostMemOpen (d.memwinAt offset).1 (d.memwinAt offset).2 data.length = true →
        exec (.memwinWrite offset data) ⟨p, d⟩ = .next ⟨p, d.hostTrip.hostPut (d.memwinAt offset).1 data
          (piecesOf (d.memwinAt offset).2 data.length)⟩))

/-! ## The host interface -/

/-- Doorbells move the tail of a submission queue and the heads of completion and event queues; a fetch of a command that
passes its checks moves the head and starts the command; an entry that waits is written into the next free slot under
the phase of the pass; a coalescing timeout raises the queue's vector (R399 to R403). -/
def Obligations.HostQueuesComplete : Prop :=
  ∀ (p : List Instr) (d : Dev), d.hostUp = true →
    (∀ fn ctx index q x, d.doorbellQueue fn ctx (adminSq fn) ctxSq = some (q, x) → index < (d.queue q).entries →
      ringSteps (d.queue q).entries (d.queue q).tail index
        ≤ ringSteps (d.queue q).entries (d.queue q).tail ((d.queue q).head + (d.queue q).entries - 1) →
      exec (.sqTail fn ctx index) ⟨p, d⟩ = .next ⟨p, (d.setQueue q { d.queue q with tail := index }).count (hostifKey 0x818) 1⟩)
    ∧ (∀ fn ctx index q x, d.doorbellQueue fn ctx (adminCq fn) ctxCq = some (q, x) → index < (d.queue q).entries →
      exec (.cqHead fn ctx index) ⟨p, d⟩ = .next ⟨p, (d.setQueue q { d.queue q with head := index }).count (hostifKey 0x818) 1⟩)
    ∧ (∀ fn index, fn ≤ 64 → index < (d.queue (eventQ fn)).entries →
      exec (.eqHead fn index) ⟨p, d⟩ = .next ⟨p, (d.setQueue (eventQ fn) { d.queue (eventQ fn) with head := index }).count
        (hostifKey 0x818) 1⟩)
    ∧ (∀ fn entry, fn ≤ 64 → (d.queue (adminSq fn)).inT1 = false → (d.queue (adminSq fn)).entries ≠ 0 →
      (d.queue (adminSq fn)).head ≠ (d.queue (adminSq fn)).tail → entry.length = 64 →
      bitAt (leNat ((entry.drop 1).take 1)) 0 = false → d.fetchStatus (d.queueFn (adminSq fn)) none entry = 0 →
      let head := ((d.queue (adminSq fn)).head + 1) % (d.queue (adminSq fn)).entries
      let d1 := d.setQueue (adminSq fn) { d.queue (adminSq fn) with head := head }
      exec (.commandFetch fn none entry) ⟨p, d⟩ = .next ⟨p, { d1 with host := { d1.host with
        started := d1.host.started ++ [{ queue := adminSq fn, id := BitVec.ofNat 32 (leNat ((entry.drop 4).take 4))
                                         opcode := BitVec.ofNat 8 (leNat ((entry.drop 0).take 1)), sqHead := head }] } }⟩)
    ∧ (∀ q e rest, (d.queue q).entries ≠ 0 → ((d.queue q).tail + 1) % (d.queue q).entries ≠ (d.queue q).head →
      (d.queue q).inT1 = false → (d.queue q).waiting = e :: rest → isEventQ q = false →
      (d.queue q).since + 1 < (d.queue q).coalCount →
      let next := ((d.queue q).tail + 1) % (d.queue q).entries
      let d1 := (d.setQueue q { d.queue q with waiting := rest }).hostWrite ((d.queue q).base + (d.queue q).tail * 64)
        (e.bytes (d.queue q).phase false)
      exec (.completionPost q) ⟨p, d⟩ = .next ⟨p, d1.setQueue q { d.queue q with
        waiting := rest, tail := next, phase := if next = 0 then !(d.queue q).phase else (d.queue q).phase
        since := (d.queue q).since + 1 }⟩)
    ∧ ∀ q, (d.queue q).since ≠ 0 → exec (.coalesceTimeout q) ⟨p, d⟩ = .next ⟨p, d.interrupt q⟩

/-- A queue is created as the command says and deleted again; a host range is registered under a fresh number and
unregistered where nothing uses it (R398, R399, R405, R406, Table 14.4).

A copy whose ranges pass begins; each piece moves up to 16 MiB, any of the first eight that are left, and the last one
completes the command; a PCI Express timeout is counted and fails the copy that it served (R407, R408; the hub that a
piece crosses is the model's choice, assumption 124). -/
def Obligations.QueueRangeAndCopyCommandsComplete : Prop :=
  (∀ (p : List Instr) (d : Dev) (h : CmdHdr), AdminGood d h false →
    (∀ (ctx : W16) (kind loc : Byte) (base : W64) (entries : W32) (vector : W16) (count : Byte) (us : W16),
      d.queueCtxGood h.fn ctx.toNat kind.toNat = true → kind.toNat ≤ 2 → loc = 0 → base.toNat % 0x1000 = 0 →
      16 ≤ entries.toNat → entries.toNat ≤ 65536 → 2 ^ Nat.log2 entries.toNat = entries.toNat →
      vector.toNat < (if h.fn = 0 then 2048 else 32) → us.toNat ≤ 1000 →
      exec (.queueCreate h ctx kind loc base entries vector count us) ⟨p, d⟩ = .next ⟨p,
        ((d.setQueue (queueNumber h.fn ctx.toNat kind.toNat) { Queue.none_ with
          base := base.toNat, entries := entries.toNat, inT1 := false, vector := vector.toNat, coalCount := count.toNat
          coalUs := us.toNat, waiting := (d.queue (queueNumber h.fn ctx.toNat kind.toNat)).waiting }).complete h 0 0).schedule⟩)
    ∧ (∀ (ctx : W16) (kind : Byte), kind.toNat ≤ 2 → d.queueCtxGood h.fn ctx.toNat kind.toNat = true →
      (d.queue (queueNumber h.fn ctx.toNat kind.toNat)).head = (d.queue (queueNumber h.fn ctx.toNat kind.toNat)).tail →
      (∀ r ∈ d.host.started, r.queue ≠ queueNumber h.fn ctx.toNat kind.toNat) →
      exec (.queueDelete h ctx kind) ⟨p, d⟩ = .next ⟨p, ((d.setQueue (queueNumber h.fn ctx.toNat kind.toNat) { Queue.none_ with
        waiting := (d.queue (queueNumber h.fn ctx.toNat kind.toNat)).waiting }).complete h 0 0).schedule⟩)
    ∧ (∀ addr size : W64, addr.toNat % 0x200000 = 0 → size.toNat % 0x200000 = 0 → size.toNat ≠ 0 →
      addr.toNat + size.toNat ≤ 2 ^ 64 →
      (∀ e ∈ d.host.ranges, e.2.fn = h.fn → meets (addr.toNat, size.toNat) (e.2.base, e.2.size) = false) →
      exec (.hostRegister h addr size) ⟨p, d⟩ = .next ⟨p, (({ d with host := { d.host with
        ranges := tset d.host.ranges d.host.nextRange { fn := h.fn, base := addr.toNat, size := size.toNat }
        nextRange := d.host.nextRange + 1 } } : Dev).complete h 0 (BitVec.ofNat 32 d.host.nextRange)).schedule⟩)
    ∧ ∀ (range : W32) r, d.rangeOf h.fn range.toNat = some r → d.rangeBusy range.toNat r = false →
      exec (.hostUnregister h range) ⟨p, d⟩ = .next ⟨p, (({ d with host := { d.host with
        ranges := tdel d.host.ranges range.toNat } } : Dev).complete h 0 0).schedule⟩)
  ∧ ∀ (p : List Instr) (d : Dev),
    (∀ (h : CmdHdr) (src dst bytes : W64) (flags : Byte), LiveGood d h → flags.toNat < 4 → bytes.toNat % 4 = 0 →
      4 ≤ bytes.toNat → bytes.toNat ≤ 2 ^ 40 → src.toNat % 4 = 0 → dst.toNat % 4 = 0 →
      (bitAt flags.toNat 0 = false → d.inRange h.fn src.toNat bytes.toNat = true) →
      (bitAt flags.toNat 1 = false → d.inRange h.fn dst.toNat bytes.toNat = true) →
      exec (.copy h src dst bytes flags) ⟨p, d⟩ = .next ⟨p, ({ d with host := { d.host with
        copies := tset d.host.copies d.host.nextCopy
          { hdr := h, src := src.toNat, dst := dst.toNat, bytes := bytes.toNat, srcCtx := bitAt flags.toNat 0
            dstCtx := bitAt flags.toNat 1
            left := (List.range ((bytes.toNat + 0xFFFFFF) / 0x1000000)).map (· * 0x1000000) }
        nextCopy := d.host.nextCopy + 1 } }).schedule⟩)
    ∧ (∀ n c data u, tget? d.host.copies n = some c → c.srcCtx = false → c.dstCtx = true →
      let i := Config.freeNat d.free % min 8 c.left.length
      let off := c.left.getD i 0
      let len := min 0x1000000 (c.bytes - off)
      data.length = len → d.hostMemOpen c.hdr.ctx (c.dst + off) len = true →
      (d.ctx c.hdr.ctx).rangeStatus (c.dst + off) len true = 0 →
      let d1 := (d.drew.hostTrip.hostPut c.hdr.ctx data (piecesOf (c.dst + off) len)).count (hostifKey 0x830) len
      (c.left.eraseIdx i = [] → exec (.copyPiece n ⟨data, false⟩ u) ⟨p, d⟩ = .next ⟨p, d1.endCopy n c 0⟩)
      ∧ (c.left.eraseIdx i ≠ [] → exec (.copyPiece n ⟨data, false⟩ u) ⟨p, d⟩ = .next ⟨p, { d1 with host := { d1.host with
          copies := tset d1.host.copies n { c with left := c.left.eraseIdx i } } }⟩))
    ∧ exec (.pcieCompletionTimeout none) ⟨p, d⟩ = .next ⟨p, (d.count (hostifKey 0x838) 1).hostErr 2 0⟩
    ∧ ∀ n c, tget? ((d.count (hostifKey 0x838) 1).hostErr 2 0).host.copies n = some c → c.srcCtx = false →
      exec (.pcieCompletionTimeout (some n)) ⟨p, d⟩
        = .next ⟨p, ((d.count (hostifKey 0x838) 1).hostErr 2 0).endCopy n c Code.copyFault⟩

/-- Functions and the sideband: resets, D3hot, the trained link and VF Enable change the functions that they name; a
sideband message is answered, a sensor read with the sensor's value; a power cap written over PLDM acts as one written by
the host; SPDM keeps its order and answers measurements with the blocks asked for, and IDE_KM its keys under a session; JTAG shifts out, and the bus gives an address once (R391, R393, R409, R410, R411,
R413, R428 to R430, R436). -/
def Obligations.FunctionsAndSidebandComplete : Prop :=
  ∀ (p : List Instr) (d : Dev),
    (∀ fn, 0 < fn → fn ≤ 64 → exec (.functionLevelReset fn) ⟨p, d⟩ = .next ⟨p, d.resetFn fn⟩)
    ∧ (∀ fn, fn ≤ 64 → d.host.d3hot.contains fn = false →
      (∀ e ∈ d.ctxs, e.2.fn = fn → e.2.state ≠ .running ∧ e.2.state ≠ .resident ∧ e.2.state ≠ .blocked) →
      exec (.d3hotRequest fn) ⟨p, d⟩ = .next ⟨p, { d with host := { d.host with d3hot := fn :: d.host.d3hot } }⟩)
    ∧ (∀ rate width, d.hostUp = true → 5 ≤ rate → rate ≤ 7 → width = 8 ∨ width = 16 →
      exec (.pcieLinkTrained rate width) ⟨p, d⟩ = .next ⟨p, { d with host := { d.host with rate := rate, width := width } }⟩)
    ∧ (∀ n, d.host.vfs ≤ n → n ≤ 64 →
      exec (.vfEnableWrite true n) ⟨p, d⟩ = .next ⟨p, { d with host := { d.host with vfEnable := true, vfs := n } }⟩)
    ∧ (d.sideband = true →
      (∀ eid, exec (.mctpMessage (.setEndpointId eid)) ⟨p, d⟩
        = .next ⟨p, ({ d with host := { d.host with eid := eid } } : Dev).reply⟩)
      ∧ (∀ s n, exec (.mctpMessage (.pldmSensorRead s n)) ⟨p, d⟩
        = .next ⟨p, (d.count (hostifKey 0x840) n).sensorAnswer s⟩)
      ∧ (∀ ix, d.host.spdmVersion = true → ix ≤ 6 ∨ ix = 0xFF →
        exec (.spdmRequest false (.getMeasurements ix)) ⟨p, d⟩
          = .next ⟨p, d.replyWith (Config.measurementReply d.free 6 (d.measurementRecord ix))⟩)
      ∧ (∀ w, d.sidebandWrites = true → 1200 ≤ w → w ≤ 3000 →
        exec (.pldmPowerCapWrite w) ⟨p, d⟩ = .next ⟨p, Dev.reply { d.rsetNat (powerKey 0 0x100) w with
          mirror := tset d.mirror (powerKey 0 0x100) (BitVec.ofNat 32 w) }⟩)
      ∧ (exec (.spdmRequest false .getVersion) ⟨p, d⟩ = .next ⟨p, ({ d with host := { d.host with
          spdmVersion := true, spdmKex := false } } : Dev).reply⟩)
      ∧ (d.host.spdmKex = true → exec (.spdmRequest false .finish) ⟨p, d⟩ = .next ⟨p, ((({ d with host := { d.host with
          spdmVersion := true, spdmKex := false, spdmSession := true } } : Dev).count (secKey 0x828) 1)).reply⟩)
      ∧ (∀ b a, d.host.smbus = false → d.host.i3cAddr = none →
        exec (.dynamicAddressAssignment b a) ⟨p, d⟩ = .next ⟨p, { d with host := { d.host with i3cAddr := some a } }⟩))
    ∧ (∀ stream ks rx key, d.hostUp = true → d.host.spdmSession = true →
      exec (.ideKmRequest (.keyProg stream ks rx key) true) ⟨p, d⟩ = .next ⟨p, ({ d with host := { d.host with
        ideKeys := (stream.1, ks.1, rx, key) :: d.host.ideKeys.filter (fun k =>
          !(k.1 == stream.1 && k.2.1 == ks.1 && k.2.2.1 == rx)) } } : Dev).reply⟩)
    ∧ (d.pins.pwrOk = true →
      exec (.jtagInstruction .idcode) ⟨p, d⟩ = .next ⟨p, { d with sec := { d.sec with tdo := leBytes 4 idcode } }⟩)

/-! ## Start-up -/

/-- The pins: PWR_OK and SYS_RST_N high together begin start-up at step 1, with SB_MODE sampled as SYS_RST_N rises; PERST#
resets the host island and takes it out of reset (R391, R420, R425). -/
def Obligations.PinsComplete : Prop :=
  ∀ (p : List Instr) (d : Dev),
    (∀ sb, d.pins.rstHigh = false → d.pins.pwrOk = true → d.sec.bootStep = 0 →
      exec (.sysRstNDeassert sb) ⟨p, d⟩ = .next ⟨p, { d with
        pins := { d.pins with rstHigh := true }, host := { d.host with smbus := sb }, sec := { d.sec with bootStep := 1 } }⟩)
    ∧ (d.pins.pwrOk = false → d.pins.rstHigh = true → d.sec.bootStep = 0 →
      exec .pwrOkAssert ⟨p, d⟩ = .next ⟨p, { d with pins := { d.pins with pwrOk := true }, sec := { d.sec with bootStep := 1 } }⟩)
    ∧ (d.host.perst = false → 1 < d.sec.bootStep → ∃ t, exec .perstAssert ⟨p, d⟩ = .next t ∧ t.pending = p
      ∧ t.dev.host.perst = true ∧ t.dev.island islHost = IslSt.reset ∧ t.dev.mirror = [] ∧ t.dev.latch = []
      ∧ t.dev.host.ranges = [] ∧ t.dev.host.copies = [] ∧ t.dev.host.started = [] ∧ t.dev.fuses = d.fuses
      ∧ t.dev.flash = d.flash ∧ t.dev.pins = { d.pins with ibi := t.dev.pins.ibi })
    ∧ (d.host.perst = true → 1 < d.sec.bootStep → (d.island islHost).run ≠ .run →
      exec .perstDeassert ⟨p, d⟩ = .next ⟨p, (({ d with host := { d.host with perst := false } } : Dev).bringUp
        [islHost]).mirrorAll⟩)

/-- The steps of Table 15.6, each where its turn has come and nothing fails: fuses are read and the first islands run,
firmware is verified, the supervisors start, die links, stacks and ports train, the maps are staged, the cores are tested,
and the device is READY (R420 to R424, Table 15.6). -/
def Obligations.StartUpStepsComplete : Prop :=
  ∀ (p : List Instr) (d : Dev),
    (∀ nonce, d.atStep 1 = true →
      let d1 := (d.bringUp [islMgmt 0, islHost]).setDieState 0 1
      exec (.fuseCheck false nonce) ⟨p, d⟩ = .next ⟨p, ({ d1 with sec := { d1.sec with
        lifecycle := fusedState d1.fuses.lifecycle, nonce := nonce } } : Dev).nextStep⟩)
    ∧ (∀ a b stuck, d.atStep 2 = true → d.dirNow.bankB = false → d.bankStatus 0 = 0 →
      d.flash.packs.toList.getD d.dirNow.testSlot none = none →
      let d0 : Dev := { d with flash := { d.flash with stuck := stuck } }
      let d1 := (d0.readHistory a b).readOverlay
      let d2 : Dev := { d1 with sec := { d1.sec with packBad := false, bankB := false } }
      exec (.firmwareVerify (a, b) stuck) ⟨p, d⟩
        = .next ⟨p, ((d2.rset (devctlKey 0x10C) d2.fwVersion).rset (dieKey 0 0x10C)
            (d2.rset (devctlKey 0x10C) d2.fwVersion).fwVersion).nextStep⟩)
    ∧ (d.atStep 3 = true → exec (.supervisorStart none) ⟨p, d⟩ = .next ⟨p, ([1, 2, 3].foldl (fun (d : Dev) n =>
        ((d.bringUp [islMgmt n]).setDieState n 1).rset (dieKey n 0x10C) d.fwVersion)
          d).nextStep⟩)
    ∧ (d.atStep 4 = true → exec (.dieLinkTraining none) ⟨p, d⟩
      = .next ⟨p, (d.bringUp (allIslands.filter (fun i => islKind i == 5))).nextStep⟩)
    ∧ (∀ ports, d.atStep 5 = true →
      let up := d.bringUp (allIslands.filter (fun i => islKind i == 3 || islKind i == 4))
      let d1 : Dev := { up with sec := { up.sec with stuckIsland := none } }
      exec (.hbmTraining [] [] ⟨ports, none⟩) ⟨p, d⟩ = .next ⟨p, ((List.range 12).foldl (fun (d : Dev) n =>
        d.trainPort (ports.any (fun q => q.1 == n)) n) ((List.range 16).foldl (fun (d : Dev) n =>
          d.trainStack false 0 n) d1)).nextStep⟩)
    ∧ (d.atStep 6 = true → d.sec.stuckIsland = none →
      let d1 := [0, 1, 2, 3].foldl Dev.setFreq (d.bringUp (allIslands.filter (fun i => decide (islKind i ≤ 2))))
      let d2 := d1.overlayCores.foldl Dev.retireCore d1
      exec .repairApply ⟨p, d⟩ = .next ⟨p, ([0, 1, 2, 3].foldl (fun d n =>
        d.mergeCores n ((List.range 128).map (· + 128 * n))) d2).nextStep⟩)
    ∧ (d.atStep 7 = true → d.apply.run = none → d.apply.queue = [] →
      exec (.selfTest []) ⟨p, d⟩ = .next ⟨p, ((List.range 512).foldl (fun (d : Dev) core =>
        if d.retired Unit.core core then d
        else d.drew.drew.testResults core { fails := [], misses := [], cycles := Config.freeNat d.free
                                            injections := Config.freeNat (d.free + 1) }) d).nextStep⟩)
    ∧ (d.atStep 8 = true →
      let d1 := [0, 1, 2, 3].foldl (fun (d : Dev) n => d.setDieState n 2) d.identify
      exec .identityDerive ⟨p, d⟩ = .next ⟨p, ({ d1 with sec := { d1.sec with
        devState := .ready, bootStep := 9, bootMs := d1.cycleOf (islMgmt 0) / 500000 } } : Dev).trayCheck.mirrorAll⟩)

/-! ## Lifecycle, firmware and admission -/

/-- A good token acts and is counted, any other is refused; an entry into DEBUG is complete once the contexts are gone and
the freed frames zeroed; the firmware operations write and verify the inactive bank, activate it, and commit the rollback
counter of the running one; a revocation and an enrolment blow their fuses (R417, R418, R434, R435, R437, R438, R440). -/
def Obligations.LifecycleAndFirmwareComplete : Prop :=
  ∀ (p : List Instr) (d : Dev),
    (∀ token body, d.hostUp = true → d.sec.devState = .ready →
      (d.tokenGood token body = true →
        exec (.tokenPresent .tokenCtl token body) ⟨p, d⟩ = .next ⟨p, d.tokenActs token body.perms.toNat⟩)
      ∧ (d.tokenGood token body = false →
        exec (.tokenPresent .tokenCtl token body) ⟨p, d⟩ = .next ⟨p, (d.count (secKey 0x820) 1).errFire (secKey 0) 3
          Code.tokenRefused.toNat⟩))
    ∧ (d.sec.entering = some 3 → d.liveCtxs = [] → (∀ q ∈ d.pool.toList, q.toZero = []) →
      exec .debugEntry ⟨p, d⟩ = .next ⟨p, ({ d with sec := { d.sec with lifecycle := 3, entering := none } } : Dev).identify⟩)
    ∧ ∀ h : CmdHdr, FwGood d h →
      (∀ (offset : W32) data, offset.toNat % 0x1000 = 0 → data.length % 0x1000 = 0 → offset.toNat + data.length ≤ 0x1000000 →
        exec (.fwUpdateWrite h offset data) ⟨p, d⟩ = .next ⟨p, ((d.bankWrite offset.toNat data).complete h 0 0).schedule⟩)
      ∧ (∀ image, (d.bankVerify image).1 = 0 → exec (.fwUpdateVerify h image) ⟨p, d⟩ = .next ⟨p,
          ((d.bankVerify image).2.complete h 0 (BitVec.ofNat 32 ((d.flash.banks.get d.idleBank).getD image).rollback)).schedule⟩)
      ∧ (d.sec.verified = true → exec (.fwUpdateActivate h) ⟨p, d⟩ = .next ⟨p, (d.bankActivate.complete h 0 0).schedule⟩)
      ∧ (d.dirNow.bankB = d.sec.bankB → d.sec.fallback = false →
        exec (.fwUpdateCommit h) ⟨p, d⟩ = .next ⟨p, ((d.raiseRollback 0 (((d.runningImage).map (·.rollback)).getD 0)).complete
          h 0 0).schedule⟩)
      ∧ (∀ (blob : Signed), blob.slot = 1 → d.checkSigned blob 3 false = 0 →
        exec (.revokeSlot h blob d.fuses.serial 0) ⟨p, d⟩ = .next ⟨p, ((({ d with fuses := { d.fuses with
          vendorRevoked := d.fuses.vendorRevoked.set 0 true } } : Dev).raiseRollback 3 blob.rollback).complete h 0 0).schedule⟩)
      ∧ (∀ (blob : Signed), blob.slot = 0 → d.checkSigned blob 3 false = 0 →
        exec (.revokeSlot h blob d.fuses.serial 1) ⟨p, d⟩ = .next ⟨p, ((({ d with fuses := { d.fuses with
          vendorRevoked := d.fuses.vendorRevoked.set 1 true } } : Dev).raiseRollback 3 blob.rollback).complete h 0 0).schedule⟩)
      ∧ ∀ blob root, d.sec.lifecycle = 2 → d.fuses.ownerValid = false → d.checkSigned blob 3 false = 0 →
        exec (.ownerEnrol h blob d.fuses.serial root) ⟨p, d⟩ = .next ⟨p, ((({ d with fuses := { d.fuses with
          ownerRoot := root, ownerValid := true } } : Dev).raiseRollback 3 blob.rollback).complete h 0 0).schedule⟩

/-- The admission exchange where each side does its part: a request sends an OFFER, an OFFER is answered with an ANSWER
and a PROOF, an ANSWER with a PROOF, a good PROOF with DONE, and a DONE of 0 goes towards admission; a timeout or a
failing DONE ends it, and a revocation removes a partner (R431, R432, R433). -/
def Obligations.AdmissionsComplete : Prop :=
  ∀ (p : List Instr) (d : Dev),
    (∀ (q : BitVec 24) (port : Nat) (encrypt : Bool) (nonce : BitVec 256), d.hostUp = true → d.blockUp (islMgmt 0) = true →
      d.mayAdmit = true → reservedId q.toNat = false → port < 12 → d.admission q.toNat = none →
      let d1 := d.toBlock (islMgmt 0)
      let o := d1.ownData nonce Config.kemKey
      exec (.admitReq q port encrypt nonce) ⟨p, d⟩ = .next ⟨p, (d1.drew.setAdmission q.toNat
        { port := port, initiator := true, encrypt := encrypt, own := some o.2, peer := none, peerEncrypt := false, priv := o.1
          proofGood := false, doneSeen := false, answered := false }).sendAdmit port q.toNat 0 (b2n encrypt)
            (AdmitData_bytes o.2)⟩)
    ∧ (∀ (n : PortId) (o : AdmitData) (nonce : BitVec 256) m, d.headAdmit n.1 0 (AdmitData_bytes o) = some m →
      let d1 := d.popMsg n.1 0
      let q := m.hdr.src.toNat
      d1.mayAdmit = true → d1.admission q = none → bitAt (d1.rnat (secKey 0x144)) 0 = true →
      d1.peerGood o m.encrypts = true →
      let own := d1.ownData nonce (fun priv => Config.kemCipher priv o.kem)
      let a : Admission :=
        { port := n.1, initiator := false, encrypt := false, own := some own.2, peer := some o, peerEncrypt := m.encrypts, priv := own.1
          proofGood := false, doneSeen := false, answered := true }
      exec (.offer n o nonce) ⟨p, d⟩ = .next ⟨p, ((d1.drew.setAdmission q a).sendAdmit n.1 q 1 0 (AdmitData_bytes own.2)).sendProof
        q a⟩)
    ∧ (∀ (n : PortId) (o : AdmitData) m a, d.headAdmit n.1 1 (AdmitData_bytes o) = some m →
      let d1 := d.popMsg n.1 0
      let q := m.hdr.src.toNat
      d1.admission q = some a → a.initiator = true → a.peer = none → a.port = n.1 → d1.mayAdmit = true → d1.peerGood o m.encrypts = true →
      let b := { a with peer := some o, peerEncrypt := m.encrypts, answered := true }
      exec (.answer n o) ⟨p, d⟩ = .next ⟨p, (d1.setAdmission q b).sendProof q b⟩)
    ∧ (∀ (n : PortId) sig o m a, d.headAdmit n.1 2 sig = some m →
      let d1 := d.popMsg n.1 0
      let q := m.hdr.src.toNat
      d1.admission q = some a → a.peer = some o → a.port = n.1 → a.proofGood = false → d1.mayAdmit = true →
      (Config.hybridVerify (Config.aliasKeys o.aliasRecord) sig (ascii "ILAVO/ADMIT") (d1.transcript q a) = true →
        exec (.proof n sig) ⟨p, d⟩ = .next ⟨p, (d1.sendAdmit n.1 q 3 0 (leBytes 2 0)).admitGo q { a with proofGood := true }⟩)
      ∧ (Config.hybridVerify (Config.aliasKeys o.aliasRecord) sig (ascii "ILAVO/ADMIT") (d1.transcript q a) = false →
        exec (.proof n sig) ⟨p, d⟩ = .next ⟨p, d1.admitRefuse n.1 q⟩))
    ∧ (∀ (n : PortId) (st : W16) m a, d.headAdmit n.1 3 (leBytes 2 st.toNat) = some m →
      let d1 := d.popMsg n.1 0
      let q := m.hdr.src.toNat
      d1.admission q = some a → a.port = n.1 → d1.mayAdmit = true →
      (st = 0 → a.peer.isSome = true →
        exec (.done n st) ⟨p, d⟩ = .next ⟨p, d1.admitGo q { a with doneSeen := true }⟩)
      ∧ (st ≠ 0 → exec (.done n st) ⟨p, d⟩ = .next ⟨p, d1.admitFails q Code.admitFailed⟩))
    ∧ (∀ q : BitVec 24, (d.admission q.toNat).isSome = true →
      exec (.admitTimeout q) ⟨p, d⟩ = .next ⟨p, d.admitFails q.toNat Code.admitTimeout⟩)
    ∧ ∀ q : BitVec 24, d.hostUp = true → d.blockUp (islMgmt 0) = true →
      exec (.revoke q) ⟨p, d⟩ = .next ⟨p, ((d.toBlock (islMgmt 0)).noteEvent (islMgmt 0)).revokePartner q.toNat⟩

/-! ## Staged apply -/

/-- A staged apply from request to end: a request is queued; the next one that passes its checks runs; an island that is
prepared holds its streams, is READY at its safe point, swaps its staged fields, and reports DONE; the last READY commits
and the last DONE completes; a timeout, or a drain that fails, reverts it and the islands prepared are told; a host
generation that was never requested is discarded; each of these messages crosses between the management island of die 0
and the island (R380, R449 to R458, Table 16.14).

An island that was prepared for a reverted apply and receives the ABORT gives up its holds (R457). -/
def Obligations.AppliesComplete : Prop :=
  (∀ (p : List Instr) (d : Dev),
    (d.hostUp = true → d.blockUp (islMgmt 0) = true →
      let w := d.toBlock (islMgmt 0)
      (∀ gen : W16, exec (.applyRequest gen) ⟨p, d⟩ = .next ⟨p, w.requestApply gen.toNat .host⟩)
      ∧ (∀ gen : W16, gen.toNat ≠ 0 → gen.toNat < 0x8000 → w.apply.run = none → (∀ q ∈ w.apply.queue, q.1 ≠ gen.toNat) →
        exec (.applyDiscard gen) ⟨p, d⟩ = .next ⟨p, ((w.pagesUnder gen.toNat).foldl Dev.clearPage w).closeGen gen.toNat⟩))
    ∧ (∀ gen who rest, d.apply.run = none → d.apply.queue = (gen, who) :: rest →
      let d0 : Dev := { d with apply := { d.apply with queue := rest } }
      d0.applyCheck gen who = 0 →
      let d1 := (d0.pagesUnder gen).foldl (fun d p => (d.setPageState p 2).stageEvent p) d0
      let r : ApplyRun :=
        { gen := gen, who := who, phase := .prepare, islands := pageIslands (d0.pagesUnder gen), prepared := [], failing := []
          ready := [], swapped := [], done := [], pages := d0.pagesUnder gen, startCycle := d1.cycleOf (islMgmt 0) }
      exec .applyTake ⟨p, d⟩ = .next ⟨p, { d1 with apply := { d1.apply with run := some r } }⟩)
    ∧ ∀ (isl : Isl) r, There d isl → d.apply.run = some r →
      d.routeOpen (islMgmt 0) (islId isl) = true → d.routeOpen (islId isl) (islMgmt 0) = true →
      let i := islId isl
      let out := d.carry (islMgmt 0) i
      let back := d.carry i (islMgmt 0)
      (r.phase = .prepare → i ∈ r.islands → i ∉ r.prepared →
        exec (.applyPrepare isl) ⟨p, d⟩ = .next ⟨p, ((runCores r i 2).foldl (Dev.holdSlots · true) out).setRun
          { r with prepared := r.prepared ++ [i] }⟩)
      ∧ (r.phase = .prepare → i ∈ r.prepared → i ∉ r.ready → i ∉ r.failing → d.safePoint r i = true →
        let d1 := (runCores r i 12).foldl (fun d c => d.modCore c (fun k => { k with swapPending := true })) back
        exec (.applyReady isl) ⟨p, d⟩ = .next ⟨p, if r.islands.all (r.ready ++ [i]).contains
          then d1.applyCommit { r with ready := r.ready ++ [i] } else d1.setRun { r with ready := r.ready ++ [i] }⟩)
      ∧ (r.phase = .swap → i ∈ r.islands → i ∉ r.swapped →
        let pages := r.pages.filter (fun p => islandOfPage p == i)
        let d2 := (out.stagedWords pages).foldl Dev.putWord out
        let d3 := (runCores r i 2).foldl Dev.markStale ((d2.stagedCells pages).foldl Dev.putEntry d2)
        let d4 := (runCores r i 12).foldl (fun d c => d.modCore c (fun k => { k with swapPending := false })) d3
        exec (.applySwap isl) ⟨p, d⟩ = .next ⟨p, ((d4.endHold i).count (dieKey (i / 256) 0x800) 1).setRun
          { r with swapped := r.swapped ++ [i] }⟩)
      ∧ (i ∈ r.swapped → i ∉ r.done →
        exec (.applyDone isl) ⟨p, d⟩ = .next ⟨p, if r.islands.all (r.done ++ [i]).contains
          then back.applyComplete { r with done := r.done ++ [i] } else back.setRun { r with done := r.done ++ [i] }⟩)
      ∧ (r.phase = .prepare → i ∈ r.prepared → i ∉ r.ready → runCores r i 12 ≠ [] → d.safePoint r i = false →
        exec (.drainTimeout isl) ⟨p, d⟩ = .next ⟨p, d.setRun { r with failing := r.failing ++ [i] }⟩)
      ∧ (r.phase = .prepare → i ∈ r.failing →
        exec (.drainFail isl) ⟨p, d⟩ = .next ⟨p, (back.count (applyKey 0x810) 1).applyRevert r.gen Code.stageDrainTimeout
          (some i)⟩)
      ∧ (r.phase = .prepare →
        exec .applyTimeout ⟨p, d⟩ = .next ⟨p, d.applyRevert r.gen Code.applyTimeout
          (r.islands.find? (fun i => !(r.ready.contains i)))⟩))
  ∧ ∀ (p : List Instr) (d : Dev) (isl : Isl), There d isl → islId isl ∈ d.apply.aborting →
    d.routeOpen (islMgmt 0) (islId isl) = true →
    let d1 := d.carry (islMgmt 0) (islId isl)
    let d2 : Dev := { d1 with apply := { d1.apply with
      aborting := dropFirst (fun i => i == islId isl) d1.apply.aborting } }
    exec (.applyAbort isl) ⟨p, d⟩ = .next ⟨p, (((List.range 512).filter (fun c =>
      islOfCore c == islId isl && (d2.core c).swapPending)).foldl (fun d c =>
        d.modCore c (fun k => { k with swapPending := false })) d2).endHold (islId isl)⟩

/-! ## Power and temperature -/

/-- A tick's reading sets the package power, the stacks' duty and every die's limits; a regulator that fails sets vr_fault and
brings its die to 550 MHz, and a retry that fails too is a DEVICE error; a cap of 1,200 to 3,000 W that reaches the
controller takes effect and another is ignored; a sample under every limit throttles its die by the rule; a trip asserts THERMTRIP_N; a port is enabled or held down (R468, R474 to R479, Tables 17.6 and 17.7). -/
def Obligations.PowerCommandsComplete : Prop :=
  ∀ (p : List Instr) (d : Dev),
    (∀ r, exec (.powerTick r) ⟨p, d⟩ = .next ⟨p,
      let over_ := decide (d.rnat (powerKey 0 0x100) < r.package)
      r.dies.zipIdx.foldl (fun d e => if e.2 < 4 then d.powerDie over_ e.2 e.1 else d)
        ((d.rsetNat (powerKey 0 0x118) r.package).capDuty over_ ((List.range 4).all (fun i => (d.diePower i).freq == 550)))⟩)
    ∧ (∀ (n : DieId) (retryFailed : Bool),
      let d1 := (d.errFire (powerKey n.1 0) 1 (1 * 2 ^ 8)).count (powerKey n.1 0x820) 2
      let d2 := (d1.setDiePower n.1 { d1.diePower n.1 with capLimit := 550 }).setFreq n.1
      (d2.diePower n.1).freq = 550 ∧ (d2.rnat (powerKey n.1 0x18)).testBit 1 = true
      ∧ exec (.vrRegulationTimeout n retryFailed) ⟨p, d⟩ = .next ⟨p, if retryFailed then
          d2.drew.deviceError (openDetection d2 Unit.controller 0 (islMgmt n.1)) else d2⟩)
    ∧ (∀ w, d.blockUp (islMgmt 0) = true →
      let d1 := d.toBlock (islMgmt 0)
      (1200 ≤ w ∧ w ≤ 3000 → exec (.powerCapWrite w) ⟨p, d⟩ = .next ⟨p, { d1.rsetNat (powerKey 0 0x100) w with
          mirror := tset d1.mirror (powerKey 0 0x100) (BitVec.ofNat 32 w) }⟩)
        ∧ (w < 1200 ∨ 3000 < w → exec (.powerCapWrite w) ⟨p, d⟩ = .next ⟨p, d1⟩))
    ∧ (∀ (n : DieId) (t : DieTemps) ms1 ms10, t.badSensor = false → t.hottest < 115 → t.stackTemps = [] →
      exec (.thermalSample n t ms1 ms10) ⟨p, d⟩ = .next ⟨p, (d.setDiePower n.1 ((d.diePower n.1).throttle (d.throttleAt n.1)
        t.hottest d.binMax ms1 ms10)).setFreq n.1⟩)
    ∧ (∀ (n : DieId) sensor, ∃ t, exec (.thermtrip n sensor) ⟨p, d⟩ = .next t ∧ t.pending = p ∧ t.dev.pins.thermtrip = true
      ∧ t.dev.cores = d.cores ∧ t.dev.ctxs = d.ctxs ∧ t.dev.hbm = d.hbm ∧ t.dev.fuses = d.fuses
      ∧ ∀ die < 4, ∀ i ∈ computeIslands die, (t.dev.island i).clocksStopped = true)
    ∧ ∀ n : PortId, d.hostUp = true → d.blockUp (islOfPort n.1) = true →
      let w := d.toBlock (islOfPort n.1)
      let put : Nat → Dev := fun b =>
        let v := w.rnat (tapKey n.1 0x10) / 2 * 2 + b
        { w.rsetNat (tapKey n.1 0x10) v with
          mirror := tset (w.rsetNat (tapKey n.1 0x10) v).mirror (tapKey n.1 0x10) (BitVec.ofNat 32 v) }
      (w.hist 5 n.1).state ≠ .retired →
      ((put 1).rnat (tapKey n.1 0x14) % 4 = 0 →
        exec (.tapEnableWrite n true) ⟨p, d⟩ = .next ⟨p, (put 1).setPortState n.1 1⟩)
      ∧ exec (.tapEnableWrite n false) ⟨p, d⟩ = .next ⟨p, ((put 0).modPort n.1 Port.dropLink).setPortState n.1 0⟩

/-! ## Rules of the whole device -/

/-- The header of a host command, and whether a RECOVERY device takes it (the firmware writes of R437). -/
def Sys2Proof.Claims.hostHeader (c : Instr) : Option CmdHdr :=
  match c with
  | .objCreate h _ | .objAttach h _ | .objRelease h _ | .objMoveUp h _ _ | .objMoveDown h _ _ | .fnAssign h _ _
  | .ctxLoad h _ | .ctxUnload h | .ctxKill h | .ctxResume h | .ctxSet h _ _ | .gyleBegin h _ _ | .gyleAbort h _
  | .gyleDecide h _ _ | .gyleResolve h _ _ | .gyleReplay h | .winOpen h _ | .winClose h _ | .layoutSet h _ _
  | .calOverlayAdd h _ | .calOverlayRemove h _ | .testRequest h _ _ | .testpackLoad h _ _ _ | .resilSet h _
  | .caskHost h _ _ _ | .caskRelease h _ | .caskSchedule h _ | .ckptExport h _ _ | .restore h _ _ _ _
  | .rackBegin h _ _ _ | .queueCreate h _ _ _ _ _ _ _ _ | .queueDelete h _ _ | .hostRegister h _ _
  | .hostUnregister h _ | .copy h _ _ _ _ | .fwUpdateCommit h | .revokeSlot h _ _ _ | .ownerEnrol h _ _ _ => some h
  | _ => none

/-- The host commands of a context (Table 14.4). -/
def Sys2Proof.Claims.contextHeader (c : Instr) : Option CmdHdr :=
  match c with
  | .objCreate h _ | .objAttach h _ | .objRelease h _ | .objMoveUp h _ _ | .objMoveDown h _ _
  | .ctxLoad h _ | .ctxUnload h | .ctxKill h | .ctxResume h | .ctxSet h _ _ | .gyleBegin h _ _ | .gyleAbort h _
  | .gyleDecide h _ _ | .gyleResolve h _ _ | .gyleReplay h | .winOpen h _ | .winClose h _ | .layoutSet h _ _
  | .resilSet h _ | .caskSchedule h _ | .ckptExport h _ _ | .restore h _ _ _ _ | .rackBegin h _ _ _
  | .copy h _ _ _ _ => some h
  | _ => none

/-- A host command on a device that is not READY has no effect but a completion with DEVICE_NOT_READY (Table 14.5,
Table 15.7). -/
def Obligations.CommandsBeforeReadyAnswerNotReady : Prop :=
  ∀ (p : List Instr) (d : Dev) (c : Instr) (h : CmdHdr), hostHeader c = some h → d.sec.devState ≠ .ready →
    exec c ⟨p, d⟩ = .next ⟨p, d.complete h Code.deviceNotReady 0⟩

/-- A command for a context outside the set of the function that sends it has no effect but a completion with
CONTEXT_INVALID and that it is a scheduling event (R225, R234, R404). -/
def Obligations.ForeignContextsAreRefused : Prop :=
  ∀ (p : List Instr) (d : Dev) (c : Instr) (h : CmdHdr), contextHeader c = some h → d.sec.devState = .ready →
    h.queue = .context → 1024 ≤ h.ctx ∨ (d.ctx h.ctx).fn ≠ h.fn →
    exec c ⟨p, d⟩ = .next ⟨p, (d.complete h Code.contextInvalid 0).schedule⟩

/-- A completion is one entry behind those that wait for the command's queue, with the command's identifier and status,
and the command is outstanding no more; a SUCCESS that its header suppresses writes no entry; nothing else of the device
changes (R401, R402, Table 14.5). -/
def Obligations.CompletionsReachTheirQueue : Prop :=
  ∀ (d : Dev) (h : CmdHdr) (status : W16) (info : W32),
    let t := d.complete h status info
    (h.quiet = false ∨ status ≠ 0 → ∃ e : Entry, e.cmdId = h.id ∧ e.status = status ∧ e.info = info ∧ e.type = 0
      ∧ (t.queue (hdrCq h)).waiting = (d.queue (hdrCq h)).waiting ++ [e]
      ∧ t.queue (hdrCq h) = { d.queue (hdrCq h) with waiting := (d.queue (hdrCq h)).waiting ++ [e] })
    ∧ (h.quiet = true → status = 0 → ∀ q, t.queue q = d.queue q)
    ∧ (∀ q, q ≠ hdrCq h → t.queue q = d.queue q)
    ∧ (∀ r ∈ t.host.started, ¬(r.queue = hdrSq h ∧ r.id = h.id))
    ∧ t = { d with host := t.host }

/-- The clocks of every core and hub island stop at a thermal trip, and a DEVICE-class error stops every context until a
device reset (R329, R479): a command of a core or hub whose island's clocks have stopped, or that comes on a device in
the error state, changes nothing. -/
def Obligations.StoppedIslandsDoNothing : Prop :=
  ∀ (s : State) (core : CoreId) (x : SlotIx),
    (s.dev.island (islOfCore core.1)).clocksStopped = true ∨ s.dev.sec.devState = .error →
    (∀ c, (∃ u e op run, engineCommand c = some (core, x, u, e, op, run)) → exec c s = .next s)
    ∧ (∀ c i u op, cellCommand c = some (core, i, u, op) → exec c s = .next s)
    ∧ (∀ c w op, fetched c = some (core, x, w, op) → exec c s = .next s)
    ∧ exec (.claimReply core x) s = .next s
    ∧ exec (.matrixTile core x) s = .next s ∧ exec (.slotYield core x) s = .next s
end

