-- ==== Sys2Proof/Laws/Tables.lean ====
section
/-! SUPPORT. Tables and memories: reading after writing, and the canonical form that every memory operation keeps. -/

namespace Sys2Proof.Laws

open Sys2Proof Sys2Proof.Machine

/-! ## Tables -/

@[simp] theorem tget?_tset_self {α : Type} (t : Table α) (k : Nat) (v : α) : tget? (tset t k v) k = some v := by
  induction t with
  | nil => simp [tset, tget?]
  | cons e r ih =>
    unfold tset
    by_cases h : e.1 = k
    · simp [h, tget?]
    · by_cases h2 : k < e.1
      · simp [h, h2, tget?]
      · simp [h, h2, tget?, ih]

theorem tget?_tset_ne {α : Type} (t : Table α) {j k : Nat} (v : α) (hne : j ≠ k) :
    tget? (tset t k v) j = tget? t j := by
  induction t with
  | nil =>
    have : k ≠ j := fun h => hne h.symm
    simp [tset, tget?, this]
  | cons e r ih =>
    unfold tset
    by_cases h : e.1 = k
    · have hk : k ≠ j := fun h => hne h.symm
      have he : e.1 ≠ j := h ▸ hk
      simp [h, tget?, hk]
    · by_cases h2 : k < e.1
      · have hk : k ≠ j := fun h => hne h.symm
        simp only [h, h2, if_true, if_false, tget?, hk]
        by_cases h3 : j < k
        · have h4 : e.1 ≠ j := by omega
          have h5 : j < e.1 := by omega
          simp [h3, h4, h5]
        · simp [h3]
      · simp [h, h2, tget?, ih]

@[simp] theorem tget_tset_self {α : Type} (t : Table α) (k : Nat) (v dflt : α) : tget (tset t k v) k dflt = v := by
  simp [tget]

theorem tget_tset_ne {α : Type} (t : Table α) {j k : Nat} (v dflt : α) (h : j ≠ k) :
    tget (tset t k v) j dflt = tget t j dflt := by
  simp [tget, tget?_tset_ne t v h]

/-! ## The canonical form -/

theorem risingFrom_mono {lo hi : Nat} {m : Mem} (h : lo ≤ hi) (hm : risingFrom hi m = true) :
    risingFrom lo m = true := by
  cases m with
  | nil => rfl
  | cons e r =>
    simp [risingFrom] at hm ⊢
    exact ⟨by omega, hm.2⟩

theorem risingFrom_tset (m : Mem) (lo k : Nat) (v : Byte) (hm : risingFrom lo m = true) (hk : lo ≤ k) :
    risingFrom lo (tset m k v) = true := by
  induction m generalizing lo with
  | nil => simp [tset, risingFrom, hk]
  | cons e r ih =>
    simp [risingFrom] at hm
    unfold tset
    split
    · rename_i h
      simp [risingFrom, hk]
      exact h ▸ hm.2
    · split
      · rename_i h h2
        simp [risingFrom, hk, hm.2]
        omega
      · rename_i h h2
        simp [risingFrom, hm.1]
        exact ih _ hm.2 (by omega)

theorem risingFrom_tdel (m : Mem) (lo k : Nat) (hm : risingFrom lo m = true) : risingFrom lo (tdel m k) = true := by
  induction m generalizing lo with
  | nil => rfl
  | cons e r ih =>
    simp [risingFrom] at hm
    unfold tdel
    split
    · exact risingFrom_mono (by omega) hm.2
    · split
      · simp [risingFrom, hm]
      · simp [risingFrom, hm.1, ih _ hm.2]

theorem risingFrom_filter (m : Mem) (lo : Nat) (p : Nat × Byte → Bool) (hm : risingFrom lo m = true) :
    risingFrom lo (m.filter p) = true := by
  induction m generalizing lo with
  | nil => rfl
  | cons e r ih =>
    simp [risingFrom] at hm
    by_cases h : p e = true
    · simp [h, risingFrom, hm.1, ih _ hm.2]
    · simp [h]
      exact risingFrom_mono (by omega) (ih _ hm.2)

theorem all_tset (m : Mem) (k : Nat) (v : Byte) (hm : m.all (fun e => decide (e.2 ≠ 0)) = true) (hv : v ≠ 0) :
    (tset m k v).all (fun e => decide (e.2 ≠ 0)) = true := by
  induction m with
  | nil => simp only [tset, List.all_cons, List.all_nil, Bool.and_true]; simpa using hv
  | cons e r ih =>
    simp only [List.all_cons, Bool.and_eq_true] at hm
    unfold tset
    split
    · simp only [List.all_cons, Bool.and_eq_true]; exact ⟨by simpa using hv, hm.2⟩
    · split
      · simp only [List.all_cons, Bool.and_eq_true]; exact ⟨by simpa using hv, hm.1, hm.2⟩
      · simp only [List.all_cons, Bool.and_eq_true]; exact ⟨hm.1, ih hm.2⟩

theorem all_tdel (m : Mem) (k : Nat) (hm : m.all (fun e => decide (e.2 ≠ 0)) = true) :
    (tdel m k).all (fun e => decide (e.2 ≠ 0)) = true := by
  induction m with
  | nil => rfl
  | cons e r ih =>
    simp only [List.all_cons, Bool.and_eq_true] at hm
    unfold tdel
    split
    · exact hm.2
    · split
      · simp only [List.all_cons, Bool.and_eq_true]; exact hm
      · simp only [List.all_cons, Bool.and_eq_true]; exact ⟨hm.1, ih hm.2⟩

/-- One byte written keeps the canonical form. -/
theorem mwrite_wf {m : Mem} (a : Nat) (v : Byte) (h : Memory.wf m = true) : Memory.wf (mwrite m a v) = true := by
  simp only [Memory.wf, Bool.and_eq_true] at h ⊢
  unfold mwrite
  split
  · exact ⟨risingFrom_tdel m 0 a h.1, all_tdel m a h.2⟩
  · rename_i hv
    exact ⟨risingFrom_tset m 0 a v h.1 (Nat.zero_le a), all_tset m a v h.2 hv⟩

/-- Bytes written keep the canonical form. -/
theorem mwrites_wf {m : Mem} (a : Nat) (bs : List Byte) (h : Memory.wf m = true) :
    Memory.wf (mwrites m a bs) = true := by
  induction bs generalizing m a with
  | nil => exact h
  | cons b r ih => exact ih (a + 1) (mwrite_wf a b h)

/-- A value written keeps the canonical form. -/
theorem msetNat_wf {m : Mem} (a n v : Nat) (h : Memory.wf m = true) : Memory.wf (msetNat m a n v) = true :=
  mwrites_wf a _ h

/-- A range cleared keeps the canonical form. -/
theorem mclear_wf {m : Mem} (a n : Nat) (h : Memory.wf m = true) : Memory.wf (mclear m a n) = true := by
  simp only [Memory.wf, Bool.and_eq_true] at h ⊢
  refine ⟨risingFrom_filter m 0 _ h.1, ?_⟩
  rw [List.all_eq_true] at *
  intro e he
  exact h.2 e (List.mem_of_mem_filter he)

/-- The empty memory has the canonical form. -/
theorem nil_wf : Memory.wf [] = true := rfl

/-! ## Reading after writing -/

theorem tget?_none_of_lt {m : Mem} {lo k : Nat} (h : risingFrom lo m = true) (hk : k < lo) : tget? m k = none := by
  cases m with
  | nil => rfl
  | cons e r =>
    simp [risingFrom] at h
    have h1 : e.1 ≠ k := by omega
    have h2 : k < e.1 := by omega
    simp [tget?, h1, h2]

theorem tget?_tdel_self {m : Mem} {lo : Nat} (k : Nat) (h : risingFrom lo m = true) : tget? (tdel m k) k = none := by
  induction m generalizing lo with
  | nil => rfl
  | cons e r ih =>
    simp [risingFrom] at h
    unfold tdel
    split
    · exact tget?_none_of_lt h.2 (by omega)
    · split
      · rename_i h1 h2; simp [tget?, h1, h2]
      · rename_i h1 h2; simp [tget?, h1, h2, ih h.2]

theorem tget?_tdel_ne {m : Mem} {lo j k : Nat} (h : risingFrom lo m = true) (hne : j ≠ k) :
    tget? (tdel m k) j = tget? m j := by
  induction m generalizing lo with
  | nil => rfl
  | cons e r ih =>
    simp [risingFrom] at h
    unfold tdel
    split
    · rename_i h1
      have h3 : e.1 ≠ j := by omega
      by_cases h2 : j < e.1
      · simp [tget?, h3, h2]
        exact tget?_none_of_lt h.2 (by omega)
      · simp [tget?, h3, h2]
    · split
      · rfl
      · simp [tget?, ih h.2]

/-- A byte written reads back. -/
theorem mread_mwrite_self {m : Mem} (a : Nat) (v : Byte) (h : Memory.wf m = true) : mread (mwrite m a v) a = v := by
  simp only [Memory.wf, Bool.and_eq_true] at h
  unfold mwrite mread
  split
  · rename_i hv; simp [tget, tget?_tdel_self a h.1, hv]
  · simp

/-- A write leaves every other byte. -/
theorem mread_mwrite_ne {m : Mem} {a b : Nat} (v : Byte) (h : Memory.wf m = true) (hne : b ≠ a) :
    mread (mwrite m a v) b = mread m b := by
  simp only [Memory.wf, Bool.and_eq_true] at h
  unfold mwrite mread
  split
  · simp [tget, tget?_tdel_ne h.1 hne]
  · exact tget_tset_ne m v 0 hne

/-- Bytes written from a up leave every byte outside them. -/
theorem mread_mwrites_out {m : Mem} {a b : Nat} (bs : List Byte) (h : Memory.wf m = true)
    (hb : b < a ∨ a + bs.length ≤ b) : mread (mwrites m a bs) b = mread m b := by
  induction bs generalizing m a with
  | nil => rfl
  | cons x r ih =>
    simp only [List.length_cons] at hb
    rw [mwrites, ih (mwrite_wf a x h) (by omega), mread_mwrite_ne x h (by omega)]

/-- Bytes written read back. -/
theorem mreads_mwrites {m : Mem} (a : Nat) (bs : List Byte) (h : Memory.wf m = true) :
    mreads (mwrites m a bs) a bs.length = bs := by
  induction bs generalizing m a with
  | nil => rfl
  | cons x r ih =>
    simp only [mwrites, List.length_cons, mreads, List.cons.injEq]
    refine ⟨?_, ih (a + 1) (mwrite_wf a x h)⟩
    rw [mread_mwrites_out r (mwrite_wf a x h) (by omega), mread_mwrite_self a x h]

end Sys2Proof.Laws
end

