-- ==== Sys2Proof/Laws/State.lean ====
section
/-! SUPPORT. What each primitive update of the device leaves as it was, field by field, and what it sets. -/

namespace Sys2Proof.Machine

/-! ## Untouched fields, one lemma per field and update -/

@[simp] theorem Dev.setCore_free (d : Dev) (n : Nat) (c : Core) : (d.setCore n c).free = d.free := rfl
@[simp] theorem Dev.setCore_pins (d : Dev) (n : Nat) (c : Core) : (d.setCore n c).pins = d.pins := rfl
@[simp] theorem Dev.setCore_fuses (d : Dev) (n : Nat) (c : Core) : (d.setCore n c).fuses = d.fuses := rfl
@[simp] theorem Dev.setCore_flash (d : Dev) (n : Nat) (c : Core) : (d.setCore n c).flash = d.flash := rfl
@[simp] theorem Dev.setCore_sec (d : Dev) (n : Nat) (c : Core) : (d.setCore n c).sec = d.sec := rfl
@[simp] theorem Dev.setCore_blk (d : Dev) (n : Nat) (c : Core) : (d.setCore n c).blk = d.blk := rfl
@[simp] theorem Dev.setCore_mirror (d : Dev) (n : Nat) (c : Core) : (d.setCore n c).mirror = d.mirror := rfl
@[simp] theorem Dev.setCore_latch (d : Dev) (n : Nat) (c : Core) : (d.setCore n c).latch = d.latch := rfl
@[simp] theorem Dev.setCore_islands (d : Dev) (n : Nat) (c : Core) : (d.setCore n c).islands = d.islands := rfl
@[simp] theorem Dev.setCore_crossings (d : Dev) (n : Nat) (c : Core) : (d.setCore n c).crossings = d.crossings := rfl
@[simp] theorem Dev.setCore_clusters (d : Dev) (n : Nat) (c : Core) : (d.setCore n c).clusters = d.clusters := rfl
@[simp] theorem Dev.setCore_ctxs (d : Dev) (n : Nat) (c : Core) : (d.setCore n c).ctxs = d.ctxs := rfl
@[simp] theorem Dev.setCore_objs (d : Dev) (n : Nat) (c : Core) : (d.setCore n c).objs = d.objs := rfl
@[simp] theorem Dev.setCore_nextObj (d : Dev) (n : Nat) (c : Core) : (d.setCore n c).nextObj = d.nextObj := rfl
@[simp] theorem Dev.setCore_pool (d : Dev) (n : Nat) (c : Core) : (d.setCore n c).pool = d.pool := rfl
@[simp] theorem Dev.setCore_swapUsed (d : Dev) (n : Nat) (c : Core) : (d.setCore n c).swapUsed = d.swapUsed := rfl
@[simp] theorem Dev.setCore_hbm (d : Dev) (n : Nat) (c : Core) : (d.setCore n c).hbm = d.hbm := rfl
@[simp] theorem Dev.setCore_undef (d : Dev) (n : Nat) (c : Core) : (d.setCore n c).undef = d.undef := rfl
@[simp] theorem Dev.setCore_hostMem (d : Dev) (n : Nat) (c : Core) : (d.setCore n c).hostMem = d.hostMem := rfl
@[simp] theorem Dev.setCore_windows (d : Dev) (n : Nat) (c : Core) : (d.setCore n c).windows = d.windows := rfl
@[simp] theorem Dev.setCore_ports (d : Dev) (n : Nat) (c : Core) : (d.setCore n c).ports = d.ports := rfl
@[simp] theorem Dev.setCore_chans (d : Dev) (n : Nat) (c : Core) : (d.setCore n c).chans = d.chans := rfl
@[simp] theorem Dev.setCore_host (d : Dev) (n : Nat) (c : Core) : (d.setCore n c).host = d.host := rfl
@[simp] theorem Dev.setCore_apply (d : Dev) (n : Nat) (c : Core) : (d.setCore n c).apply = d.apply := rfl
@[simp] theorem Dev.setCore_ras (d : Dev) (n : Nat) (c : Core) : (d.setCore n c).ras = d.ras := rfl
@[simp] theorem Dev.setCore_power (d : Dev) (n : Nat) (c : Core) : (d.setCore n c).power = d.power := rfl
@[simp] theorem Dev.setCore_casks (d : Dev) (n : Nat) (c : Core) : (d.setCore n c).casks = d.casks := rfl
@[simp] theorem Dev.setCore_stamps (d : Dev) (n : Nat) (c : Core) : (d.setCore n c).stamps = d.stamps := rfl
@[simp] theorem Dev.setCore_moves (d : Dev) (n : Nat) (c : Core) : (d.setCore n c).moves = d.moves := rfl
@[simp] theorem Dev.setCore_answer (d : Dev) (n : Nat) (c : Core) : (d.setCore n c).answer = d.answer := rfl

@[simp] theorem Dev.setCluster_free (d : Dev) (j : Nat) (c : Cluster) : (d.setCluster j c).free = d.free := rfl
@[simp] theorem Dev.setCluster_pins (d : Dev) (j : Nat) (c : Cluster) : (d.setCluster j c).pins = d.pins := rfl
@[simp] theorem Dev.setCluster_fuses (d : Dev) (j : Nat) (c : Cluster) : (d.setCluster j c).fuses = d.fuses := rfl
@[simp] theorem Dev.setCluster_flash (d : Dev) (j : Nat) (c : Cluster) : (d.setCluster j c).flash = d.flash := rfl
@[simp] theorem Dev.setCluster_sec (d : Dev) (j : Nat) (c : Cluster) : (d.setCluster j c).sec = d.sec := rfl
@[simp] theorem Dev.setCluster_blk (d : Dev) (j : Nat) (c : Cluster) : (d.setCluster j c).blk = d.blk := rfl
@[simp] theorem Dev.setCluster_mirror (d : Dev) (j : Nat) (c : Cluster) : (d.setCluster j c).mirror = d.mirror := rfl
@[simp] theorem Dev.setCluster_latch (d : Dev) (j : Nat) (c : Cluster) : (d.setCluster j c).latch = d.latch := rfl
@[simp] theorem Dev.setCluster_islands (d : Dev) (j : Nat) (c : Cluster) : (d.setCluster j c).islands = d.islands := rfl
@[simp] theorem Dev.setCluster_crossings (d : Dev) (j : Nat) (c : Cluster) : (d.setCluster j c).crossings = d.crossings := rfl
@[simp] theorem Dev.setCluster_cores (d : Dev) (j : Nat) (c : Cluster) : (d.setCluster j c).cores = d.cores := rfl
@[simp] theorem Dev.setCluster_ctxs (d : Dev) (j : Nat) (c : Cluster) : (d.setCluster j c).ctxs = d.ctxs := rfl
@[simp] theorem Dev.setCluster_objs (d : Dev) (j : Nat) (c : Cluster) : (d.setCluster j c).objs = d.objs := rfl
@[simp] theorem Dev.setCluster_nextObj (d : Dev) (j : Nat) (c : Cluster) : (d.setCluster j c).nextObj = d.nextObj := rfl
@[simp] theorem Dev.setCluster_pool (d : Dev) (j : Nat) (c : Cluster) : (d.setCluster j c).pool = d.pool := rfl
@[simp] theorem Dev.setCluster_swapUsed (d : Dev) (j : Nat) (c : Cluster) : (d.setCluster j c).swapUsed = d.swapUsed := rfl
@[simp] theorem Dev.setCluster_hbm (d : Dev) (j : Nat) (c : Cluster) : (d.setCluster j c).hbm = d.hbm := rfl
@[simp] theorem Dev.setCluster_undef (d : Dev) (j : Nat) (c : Cluster) : (d.setCluster j c).undef = d.undef := rfl
@[simp] theorem Dev.setCluster_hostMem (d : Dev) (j : Nat) (c : Cluster) : (d.setCluster j c).hostMem = d.hostMem := rfl
@[simp] theorem Dev.setCluster_windows (d : Dev) (j : Nat) (c : Cluster) : (d.setCluster j c).windows = d.windows := rfl
@[simp] theorem Dev.setCluster_ports (d : Dev) (j : Nat) (c : Cluster) : (d.setCluster j c).ports = d.ports := rfl
@[simp] theorem Dev.setCluster_chans (d : Dev) (j : Nat) (c : Cluster) : (d.setCluster j c).chans = d.chans := rfl
@[simp] theorem Dev.setCluster_host (d : Dev) (j : Nat) (c : Cluster) : (d.setCluster j c).host = d.host := rfl
@[simp] theorem Dev.setCluster_apply (d : Dev) (j : Nat) (c : Cluster) : (d.setCluster j c).apply = d.apply := rfl
@[simp] theorem Dev.setCluster_ras (d : Dev) (j : Nat) (c : Cluster) : (d.setCluster j c).ras = d.ras := rfl
@[simp] theorem Dev.setCluster_power (d : Dev) (j : Nat) (c : Cluster) : (d.setCluster j c).power = d.power := rfl
@[simp] theorem Dev.setCluster_casks (d : Dev) (j : Nat) (c : Cluster) : (d.setCluster j c).casks = d.casks := rfl
@[simp] theorem Dev.setCluster_stamps (d : Dev) (j : Nat) (c : Cluster) : (d.setCluster j c).stamps = d.stamps := rfl
@[simp] theorem Dev.setCluster_moves (d : Dev) (j : Nat) (c : Cluster) : (d.setCluster j c).moves = d.moves := rfl
@[simp] theorem Dev.setCluster_answer (d : Dev) (j : Nat) (c : Cluster) : (d.setCluster j c).answer = d.answer := rfl

@[simp] theorem Dev.setCtx_free (d : Dev) (x : Nat) (c : Ctx) : (d.setCtx x c).free = d.free := rfl
@[simp] theorem Dev.setCtx_pins (d : Dev) (x : Nat) (c : Ctx) : (d.setCtx x c).pins = d.pins := rfl
@[simp] theorem Dev.setCtx_fuses (d : Dev) (x : Nat) (c : Ctx) : (d.setCtx x c).fuses = d.fuses := rfl
@[simp] theorem Dev.setCtx_flash (d : Dev) (x : Nat) (c : Ctx) : (d.setCtx x c).flash = d.flash := rfl
@[simp] theorem Dev.setCtx_sec (d : Dev) (x : Nat) (c : Ctx) : (d.setCtx x c).sec = d.sec := rfl
@[simp] theorem Dev.setCtx_blk (d : Dev) (x : Nat) (c : Ctx) : (d.setCtx x c).blk = d.blk := rfl
@[simp] theorem Dev.setCtx_mirror (d : Dev) (x : Nat) (c : Ctx) : (d.setCtx x c).mirror = d.mirror := rfl
@[simp] theorem Dev.setCtx_latch (d : Dev) (x : Nat) (c : Ctx) : (d.setCtx x c).latch = d.latch := rfl
@[simp] theorem Dev.setCtx_islands (d : Dev) (x : Nat) (c : Ctx) : (d.setCtx x c).islands = d.islands := rfl
@[simp] theorem Dev.setCtx_crossings (d : Dev) (x : Nat) (c : Ctx) : (d.setCtx x c).crossings = d.crossings := rfl
@[simp] theorem Dev.setCtx_cores (d : Dev) (x : Nat) (c : Ctx) : (d.setCtx x c).cores = d.cores := rfl
@[simp] theorem Dev.setCtx_clusters (d : Dev) (x : Nat) (c : Ctx) : (d.setCtx x c).clusters = d.clusters := rfl
@[simp] theorem Dev.setCtx_objs (d : Dev) (x : Nat) (c : Ctx) : (d.setCtx x c).objs = d.objs := rfl
@[simp] theorem Dev.setCtx_nextObj (d : Dev) (x : Nat) (c : Ctx) : (d.setCtx x c).nextObj = d.nextObj := rfl
@[simp] theorem Dev.setCtx_pool (d : Dev) (x : Nat) (c : Ctx) : (d.setCtx x c).pool = d.pool := rfl
@[simp] theorem Dev.setCtx_swapUsed (d : Dev) (x : Nat) (c : Ctx) : (d.setCtx x c).swapUsed = d.swapUsed := rfl
@[simp] theorem Dev.setCtx_hbm (d : Dev) (x : Nat) (c : Ctx) : (d.setCtx x c).hbm = d.hbm := rfl
@[simp] theorem Dev.setCtx_undef (d : Dev) (x : Nat) (c : Ctx) : (d.setCtx x c).undef = d.undef := rfl
@[simp] theorem Dev.setCtx_hostMem (d : Dev) (x : Nat) (c : Ctx) : (d.setCtx x c).hostMem = d.hostMem := rfl
@[simp] theorem Dev.setCtx_windows (d : Dev) (x : Nat) (c : Ctx) : (d.setCtx x c).windows = d.windows := rfl
@[simp] theorem Dev.setCtx_ports (d : Dev) (x : Nat) (c : Ctx) : (d.setCtx x c).ports = d.ports := rfl
@[simp] theorem Dev.setCtx_chans (d : Dev) (x : Nat) (c : Ctx) : (d.setCtx x c).chans = d.chans := rfl
@[simp] theorem Dev.setCtx_host (d : Dev) (x : Nat) (c : Ctx) : (d.setCtx x c).host = d.host := rfl
@[simp] theorem Dev.setCtx_apply (d : Dev) (x : Nat) (c : Ctx) : (d.setCtx x c).apply = d.apply := rfl
@[simp] theorem Dev.setCtx_ras (d : Dev) (x : Nat) (c : Ctx) : (d.setCtx x c).ras = d.ras := rfl
@[simp] theorem Dev.setCtx_power (d : Dev) (x : Nat) (c : Ctx) : (d.setCtx x c).power = d.power := rfl
@[simp] theorem Dev.setCtx_casks (d : Dev) (x : Nat) (c : Ctx) : (d.setCtx x c).casks = d.casks := rfl
@[simp] theorem Dev.setCtx_stamps (d : Dev) (x : Nat) (c : Ctx) : (d.setCtx x c).stamps = d.stamps := rfl
@[simp] theorem Dev.setCtx_moves (d : Dev) (x : Nat) (c : Ctx) : (d.setCtx x c).moves = d.moves := rfl
@[simp] theorem Dev.setCtx_answer (d : Dev) (x : Nat) (c : Ctx) : (d.setCtx x c).answer = d.answer := rfl

@[simp] theorem Dev.setPort_free (d : Dev) (p : Nat) (q : Port) : (d.setPort p q).free = d.free := rfl
@[simp] theorem Dev.setPort_pins (d : Dev) (p : Nat) (q : Port) : (d.setPort p q).pins = d.pins := rfl
@[simp] theorem Dev.setPort_fuses (d : Dev) (p : Nat) (q : Port) : (d.setPort p q).fuses = d.fuses := rfl
@[simp] theorem Dev.setPort_flash (d : Dev) (p : Nat) (q : Port) : (d.setPort p q).flash = d.flash := rfl
@[simp] theorem Dev.setPort_sec (d : Dev) (p : Nat) (q : Port) : (d.setPort p q).sec = d.sec := rfl
@[simp] theorem Dev.setPort_blk (d : Dev) (p : Nat) (q : Port) : (d.setPort p q).blk = d.blk := rfl
@[simp] theorem Dev.setPort_mirror (d : Dev) (p : Nat) (q : Port) : (d.setPort p q).mirror = d.mirror := rfl
@[simp] theorem Dev.setPort_latch (d : Dev) (p : Nat) (q : Port) : (d.setPort p q).latch = d.latch := rfl
@[simp] theorem Dev.setPort_islands (d : Dev) (p : Nat) (q : Port) : (d.setPort p q).islands = d.islands := rfl
@[simp] theorem Dev.setPort_crossings (d : Dev) (p : Nat) (q : Port) : (d.setPort p q).crossings = d.crossings := rfl
@[simp] theorem Dev.setPort_cores (d : Dev) (p : Nat) (q : Port) : (d.setPort p q).cores = d.cores := rfl
@[simp] theorem Dev.setPort_clusters (d : Dev) (p : Nat) (q : Port) : (d.setPort p q).clusters = d.clusters := rfl
@[simp] theorem Dev.setPort_ctxs (d : Dev) (p : Nat) (q : Port) : (d.setPort p q).ctxs = d.ctxs := rfl
@[simp] theorem Dev.setPort_objs (d : Dev) (p : Nat) (q : Port) : (d.setPort p q).objs = d.objs := rfl
@[simp] theorem Dev.setPort_nextObj (d : Dev) (p : Nat) (q : Port) : (d.setPort p q).nextObj = d.nextObj := rfl
@[simp] theorem Dev.setPort_pool (d : Dev) (p : Nat) (q : Port) : (d.setPort p q).pool = d.pool := rfl
@[simp] theorem Dev.setPort_swapUsed (d : Dev) (p : Nat) (q : Port) : (d.setPort p q).swapUsed = d.swapUsed := rfl
@[simp] theorem Dev.setPort_hbm (d : Dev) (p : Nat) (q : Port) : (d.setPort p q).hbm = d.hbm := rfl
@[simp] theorem Dev.setPort_undef (d : Dev) (p : Nat) (q : Port) : (d.setPort p q).undef = d.undef := rfl
@[simp] theorem Dev.setPort_hostMem (d : Dev) (p : Nat) (q : Port) : (d.setPort p q).hostMem = d.hostMem := rfl
@[simp] theorem Dev.setPort_windows (d : Dev) (p : Nat) (q : Port) : (d.setPort p q).windows = d.windows := rfl
@[simp] theorem Dev.setPort_chans (d : Dev) (p : Nat) (q : Port) : (d.setPort p q).chans = d.chans := rfl
@[simp] theorem Dev.setPort_host (d : Dev) (p : Nat) (q : Port) : (d.setPort p q).host = d.host := rfl
@[simp] theorem Dev.setPort_apply (d : Dev) (p : Nat) (q : Port) : (d.setPort p q).apply = d.apply := rfl
@[simp] theorem Dev.setPort_ras (d : Dev) (p : Nat) (q : Port) : (d.setPort p q).ras = d.ras := rfl
@[simp] theorem Dev.setPort_power (d : Dev) (p : Nat) (q : Port) : (d.setPort p q).power = d.power := rfl
@[simp] theorem Dev.setPort_casks (d : Dev) (p : Nat) (q : Port) : (d.setPort p q).casks = d.casks := rfl
@[simp] theorem Dev.setPort_stamps (d : Dev) (p : Nat) (q : Port) : (d.setPort p q).stamps = d.stamps := rfl
@[simp] theorem Dev.setPort_moves (d : Dev) (p : Nat) (q : Port) : (d.setPort p q).moves = d.moves := rfl
@[simp] theorem Dev.setPort_answer (d : Dev) (p : Nat) (q : Port) : (d.setPort p q).answer = d.answer := rfl

@[simp] theorem Dev.setWindow_free (d : Dev) (w : Nat) (x : Window) : (d.setWindow w x).free = d.free := rfl
@[simp] theorem Dev.setWindow_pins (d : Dev) (w : Nat) (x : Window) : (d.setWindow w x).pins = d.pins := rfl
@[simp] theorem Dev.setWindow_fuses (d : Dev) (w : Nat) (x : Window) : (d.setWindow w x).fuses = d.fuses := rfl
@[simp] theorem Dev.setWindow_flash (d : Dev) (w : Nat) (x : Window) : (d.setWindow w x).flash = d.flash := rfl
@[simp] theorem Dev.setWindow_sec (d : Dev) (w : Nat) (x : Window) : (d.setWindow w x).sec = d.sec := rfl
@[simp] theorem Dev.setWindow_blk (d : Dev) (w : Nat) (x : Window) : (d.setWindow w x).blk = d.blk := rfl
@[simp] theorem Dev.setWindow_mirror (d : Dev) (w : Nat) (x : Window) : (d.setWindow w x).mirror = d.mirror := rfl
@[simp] theorem Dev.setWindow_latch (d : Dev) (w : Nat) (x : Window) : (d.setWindow w x).latch = d.latch := rfl
@[simp] theorem Dev.setWindow_islands (d : Dev) (w : Nat) (x : Window) : (d.setWindow w x).islands = d.islands := rfl
@[simp] theorem Dev.setWindow_crossings (d : Dev) (w : Nat) (x : Window) : (d.setWindow w x).crossings = d.crossings := rfl
@[simp] theorem Dev.setWindow_cores (d : Dev) (w : Nat) (x : Window) : (d.setWindow w x).cores = d.cores := rfl
@[simp] theorem Dev.setWindow_clusters (d : Dev) (w : Nat) (x : Window) : (d.setWindow w x).clusters = d.clusters := rfl
@[simp] theorem Dev.setWindow_ctxs (d : Dev) (w : Nat) (x : Window) : (d.setWindow w x).ctxs = d.ctxs := rfl
@[simp] theorem Dev.setWindow_objs (d : Dev) (w : Nat) (x : Window) : (d.setWindow w x).objs = d.objs := rfl
@[simp] theorem Dev.setWindow_nextObj (d : Dev) (w : Nat) (x : Window) : (d.setWindow w x).nextObj = d.nextObj := rfl
@[simp] theorem Dev.setWindow_pool (d : Dev) (w : Nat) (x : Window) : (d.setWindow w x).pool = d.pool := rfl
@[simp] theorem Dev.setWindow_swapUsed (d : Dev) (w : Nat) (x : Window) : (d.setWindow w x).swapUsed = d.swapUsed := rfl
@[simp] theorem Dev.setWindow_hbm (d : Dev) (w : Nat) (x : Window) : (d.setWindow w x).hbm = d.hbm := rfl
@[simp] theorem Dev.setWindow_undef (d : Dev) (w : Nat) (x : Window) : (d.setWindow w x).undef = d.undef := rfl
@[simp] theorem Dev.setWindow_hostMem (d : Dev) (w : Nat) (x : Window) : (d.setWindow w x).hostMem = d.hostMem := rfl
@[simp] theorem Dev.setWindow_ports (d : Dev) (w : Nat) (x : Window) : (d.setWindow w x).ports = d.ports := rfl
@[simp] theorem Dev.setWindow_chans (d : Dev) (w : Nat) (x : Window) : (d.setWindow w x).chans = d.chans := rfl
@[simp] theorem Dev.setWindow_host (d : Dev) (w : Nat) (x : Window) : (d.setWindow w x).host = d.host := rfl
@[simp] theorem Dev.setWindow_apply (d : Dev) (w : Nat) (x : Window) : (d.setWindow w x).apply = d.apply := rfl
@[simp] theorem Dev.setWindow_ras (d : Dev) (w : Nat) (x : Window) : (d.setWindow w x).ras = d.ras := rfl
@[simp] theorem Dev.setWindow_power (d : Dev) (w : Nat) (x : Window) : (d.setWindow w x).power = d.power := rfl
@[simp] theorem Dev.setWindow_casks (d : Dev) (w : Nat) (x : Window) : (d.setWindow w x).casks = d.casks := rfl
@[simp] theorem Dev.setWindow_stamps (d : Dev) (w : Nat) (x : Window) : (d.setWindow w x).stamps = d.stamps := rfl
@[simp] theorem Dev.setWindow_moves (d : Dev) (w : Nat) (x : Window) : (d.setWindow w x).moves = d.moves := rfl
@[simp] theorem Dev.setWindow_answer (d : Dev) (w : Nat) (x : Window) : (d.setWindow w x).answer = d.answer := rfl

@[simp] theorem Dev.setChan_free (d : Dev) (c : Nat) (x : Chan) : (d.setChan c x).free = d.free := rfl
@[simp] theorem Dev.setChan_pins (d : Dev) (c : Nat) (x : Chan) : (d.setChan c x).pins = d.pins := rfl
@[simp] theorem Dev.setChan_fuses (d : Dev) (c : Nat) (x : Chan) : (d.setChan c x).fuses = d.fuses := rfl
@[simp] theorem Dev.setChan_flash (d : Dev) (c : Nat) (x : Chan) : (d.setChan c x).flash = d.flash := rfl
@[simp] theorem Dev.setChan_sec (d : Dev) (c : Nat) (x : Chan) : (d.setChan c x).sec = d.sec := rfl
@[simp] theorem Dev.setChan_blk (d : Dev) (c : Nat) (x : Chan) : (d.setChan c x).blk = d.blk := rfl
@[simp] theorem Dev.setChan_mirror (d : Dev) (c : Nat) (x : Chan) : (d.setChan c x).mirror = d.mirror := rfl
@[simp] theorem Dev.setChan_latch (d : Dev) (c : Nat) (x : Chan) : (d.setChan c x).latch = d.latch := rfl
@[simp] theorem Dev.setChan_islands (d : Dev) (c : Nat) (x : Chan) : (d.setChan c x).islands = d.islands := rfl
@[simp] theorem Dev.setChan_crossings (d : Dev) (c : Nat) (x : Chan) : (d.setChan c x).crossings = d.crossings := rfl
@[simp] theorem Dev.setChan_cores (d : Dev) (c : Nat) (x : Chan) : (d.setChan c x).cores = d.cores := rfl
@[simp] theorem Dev.setChan_clusters (d : Dev) (c : Nat) (x : Chan) : (d.setChan c x).clusters = d.clusters := rfl
@[simp] theorem Dev.setChan_ctxs (d : Dev) (c : Nat) (x : Chan) : (d.setChan c x).ctxs = d.ctxs := rfl
@[simp] theorem Dev.setChan_objs (d : Dev) (c : Nat) (x : Chan) : (d.setChan c x).objs = d.objs := rfl
@[simp] theorem Dev.setChan_nextObj (d : Dev) (c : Nat) (x : Chan) : (d.setChan c x).nextObj = d.nextObj := rfl
@[simp] theorem Dev.setChan_pool (d : Dev) (c : Nat) (x : Chan) : (d.setChan c x).pool = d.pool := rfl
@[simp] theorem Dev.setChan_swapUsed (d : Dev) (c : Nat) (x : Chan) : (d.setChan c x).swapUsed = d.swapUsed := rfl
@[simp] theorem Dev.setChan_hbm (d : Dev) (c : Nat) (x : Chan) : (d.setChan c x).hbm = d.hbm := rfl
@[simp] theorem Dev.setChan_undef (d : Dev) (c : Nat) (x : Chan) : (d.setChan c x).undef = d.undef := rfl
@[simp] theorem Dev.setChan_hostMem (d : Dev) (c : Nat) (x : Chan) : (d.setChan c x).hostMem = d.hostMem := rfl
@[simp] theorem Dev.setChan_windows (d : Dev) (c : Nat) (x : Chan) : (d.setChan c x).windows = d.windows := rfl
@[simp] theorem Dev.setChan_ports (d : Dev) (c : Nat) (x : Chan) : (d.setChan c x).ports = d.ports := rfl
@[simp] theorem Dev.setChan_host (d : Dev) (c : Nat) (x : Chan) : (d.setChan c x).host = d.host := rfl
@[simp] theorem Dev.setChan_apply (d : Dev) (c : Nat) (x : Chan) : (d.setChan c x).apply = d.apply := rfl
@[simp] theorem Dev.setChan_ras (d : Dev) (c : Nat) (x : Chan) : (d.setChan c x).ras = d.ras := rfl
@[simp] theorem Dev.setChan_power (d : Dev) (c : Nat) (x : Chan) : (d.setChan c x).power = d.power := rfl
@[simp] theorem Dev.setChan_casks (d : Dev) (c : Nat) (x : Chan) : (d.setChan c x).casks = d.casks := rfl
@[simp] theorem Dev.setChan_stamps (d : Dev) (c : Nat) (x : Chan) : (d.setChan c x).stamps = d.stamps := rfl
@[simp] theorem Dev.setChan_moves (d : Dev) (c : Nat) (x : Chan) : (d.setChan c x).moves = d.moves := rfl
@[simp] theorem Dev.setChan_answer (d : Dev) (c : Nat) (x : Chan) : (d.setChan c x).answer = d.answer := rfl

@[simp] theorem Dev.setPartner_free (d : Dev) (p : Nat) (x : Partner) : (d.setPartner p x).free = d.free := rfl
@[simp] theorem Dev.setPartner_pins (d : Dev) (p : Nat) (x : Partner) : (d.setPartner p x).pins = d.pins := rfl
@[simp] theorem Dev.setPartner_fuses (d : Dev) (p : Nat) (x : Partner) : (d.setPartner p x).fuses = d.fuses := rfl
@[simp] theorem Dev.setPartner_flash (d : Dev) (p : Nat) (x : Partner) : (d.setPartner p x).flash = d.flash := rfl
@[simp] theorem Dev.setPartner_blk (d : Dev) (p : Nat) (x : Partner) : (d.setPartner p x).blk = d.blk := rfl
@[simp] theorem Dev.setPartner_mirror (d : Dev) (p : Nat) (x : Partner) : (d.setPartner p x).mirror = d.mirror := rfl
@[simp] theorem Dev.setPartner_latch (d : Dev) (p : Nat) (x : Partner) : (d.setPartner p x).latch = d.latch := rfl
@[simp] theorem Dev.setPartner_islands (d : Dev) (p : Nat) (x : Partner) : (d.setPartner p x).islands = d.islands := rfl
@[simp] theorem Dev.setPartner_crossings (d : Dev) (p : Nat) (x : Partner) : (d.setPartner p x).crossings = d.crossings := rfl
@[simp] theorem Dev.setPartner_cores (d : Dev) (p : Nat) (x : Partner) : (d.setPartner p x).cores = d.cores := rfl
@[simp] theorem Dev.setPartner_clusters (d : Dev) (p : Nat) (x : Partner) : (d.setPartner p x).clusters = d.clusters := rfl
@[simp] theorem Dev.setPartner_ctxs (d : Dev) (p : Nat) (x : Partner) : (d.setPartner p x).ctxs = d.ctxs := rfl
@[simp] theorem Dev.setPartner_objs (d : Dev) (p : Nat) (x : Partner) : (d.setPartner p x).objs = d.objs := rfl
@[simp] theorem Dev.setPartner_nextObj (d : Dev) (p : Nat) (x : Partner) : (d.setPartner p x).nextObj = d.nextObj := rfl
@[simp] theorem Dev.setPartner_pool (d : Dev) (p : Nat) (x : Partner) : (d.setPartner p x).pool = d.pool := rfl
@[simp] theorem Dev.setPartner_swapUsed (d : Dev) (p : Nat) (x : Partner) : (d.setPartner p x).swapUsed = d.swapUsed := rfl
@[simp] theorem Dev.setPartner_hbm (d : Dev) (p : Nat) (x : Partner) : (d.setPartner p x).hbm = d.hbm := rfl
@[simp] theorem Dev.setPartner_undef (d : Dev) (p : Nat) (x : Partner) : (d.setPartner p x).undef = d.undef := rfl
@[simp] theorem Dev.setPartner_hostMem (d : Dev) (p : Nat) (x : Partner) : (d.setPartner p x).hostMem = d.hostMem := rfl
@[simp] theorem Dev.setPartner_windows (d : Dev) (p : Nat) (x : Partner) : (d.setPartner p x).windows = d.windows := rfl
@[simp] theorem Dev.setPartner_ports (d : Dev) (p : Nat) (x : Partner) : (d.setPartner p x).ports = d.ports := rfl
@[simp] theorem Dev.setPartner_chans (d : Dev) (p : Nat) (x : Partner) : (d.setPartner p x).chans = d.chans := rfl
@[simp] theorem Dev.setPartner_host (d : Dev) (p : Nat) (x : Partner) : (d.setPartner p x).host = d.host := rfl
@[simp] theorem Dev.setPartner_apply (d : Dev) (p : Nat) (x : Partner) : (d.setPartner p x).apply = d.apply := rfl
@[simp] theorem Dev.setPartner_ras (d : Dev) (p : Nat) (x : Partner) : (d.setPartner p x).ras = d.ras := rfl
@[simp] theorem Dev.setPartner_power (d : Dev) (p : Nat) (x : Partner) : (d.setPartner p x).power = d.power := rfl
@[simp] theorem Dev.setPartner_casks (d : Dev) (p : Nat) (x : Partner) : (d.setPartner p x).casks = d.casks := rfl
@[simp] theorem Dev.setPartner_stamps (d : Dev) (p : Nat) (x : Partner) : (d.setPartner p x).stamps = d.stamps := rfl
@[simp] theorem Dev.setPartner_moves (d : Dev) (p : Nat) (x : Partner) : (d.setPartner p x).moves = d.moves := rfl
@[simp] theorem Dev.setPartner_answer (d : Dev) (p : Nat) (x : Partner) : (d.setPartner p x).answer = d.answer := rfl

@[simp] theorem Dev.setDiePower_free (d : Dev) (n : Nat) (x : DiePower) : (d.setDiePower n x).free = d.free := rfl
@[simp] theorem Dev.setDiePower_pins (d : Dev) (n : Nat) (x : DiePower) : (d.setDiePower n x).pins = d.pins := rfl
@[simp] theorem Dev.setDiePower_fuses (d : Dev) (n : Nat) (x : DiePower) : (d.setDiePower n x).fuses = d.fuses := rfl
@[simp] theorem Dev.setDiePower_flash (d : Dev) (n : Nat) (x : DiePower) : (d.setDiePower n x).flash = d.flash := rfl
@[simp] theorem Dev.setDiePower_sec (d : Dev) (n : Nat) (x : DiePower) : (d.setDiePower n x).sec = d.sec := rfl
@[simp] theorem Dev.setDiePower_blk (d : Dev) (n : Nat) (x : DiePower) : (d.setDiePower n x).blk = d.blk := rfl
@[simp] theorem Dev.setDiePower_mirror (d : Dev) (n : Nat) (x : DiePower) : (d.setDiePower n x).mirror = d.mirror := rfl
@[simp] theorem Dev.setDiePower_latch (d : Dev) (n : Nat) (x : DiePower) : (d.setDiePower n x).latch = d.latch := rfl
@[simp] theorem Dev.setDiePower_islands (d : Dev) (n : Nat) (x : DiePower) : (d.setDiePower n x).islands = d.islands := rfl
@[simp] theorem Dev.setDiePower_crossings (d : Dev) (n : Nat) (x : DiePower) : (d.setDiePower n x).crossings = d.crossings := rfl
@[simp] theorem Dev.setDiePower_cores (d : Dev) (n : Nat) (x : DiePower) : (d.setDiePower n x).cores = d.cores := rfl
@[simp] theorem Dev.setDiePower_clusters (d : Dev) (n : Nat) (x : DiePower) : (d.setDiePower n x).clusters = d.clusters := rfl
@[simp] theorem Dev.setDiePower_ctxs (d : Dev) (n : Nat) (x : DiePower) : (d.setDiePower n x).ctxs = d.ctxs := rfl
@[simp] theorem Dev.setDiePower_objs (d : Dev) (n : Nat) (x : DiePower) : (d.setDiePower n x).objs = d.objs := rfl
@[simp] theorem Dev.setDiePower_nextObj (d : Dev) (n : Nat) (x : DiePower) : (d.setDiePower n x).nextObj = d.nextObj := rfl
@[simp] theorem Dev.setDiePower_pool (d : Dev) (n : Nat) (x : DiePower) : (d.setDiePower n x).pool = d.pool := rfl
@[simp] theorem Dev.setDiePower_swapUsed (d : Dev) (n : Nat) (x : DiePower) : (d.setDiePower n x).swapUsed = d.swapUsed := rfl
@[simp] theorem Dev.setDiePower_hbm (d : Dev) (n : Nat) (x : DiePower) : (d.setDiePower n x).hbm = d.hbm := rfl
@[simp] theorem Dev.setDiePower_undef (d : Dev) (n : Nat) (x : DiePower) : (d.setDiePower n x).undef = d.undef := rfl
@[simp] theorem Dev.setDiePower_hostMem (d : Dev) (n : Nat) (x : DiePower) : (d.setDiePower n x).hostMem = d.hostMem := rfl
@[simp] theorem Dev.setDiePower_windows (d : Dev) (n : Nat) (x : DiePower) : (d.setDiePower n x).windows = d.windows := rfl
@[simp] theorem Dev.setDiePower_ports (d : Dev) (n : Nat) (x : DiePower) : (d.setDiePower n x).ports = d.ports := rfl
@[simp] theorem Dev.setDiePower_chans (d : Dev) (n : Nat) (x : DiePower) : (d.setDiePower n x).chans = d.chans := rfl
@[simp] theorem Dev.setDiePower_host (d : Dev) (n : Nat) (x : DiePower) : (d.setDiePower n x).host = d.host := rfl
@[simp] theorem Dev.setDiePower_apply (d : Dev) (n : Nat) (x : DiePower) : (d.setDiePower n x).apply = d.apply := rfl
@[simp] theorem Dev.setDiePower_ras (d : Dev) (n : Nat) (x : DiePower) : (d.setDiePower n x).ras = d.ras := rfl
@[simp] theorem Dev.setDiePower_casks (d : Dev) (n : Nat) (x : DiePower) : (d.setDiePower n x).casks = d.casks := rfl
@[simp] theorem Dev.setDiePower_stamps (d : Dev) (n : Nat) (x : DiePower) : (d.setDiePower n x).stamps = d.stamps := rfl
@[simp] theorem Dev.setDiePower_moves (d : Dev) (n : Nat) (x : DiePower) : (d.setDiePower n x).moves = d.moves := rfl
@[simp] theorem Dev.setDiePower_answer (d : Dev) (n : Nat) (x : DiePower) : (d.setDiePower n x).answer = d.answer := rfl

@[simp] theorem Dev.setIsland_free (d : Dev) (i : Nat) (x : IslSt) : (d.setIsland i x).free = d.free := rfl
@[simp] theorem Dev.setIsland_pins (d : Dev) (i : Nat) (x : IslSt) : (d.setIsland i x).pins = d.pins := rfl
@[simp] theorem Dev.setIsland_fuses (d : Dev) (i : Nat) (x : IslSt) : (d.setIsland i x).fuses = d.fuses := rfl
@[simp] theorem Dev.setIsland_flash (d : Dev) (i : Nat) (x : IslSt) : (d.setIsland i x).flash = d.flash := rfl
@[simp] theorem Dev.setIsland_sec (d : Dev) (i : Nat) (x : IslSt) : (d.setIsland i x).sec = d.sec := rfl
@[simp] theorem Dev.setIsland_blk (d : Dev) (i : Nat) (x : IslSt) : (d.setIsland i x).blk = d.blk := rfl
@[simp] theorem Dev.setIsland_mirror (d : Dev) (i : Nat) (x : IslSt) : (d.setIsland i x).mirror = d.mirror := rfl
@[simp] theorem Dev.setIsland_latch (d : Dev) (i : Nat) (x : IslSt) : (d.setIsland i x).latch = d.latch := rfl
@[simp] theorem Dev.setIsland_crossings (d : Dev) (i : Nat) (x : IslSt) : (d.setIsland i x).crossings = d.crossings := rfl
@[simp] theorem Dev.setIsland_cores (d : Dev) (i : Nat) (x : IslSt) : (d.setIsland i x).cores = d.cores := rfl
@[simp] theorem Dev.setIsland_clusters (d : Dev) (i : Nat) (x : IslSt) : (d.setIsland i x).clusters = d.clusters := rfl
@[simp] theorem Dev.setIsland_ctxs (d : Dev) (i : Nat) (x : IslSt) : (d.setIsland i x).ctxs = d.ctxs := rfl
@[simp] theorem Dev.setIsland_objs (d : Dev) (i : Nat) (x : IslSt) : (d.setIsland i x).objs = d.objs := rfl
@[simp] theorem Dev.setIsland_nextObj (d : Dev) (i : Nat) (x : IslSt) : (d.setIsland i x).nextObj = d.nextObj := rfl
@[simp] theorem Dev.setIsland_pool (d : Dev) (i : Nat) (x : IslSt) : (d.setIsland i x).pool = d.pool := rfl
@[simp] theorem Dev.setIsland_swapUsed (d : Dev) (i : Nat) (x : IslSt) : (d.setIsland i x).swapUsed = d.swapUsed := rfl
@[simp] theorem Dev.setIsland_hbm (d : Dev) (i : Nat) (x : IslSt) : (d.setIsland i x).hbm = d.hbm := rfl
@[simp] theorem Dev.setIsland_undef (d : Dev) (i : Nat) (x : IslSt) : (d.setIsland i x).undef = d.undef := rfl
@[simp] theorem Dev.setIsland_hostMem (d : Dev) (i : Nat) (x : IslSt) : (d.setIsland i x).hostMem = d.hostMem := rfl
@[simp] theorem Dev.setIsland_windows (d : Dev) (i : Nat) (x : IslSt) : (d.setIsland i x).windows = d.windows := rfl
@[simp] theorem Dev.setIsland_ports (d : Dev) (i : Nat) (x : IslSt) : (d.setIsland i x).ports = d.ports := rfl
@[simp] theorem Dev.setIsland_chans (d : Dev) (i : Nat) (x : IslSt) : (d.setIsland i x).chans = d.chans := rfl
@[simp] theorem Dev.setIsland_host (d : Dev) (i : Nat) (x : IslSt) : (d.setIsland i x).host = d.host := rfl
@[simp] theorem Dev.setIsland_apply (d : Dev) (i : Nat) (x : IslSt) : (d.setIsland i x).apply = d.apply := rfl
@[simp] theorem Dev.setIsland_ras (d : Dev) (i : Nat) (x : IslSt) : (d.setIsland i x).ras = d.ras := rfl
@[simp] theorem Dev.setIsland_power (d : Dev) (i : Nat) (x : IslSt) : (d.setIsland i x).power = d.power := rfl
@[simp] theorem Dev.setIsland_casks (d : Dev) (i : Nat) (x : IslSt) : (d.setIsland i x).casks = d.casks := rfl
@[simp] theorem Dev.setIsland_stamps (d : Dev) (i : Nat) (x : IslSt) : (d.setIsland i x).stamps = d.stamps := rfl
@[simp] theorem Dev.setIsland_moves (d : Dev) (i : Nat) (x : IslSt) : (d.setIsland i x).moves = d.moves := rfl
@[simp] theorem Dev.setIsland_answer (d : Dev) (i : Nat) (x : IslSt) : (d.setIsland i x).answer = d.answer := rfl

@[simp] theorem Dev.setCross_free (d : Dev) (a b : Nat) (x : Cross) : (d.setCross a b x).free = d.free := rfl
@[simp] theorem Dev.setCross_pins (d : Dev) (a b : Nat) (x : Cross) : (d.setCross a b x).pins = d.pins := rfl
@[simp] theorem Dev.setCross_fuses (d : Dev) (a b : Nat) (x : Cross) : (d.setCross a b x).fuses = d.fuses := rfl
@[simp] theorem Dev.setCross_flash (d : Dev) (a b : Nat) (x : Cross) : (d.setCross a b x).flash = d.flash := rfl
@[simp] theorem Dev.setCross_sec (d : Dev) (a b : Nat) (x : Cross) : (d.setCross a b x).sec = d.sec := rfl
@[simp] theorem Dev.setCross_blk (d : Dev) (a b : Nat) (x : Cross) : (d.setCross a b x).blk = d.blk := rfl
@[simp] theorem Dev.setCross_mirror (d : Dev) (a b : Nat) (x : Cross) : (d.setCross a b x).mirror = d.mirror := rfl
@[simp] theorem Dev.setCross_latch (d : Dev) (a b : Nat) (x : Cross) : (d.setCross a b x).latch = d.latch := rfl
@[simp] theorem Dev.setCross_islands (d : Dev) (a b : Nat) (x : Cross) : (d.setCross a b x).islands = d.islands := rfl
@[simp] theorem Dev.setCross_cores (d : Dev) (a b : Nat) (x : Cross) : (d.setCross a b x).cores = d.cores := rfl
@[simp] theorem Dev.setCross_clusters (d : Dev) (a b : Nat) (x : Cross) : (d.setCross a b x).clusters = d.clusters := rfl
@[simp] theorem Dev.setCross_ctxs (d : Dev) (a b : Nat) (x : Cross) : (d.setCross a b x).ctxs = d.ctxs := rfl
@[simp] theorem Dev.setCross_objs (d : Dev) (a b : Nat) (x : Cross) : (d.setCross a b x).objs = d.objs := rfl
@[simp] theorem Dev.setCross_nextObj (d : Dev) (a b : Nat) (x : Cross) : (d.setCross a b x).nextObj = d.nextObj := rfl
@[simp] theorem Dev.setCross_pool (d : Dev) (a b : Nat) (x : Cross) : (d.setCross a b x).pool = d.pool := rfl
@[simp] theorem Dev.setCross_swapUsed (d : Dev) (a b : Nat) (x : Cross) : (d.setCross a b x).swapUsed = d.swapUsed := rfl
@[simp] theorem Dev.setCross_hbm (d : Dev) (a b : Nat) (x : Cross) : (d.setCross a b x).hbm = d.hbm := rfl
@[simp] theorem Dev.setCross_undef (d : Dev) (a b : Nat) (x : Cross) : (d.setCross a b x).undef = d.undef := rfl
@[simp] theorem Dev.setCross_hostMem (d : Dev) (a b : Nat) (x : Cross) : (d.setCross a b x).hostMem = d.hostMem := rfl
@[simp] theorem Dev.setCross_windows (d : Dev) (a b : Nat) (x : Cross) : (d.setCross a b x).windows = d.windows := rfl
@[simp] theorem Dev.setCross_ports (d : Dev) (a b : Nat) (x : Cross) : (d.setCross a b x).ports = d.ports := rfl
@[simp] theorem Dev.setCross_chans (d : Dev) (a b : Nat) (x : Cross) : (d.setCross a b x).chans = d.chans := rfl
@[simp] theorem Dev.setCross_host (d : Dev) (a b : Nat) (x : Cross) : (d.setCross a b x).host = d.host := rfl
@[simp] theorem Dev.setCross_apply (d : Dev) (a b : Nat) (x : Cross) : (d.setCross a b x).apply = d.apply := rfl
@[simp] theorem Dev.setCross_ras (d : Dev) (a b : Nat) (x : Cross) : (d.setCross a b x).ras = d.ras := rfl
@[simp] theorem Dev.setCross_power (d : Dev) (a b : Nat) (x : Cross) : (d.setCross a b x).power = d.power := rfl
@[simp] theorem Dev.setCross_casks (d : Dev) (a b : Nat) (x : Cross) : (d.setCross a b x).casks = d.casks := rfl
@[simp] theorem Dev.setCross_stamps (d : Dev) (a b : Nat) (x : Cross) : (d.setCross a b x).stamps = d.stamps := rfl
@[simp] theorem Dev.setCross_moves (d : Dev) (a b : Nat) (x : Cross) : (d.setCross a b x).moves = d.moves := rfl
@[simp] theorem Dev.setCross_answer (d : Dev) (a b : Nat) (x : Cross) : (d.setCross a b x).answer = d.answer := rfl

@[simp] theorem Dev.setQueue_free (d : Dev) (q : Nat) (x : Queue) : (d.setQueue q x).free = d.free := rfl
@[simp] theorem Dev.setQueue_pins (d : Dev) (q : Nat) (x : Queue) : (d.setQueue q x).pins = d.pins := rfl
@[simp] theorem Dev.setQueue_fuses (d : Dev) (q : Nat) (x : Queue) : (d.setQueue q x).fuses = d.fuses := rfl
@[simp] theorem Dev.setQueue_flash (d : Dev) (q : Nat) (x : Queue) : (d.setQueue q x).flash = d.flash := rfl
@[simp] theorem Dev.setQueue_sec (d : Dev) (q : Nat) (x : Queue) : (d.setQueue q x).sec = d.sec := rfl
@[simp] theorem Dev.setQueue_blk (d : Dev) (q : Nat) (x : Queue) : (d.setQueue q x).blk = d.blk := rfl
@[simp] theorem Dev.setQueue_mirror (d : Dev) (q : Nat) (x : Queue) : (d.setQueue q x).mirror = d.mirror := rfl
@[simp] theorem Dev.setQueue_latch (d : Dev) (q : Nat) (x : Queue) : (d.setQueue q x).latch = d.latch := rfl
@[simp] theorem Dev.setQueue_islands (d : Dev) (q : Nat) (x : Queue) : (d.setQueue q x).islands = d.islands := rfl
@[simp] theorem Dev.setQueue_crossings (d : Dev) (q : Nat) (x : Queue) : (d.setQueue q x).crossings = d.crossings := rfl
@[simp] theorem Dev.setQueue_cores (d : Dev) (q : Nat) (x : Queue) : (d.setQueue q x).cores = d.cores := rfl
@[simp] theorem Dev.setQueue_clusters (d : Dev) (q : Nat) (x : Queue) : (d.setQueue q x).clusters = d.clusters := rfl
@[simp] theorem Dev.setQueue_ctxs (d : Dev) (q : Nat) (x : Queue) : (d.setQueue q x).ctxs = d.ctxs := rfl
@[simp] theorem Dev.setQueue_objs (d : Dev) (q : Nat) (x : Queue) : (d.setQueue q x).objs = d.objs := rfl
@[simp] theorem Dev.setQueue_nextObj (d : Dev) (q : Nat) (x : Queue) : (d.setQueue q x).nextObj = d.nextObj := rfl
@[simp] theorem Dev.setQueue_pool (d : Dev) (q : Nat) (x : Queue) : (d.setQueue q x).pool = d.pool := rfl
@[simp] theorem Dev.setQueue_swapUsed (d : Dev) (q : Nat) (x : Queue) : (d.setQueue q x).swapUsed = d.swapUsed := rfl
@[simp] theorem Dev.setQueue_hbm (d : Dev) (q : Nat) (x : Queue) : (d.setQueue q x).hbm = d.hbm := rfl
@[simp] theorem Dev.setQueue_undef (d : Dev) (q : Nat) (x : Queue) : (d.setQueue q x).undef = d.undef := rfl
@[simp] theorem Dev.setQueue_hostMem (d : Dev) (q : Nat) (x : Queue) : (d.setQueue q x).hostMem = d.hostMem := rfl
@[simp] theorem Dev.setQueue_windows (d : Dev) (q : Nat) (x : Queue) : (d.setQueue q x).windows = d.windows := rfl
@[simp] theorem Dev.setQueue_ports (d : Dev) (q : Nat) (x : Queue) : (d.setQueue q x).ports = d.ports := rfl
@[simp] theorem Dev.setQueue_chans (d : Dev) (q : Nat) (x : Queue) : (d.setQueue q x).chans = d.chans := rfl
@[simp] theorem Dev.setQueue_apply (d : Dev) (q : Nat) (x : Queue) : (d.setQueue q x).apply = d.apply := rfl
@[simp] theorem Dev.setQueue_ras (d : Dev) (q : Nat) (x : Queue) : (d.setQueue q x).ras = d.ras := rfl
@[simp] theorem Dev.setQueue_power (d : Dev) (q : Nat) (x : Queue) : (d.setQueue q x).power = d.power := rfl
@[simp] theorem Dev.setQueue_casks (d : Dev) (q : Nat) (x : Queue) : (d.setQueue q x).casks = d.casks := rfl
@[simp] theorem Dev.setQueue_stamps (d : Dev) (q : Nat) (x : Queue) : (d.setQueue q x).stamps = d.stamps := rfl
@[simp] theorem Dev.setQueue_moves (d : Dev) (q : Nat) (x : Queue) : (d.setQueue q x).moves = d.moves := rfl
@[simp] theorem Dev.setQueue_answer (d : Dev) (q : Nat) (x : Queue) : (d.setQueue q x).answer = d.answer := rfl

@[simp] theorem Dev.rset_free (d : Dev) (k : Nat) (v : W32) : (d.rset k v).free = d.free := rfl
@[simp] theorem Dev.rset_pins (d : Dev) (k : Nat) (v : W32) : (d.rset k v).pins = d.pins := rfl
@[simp] theorem Dev.rset_fuses (d : Dev) (k : Nat) (v : W32) : (d.rset k v).fuses = d.fuses := rfl
@[simp] theorem Dev.rset_flash (d : Dev) (k : Nat) (v : W32) : (d.rset k v).flash = d.flash := rfl
@[simp] theorem Dev.rset_sec (d : Dev) (k : Nat) (v : W32) : (d.rset k v).sec = d.sec := rfl
@[simp] theorem Dev.rset_mirror (d : Dev) (k : Nat) (v : W32) : (d.rset k v).mirror = d.mirror := rfl
@[simp] theorem Dev.rset_latch (d : Dev) (k : Nat) (v : W32) : (d.rset k v).latch = d.latch := rfl
@[simp] theorem Dev.rset_islands (d : Dev) (k : Nat) (v : W32) : (d.rset k v).islands = d.islands := rfl
@[simp] theorem Dev.rset_crossings (d : Dev) (k : Nat) (v : W32) : (d.rset k v).crossings = d.crossings := rfl
@[simp] theorem Dev.rset_cores (d : Dev) (k : Nat) (v : W32) : (d.rset k v).cores = d.cores := rfl
@[simp] theorem Dev.rset_clusters (d : Dev) (k : Nat) (v : W32) : (d.rset k v).clusters = d.clusters := rfl
@[simp] theorem Dev.rset_ctxs (d : Dev) (k : Nat) (v : W32) : (d.rset k v).ctxs = d.ctxs := rfl
@[simp] theorem Dev.rset_objs (d : Dev) (k : Nat) (v : W32) : (d.rset k v).objs = d.objs := rfl
@[simp] theorem Dev.rset_nextObj (d : Dev) (k : Nat) (v : W32) : (d.rset k v).nextObj = d.nextObj := rfl
@[simp] theorem Dev.rset_pool (d : Dev) (k : Nat) (v : W32) : (d.rset k v).pool = d.pool := rfl
@[simp] theorem Dev.rset_swapUsed (d : Dev) (k : Nat) (v : W32) : (d.rset k v).swapUsed = d.swapUsed := rfl
@[simp] theorem Dev.rset_hbm (d : Dev) (k : Nat) (v : W32) : (d.rset k v).hbm = d.hbm := rfl
@[simp] theorem Dev.rset_undef (d : Dev) (k : Nat) (v : W32) : (d.rset k v).undef = d.undef := rfl
@[simp] theorem Dev.rset_hostMem (d : Dev) (k : Nat) (v : W32) : (d.rset k v).hostMem = d.hostMem := rfl
@[simp] theorem Dev.rset_windows (d : Dev) (k : Nat) (v : W32) : (d.rset k v).windows = d.windows := rfl
@[simp] theorem Dev.rset_ports (d : Dev) (k : Nat) (v : W32) : (d.rset k v).ports = d.ports := rfl
@[simp] theorem Dev.rset_chans (d : Dev) (k : Nat) (v : W32) : (d.rset k v).chans = d.chans := rfl
@[simp] theorem Dev.rset_host (d : Dev) (k : Nat) (v : W32) : (d.rset k v).host = d.host := rfl
@[simp] theorem Dev.rset_apply (d : Dev) (k : Nat) (v : W32) : (d.rset k v).apply = d.apply := rfl
@[simp] theorem Dev.rset_ras (d : Dev) (k : Nat) (v : W32) : (d.rset k v).ras = d.ras := rfl
@[simp] theorem Dev.rset_power (d : Dev) (k : Nat) (v : W32) : (d.rset k v).power = d.power := rfl
@[simp] theorem Dev.rset_casks (d : Dev) (k : Nat) (v : W32) : (d.rset k v).casks = d.casks := rfl
@[simp] theorem Dev.rset_stamps (d : Dev) (k : Nat) (v : W32) : (d.rset k v).stamps = d.stamps := rfl
@[simp] theorem Dev.rset_moves (d : Dev) (k : Nat) (v : W32) : (d.rset k v).moves = d.moves := rfl
@[simp] theorem Dev.rset_answer (d : Dev) (k : Nat) (v : W32) : (d.rset k v).answer = d.answer := rfl

@[simp] theorem Dev.drew_pins (d : Dev) : d.drew.pins = d.pins := rfl
@[simp] theorem Dev.drew_fuses (d : Dev) : d.drew.fuses = d.fuses := rfl
@[simp] theorem Dev.drew_flash (d : Dev) : d.drew.flash = d.flash := rfl
@[simp] theorem Dev.drew_sec (d : Dev) : d.drew.sec = d.sec := rfl
@[simp] theorem Dev.drew_blk (d : Dev) : d.drew.blk = d.blk := rfl
@[simp] theorem Dev.drew_mirror (d : Dev) : d.drew.mirror = d.mirror := rfl
@[simp] theorem Dev.drew_latch (d : Dev) : d.drew.latch = d.latch := rfl
@[simp] theorem Dev.drew_islands (d : Dev) : d.drew.islands = d.islands := rfl
@[simp] theorem Dev.drew_crossings (d : Dev) : d.drew.crossings = d.crossings := rfl
@[simp] theorem Dev.drew_cores (d : Dev) : d.drew.cores = d.cores := rfl
@[simp] theorem Dev.drew_clusters (d : Dev) : d.drew.clusters = d.clusters := rfl
@[simp] theorem Dev.drew_ctxs (d : Dev) : d.drew.ctxs = d.ctxs := rfl
@[simp] theorem Dev.drew_objs (d : Dev) : d.drew.objs = d.objs := rfl
@[simp] theorem Dev.drew_nextObj (d : Dev) : d.drew.nextObj = d.nextObj := rfl
@[simp] theorem Dev.drew_pool (d : Dev) : d.drew.pool = d.pool := rfl
@[simp] theorem Dev.drew_swapUsed (d : Dev) : d.drew.swapUsed = d.swapUsed := rfl
@[simp] theorem Dev.drew_hbm (d : Dev) : d.drew.hbm = d.hbm := rfl
@[simp] theorem Dev.drew_undef (d : Dev) : d.drew.undef = d.undef := rfl
@[simp] theorem Dev.drew_hostMem (d : Dev) : d.drew.hostMem = d.hostMem := rfl
@[simp] theorem Dev.drew_windows (d : Dev) : d.drew.windows = d.windows := rfl
@[simp] theorem Dev.drew_ports (d : Dev) : d.drew.ports = d.ports := rfl
@[simp] theorem Dev.drew_chans (d : Dev) : d.drew.chans = d.chans := rfl
@[simp] theorem Dev.drew_host (d : Dev) : d.drew.host = d.host := rfl
@[simp] theorem Dev.drew_apply (d : Dev) : d.drew.apply = d.apply := rfl
@[simp] theorem Dev.drew_ras (d : Dev) : d.drew.ras = d.ras := rfl
@[simp] theorem Dev.drew_power (d : Dev) : d.drew.power = d.power := rfl
@[simp] theorem Dev.drew_casks (d : Dev) : d.drew.casks = d.casks := rfl
@[simp] theorem Dev.drew_stamps (d : Dev) : d.drew.stamps = d.stamps := rfl
@[simp] theorem Dev.drew_moves (d : Dev) : d.drew.moves = d.moves := rfl
@[simp] theorem Dev.drew_answer (d : Dev) : d.drew.answer = d.answer := rfl

@[simp] theorem Dev.stamp_free (d : Dev) (a b c e : Nat) : (d.stamp a b c e).free = d.free := rfl
@[simp] theorem Dev.stamp_pins (d : Dev) (a b c e : Nat) : (d.stamp a b c e).pins = d.pins := rfl
@[simp] theorem Dev.stamp_fuses (d : Dev) (a b c e : Nat) : (d.stamp a b c e).fuses = d.fuses := rfl
@[simp] theorem Dev.stamp_flash (d : Dev) (a b c e : Nat) : (d.stamp a b c e).flash = d.flash := rfl
@[simp] theorem Dev.stamp_sec (d : Dev) (a b c e : Nat) : (d.stamp a b c e).sec = d.sec := rfl
@[simp] theorem Dev.stamp_blk (d : Dev) (a b c e : Nat) : (d.stamp a b c e).blk = d.blk := rfl
@[simp] theorem Dev.stamp_mirror (d : Dev) (a b c e : Nat) : (d.stamp a b c e).mirror = d.mirror := rfl
@[simp] theorem Dev.stamp_latch (d : Dev) (a b c e : Nat) : (d.stamp a b c e).latch = d.latch := rfl
@[simp] theorem Dev.stamp_islands (d : Dev) (a b c e : Nat) : (d.stamp a b c e).islands = d.islands := rfl
@[simp] theorem Dev.stamp_crossings (d : Dev) (a b c e : Nat) : (d.stamp a b c e).crossings = d.crossings := rfl
@[simp] theorem Dev.stamp_cores (d : Dev) (a b c e : Nat) : (d.stamp a b c e).cores = d.cores := rfl
@[simp] theorem Dev.stamp_clusters (d : Dev) (a b c e : Nat) : (d.stamp a b c e).clusters = d.clusters := rfl
@[simp] theorem Dev.stamp_ctxs (d : Dev) (a b c e : Nat) : (d.stamp a b c e).ctxs = d.ctxs := rfl
@[simp] theorem Dev.stamp_objs (d : Dev) (a b c e : Nat) : (d.stamp a b c e).objs = d.objs := rfl
@[simp] theorem Dev.stamp_nextObj (d : Dev) (a b c e : Nat) : (d.stamp a b c e).nextObj = d.nextObj := rfl
@[simp] theorem Dev.stamp_pool (d : Dev) (a b c e : Nat) : (d.stamp a b c e).pool = d.pool := rfl
@[simp] theorem Dev.stamp_swapUsed (d : Dev) (a b c e : Nat) : (d.stamp a b c e).swapUsed = d.swapUsed := rfl
@[simp] theorem Dev.stamp_hbm (d : Dev) (a b c e : Nat) : (d.stamp a b c e).hbm = d.hbm := rfl
@[simp] theorem Dev.stamp_undef (d : Dev) (a b c e : Nat) : (d.stamp a b c e).undef = d.undef := rfl
@[simp] theorem Dev.stamp_hostMem (d : Dev) (a b c e : Nat) : (d.stamp a b c e).hostMem = d.hostMem := rfl
@[simp] theorem Dev.stamp_windows (d : Dev) (a b c e : Nat) : (d.stamp a b c e).windows = d.windows := rfl
@[simp] theorem Dev.stamp_ports (d : Dev) (a b c e : Nat) : (d.stamp a b c e).ports = d.ports := rfl
@[simp] theorem Dev.stamp_chans (d : Dev) (a b c e : Nat) : (d.stamp a b c e).chans = d.chans := rfl
@[simp] theorem Dev.stamp_host (d : Dev) (a b c e : Nat) : (d.stamp a b c e).host = d.host := rfl
@[simp] theorem Dev.stamp_apply (d : Dev) (a b c e : Nat) : (d.stamp a b c e).apply = d.apply := rfl
@[simp] theorem Dev.stamp_ras (d : Dev) (a b c e : Nat) : (d.stamp a b c e).ras = d.ras := rfl
@[simp] theorem Dev.stamp_power (d : Dev) (a b c e : Nat) : (d.stamp a b c e).power = d.power := rfl
@[simp] theorem Dev.stamp_casks (d : Dev) (a b c e : Nat) : (d.stamp a b c e).casks = d.casks := rfl
@[simp] theorem Dev.stamp_moves (d : Dev) (a b c e : Nat) : (d.stamp a b c e).moves = d.moves := rfl
@[simp] theorem Dev.stamp_answer (d : Dev) (a b c e : Nat) : (d.stamp a b c e).answer = d.answer := rfl

/-! ## What an update sets -/

@[simp] theorem Dev.core_setCore (d : Dev) (n : Nat) (c : Core) : (d.setCore n c).core n = c := Laws.tget_tset_self _ _ _ _
@[simp] theorem Dev.cluster_setCluster (d : Dev) (j : Nat) (c : Cluster) : (d.setCluster j c).cluster j = c :=
  Laws.tget_tset_self _ _ _ _
@[simp] theorem Dev.ctx_setCtx (d : Dev) (x : Nat) (c : Ctx) : (d.setCtx x c).ctx x = c := Laws.tget_tset_self _ _ _ _
@[simp] theorem Dev.port_setPort (d : Dev) (p : Nat) (q : Port) : (d.setPort p q).port p = q := Laws.tget_tset_self _ _ _ _
@[simp] theorem Dev.window_setWindow (d : Dev) (w : Nat) (x : Window) : (d.setWindow w x).window w = x :=
  Laws.tget_tset_self _ _ _ _
@[simp] theorem Dev.chan_setChan (d : Dev) (c : Nat) (x : Chan) : (d.setChan c x).chan c = x := Laws.tget_tset_self _ _ _ _
@[simp] theorem Dev.partner_setPartner (d : Dev) (p : Nat) (x : Partner) : (d.setPartner p x).partner p = x :=
  Laws.tget_tset_self _ _ _ _
@[simp] theorem Dev.diePower_setDiePower (d : Dev) (n : Nat) (x : DiePower) : (d.setDiePower n x).diePower n = x :=
  Laws.tget_tset_self _ _ _ _
@[simp] theorem Dev.island_setIsland (d : Dev) (i : Nat) (x : IslSt) : (d.setIsland i x).island i = x :=
  Laws.tget_tset_self _ _ _ _
@[simp] theorem Dev.cross_setCross (d : Dev) (a b : Nat) (x : Cross) : (d.setCross a b x).cross a b = x :=
  Laws.tget_tset_self _ _ _ _
@[simp] theorem Dev.queue_setQueue (d : Dev) (q : Nat) (x : Queue) : (d.setQueue q x).queue q = x :=
  Laws.tget_tset_self _ _ _ _
@[simp] theorem Dev.rget_rset (d : Dev) (k : Nat) (v : W32) : (d.rset k v).rget k = v := by simp [Dev.rget, Dev.rset]

/-! ## The other entries of the table it writes -/

theorem Dev.core_setCore_ne (d : Dev) {m n : Nat} (c : Core) (h : m ≠ n) : (d.setCore n c).core m = d.core m :=
  Laws.tget_tset_ne _ _ _ h
theorem Dev.cluster_setCluster_ne (d : Dev) {m n : Nat} (c : Cluster) (h : m ≠ n) :
    (d.setCluster n c).cluster m = d.cluster m := Laws.tget_tset_ne _ _ _ h
theorem Dev.ctx_setCtx_ne (d : Dev) {m n : Nat} (c : Ctx) (h : m ≠ n) : (d.setCtx n c).ctx m = d.ctx m :=
  Laws.tget_tset_ne _ _ _ h
theorem Dev.port_setPort_ne (d : Dev) {m n : Nat} (q : Port) (h : m ≠ n) : (d.setPort n q).port m = d.port m :=
  Laws.tget_tset_ne _ _ _ h
theorem Dev.island_setIsland_ne (d : Dev) {m n : Nat} (x : IslSt) (h : m ≠ n) :
    (d.setIsland n x).island m = d.island m := Laws.tget_tset_ne _ _ _ h
theorem Dev.queue_setQueue_ne (d : Dev) {m n : Nat} (x : Queue) (h : m ≠ n) : (d.setQueue n x).queue m = d.queue m :=
  Laws.tget_tset_ne _ _ _ h
theorem Dev.rget_rset_ne (d : Dev) {j k : Nat} (v : W32) (h : j ≠ k) : (d.rset k v).rget j = d.rget j := by
  simp [Dev.rget, Dev.rset, Laws.tget?_tset_ne d.blk v h]

/-! ## Units read through updates of other tables -/

@[simp] theorem Dev.cluster_setCore (d : Dev) (n : Nat) (c : Core) (m : Nat) : (d.setCore n c).cluster m = d.cluster m := rfl
@[simp] theorem Dev.ctx_setCore (d : Dev) (n : Nat) (c : Core) (m : Nat) : (d.setCore n c).ctx m = d.ctx m := rfl
@[simp] theorem Dev.port_setCore (d : Dev) (n : Nat) (c : Core) (m : Nat) : (d.setCore n c).port m = d.port m := rfl
@[simp] theorem Dev.window_setCore (d : Dev) (n : Nat) (c : Core) (m : Nat) : (d.setCore n c).window m = d.window m := rfl
@[simp] theorem Dev.chan_setCore (d : Dev) (n : Nat) (c : Core) (m : Nat) : (d.setCore n c).chan m = d.chan m := rfl
@[simp] theorem Dev.partner_setCore (d : Dev) (n : Nat) (c : Core) (m : Nat) : (d.setCore n c).partner m = d.partner m := rfl
@[simp] theorem Dev.island_setCore (d : Dev) (n : Nat) (c : Core) (m : Nat) : (d.setCore n c).island m = d.island m := rfl
@[simp] theorem Dev.queue_setCore (d : Dev) (n : Nat) (c : Core) (m : Nat) : (d.setCore n c).queue m = d.queue m := rfl
@[simp] theorem Dev.rget_setCore (d : Dev) (n : Nat) (c : Core) (m : Nat) : (d.setCore n c).rget m = d.rget m := rfl

@[simp] theorem Dev.core_setCluster (d : Dev) (j : Nat) (c : Cluster) (m : Nat) : (d.setCluster j c).core m = d.core m := rfl
@[simp] theorem Dev.ctx_setCluster (d : Dev) (j : Nat) (c : Cluster) (m : Nat) : (d.setCluster j c).ctx m = d.ctx m := rfl
@[simp] theorem Dev.port_setCluster (d : Dev) (j : Nat) (c : Cluster) (m : Nat) : (d.setCluster j c).port m = d.port m := rfl
@[simp] theorem Dev.window_setCluster (d : Dev) (j : Nat) (c : Cluster) (m : Nat) : (d.setCluster j c).window m = d.window m := rfl
@[simp] theorem Dev.chan_setCluster (d : Dev) (j : Nat) (c : Cluster) (m : Nat) : (d.setCluster j c).chan m = d.chan m := rfl
@[simp] theorem Dev.partner_setCluster (d : Dev) (j : Nat) (c : Cluster) (m : Nat) : (d.setCluster j c).partner m = d.partner m := rfl
@[simp] theorem Dev.island_setCluster (d : Dev) (j : Nat) (c : Cluster) (m : Nat) : (d.setCluster j c).island m = d.island m := rfl
@[simp] theorem Dev.queue_setCluster (d : Dev) (j : Nat) (c : Cluster) (m : Nat) : (d.setCluster j c).queue m = d.queue m := rfl
@[simp] theorem Dev.rget_setCluster (d : Dev) (j : Nat) (c : Cluster) (m : Nat) : (d.setCluster j c).rget m = d.rget m := rfl

@[simp] theorem Dev.core_setCtx (d : Dev) (x : Nat) (c : Ctx) (m : Nat) : (d.setCtx x c).core m = d.core m := rfl
@[simp] theorem Dev.cluster_setCtx (d : Dev) (x : Nat) (c : Ctx) (m : Nat) : (d.setCtx x c).cluster m = d.cluster m := rfl
@[simp] theorem Dev.port_setCtx (d : Dev) (x : Nat) (c : Ctx) (m : Nat) : (d.setCtx x c).port m = d.port m := rfl
@[simp] theorem Dev.window_setCtx (d : Dev) (x : Nat) (c : Ctx) (m : Nat) : (d.setCtx x c).window m = d.window m := rfl
@[simp] theorem Dev.chan_setCtx (d : Dev) (x : Nat) (c : Ctx) (m : Nat) : (d.setCtx x c).chan m = d.chan m := rfl
@[simp] theorem Dev.partner_setCtx (d : Dev) (x : Nat) (c : Ctx) (m : Nat) : (d.setCtx x c).partner m = d.partner m := rfl
@[simp] theorem Dev.island_setCtx (d : Dev) (x : Nat) (c : Ctx) (m : Nat) : (d.setCtx x c).island m = d.island m := rfl
@[simp] theorem Dev.queue_setCtx (d : Dev) (x : Nat) (c : Ctx) (m : Nat) : (d.setCtx x c).queue m = d.queue m := rfl
@[simp] theorem Dev.rget_setCtx (d : Dev) (x : Nat) (c : Ctx) (m : Nat) : (d.setCtx x c).rget m = d.rget m := rfl

@[simp] theorem Dev.core_setPort (d : Dev) (p : Nat) (q : Port) (m : Nat) : (d.setPort p q).core m = d.core m := rfl
@[simp] theorem Dev.cluster_setPort (d : Dev) (p : Nat) (q : Port) (m : Nat) : (d.setPort p q).cluster m = d.cluster m := rfl
@[simp] theorem Dev.ctx_setPort (d : Dev) (p : Nat) (q : Port) (m : Nat) : (d.setPort p q).ctx m = d.ctx m := rfl
@[simp] theorem Dev.window_setPort (d : Dev) (p : Nat) (q : Port) (m : Nat) : (d.setPort p q).window m = d.window m := rfl
@[simp] theorem Dev.chan_setPort (d : Dev) (p : Nat) (q : Port) (m : Nat) : (d.setPort p q).chan m = d.chan m := rfl
@[simp] theorem Dev.partner_setPort (d : Dev) (p : Nat) (q : Port) (m : Nat) : (d.setPort p q).partner m = d.partner m := rfl
@[simp] theorem Dev.island_setPort (d : Dev) (p : Nat) (q : Port) (m : Nat) : (d.setPort p q).island m = d.island m := rfl
@[simp] theorem Dev.queue_setPort (d : Dev) (p : Nat) (q : Port) (m : Nat) : (d.setPort p q).queue m = d.queue m := rfl
@[simp] theorem Dev.rget_setPort (d : Dev) (p : Nat) (q : Port) (m : Nat) : (d.setPort p q).rget m = d.rget m := rfl

@[simp] theorem Dev.core_setWindow (d : Dev) (w : Nat) (x : Window) (m : Nat) : (d.setWindow w x).core m = d.core m := rfl
@[simp] theorem Dev.cluster_setWindow (d : Dev) (w : Nat) (x : Window) (m : Nat) : (d.setWindow w x).cluster m = d.cluster m := rfl
@[simp] theorem Dev.ctx_setWindow (d : Dev) (w : Nat) (x : Window) (m : Nat) : (d.setWindow w x).ctx m = d.ctx m := rfl
@[simp] theorem Dev.port_setWindow (d : Dev) (w : Nat) (x : Window) (m : Nat) : (d.setWindow w x).port m = d.port m := rfl
@[simp] theorem Dev.chan_setWindow (d : Dev) (w : Nat) (x : Window) (m : Nat) : (d.setWindow w x).chan m = d.chan m := rfl
@[simp] theorem Dev.partner_setWindow (d : Dev) (w : Nat) (x : Window) (m : Nat) : (d.setWindow w x).partner m = d.partner m := rfl
@[simp] theorem Dev.island_setWindow (d : Dev) (w : Nat) (x : Window) (m : Nat) : (d.setWindow w x).island m = d.island m := rfl
@[simp] theorem Dev.queue_setWindow (d : Dev) (w : Nat) (x : Window) (m : Nat) : (d.setWindow w x).queue m = d.queue m := rfl
@[simp] theorem Dev.rget_setWindow (d : Dev) (w : Nat) (x : Window) (m : Nat) : (d.setWindow w x).rget m = d.rget m := rfl

@[simp] theorem Dev.core_setChan (d : Dev) (c : Nat) (x : Chan) (m : Nat) : (d.setChan c x).core m = d.core m := rfl
@[simp] theorem Dev.cluster_setChan (d : Dev) (c : Nat) (x : Chan) (m : Nat) : (d.setChan c x).cluster m = d.cluster m := rfl
@[simp] theorem Dev.ctx_setChan (d : Dev) (c : Nat) (x : Chan) (m : Nat) : (d.setChan c x).ctx m = d.ctx m := rfl
@[simp] theorem Dev.port_setChan (d : Dev) (c : Nat) (x : Chan) (m : Nat) : (d.setChan c x).port m = d.port m := rfl
@[simp] theorem Dev.window_setChan (d : Dev) (c : Nat) (x : Chan) (m : Nat) : (d.setChan c x).window m = d.window m := rfl
@[simp] theorem Dev.partner_setChan (d : Dev) (c : Nat) (x : Chan) (m : Nat) : (d.setChan c x).partner m = d.partner m := rfl
@[simp] theorem Dev.island_setChan (d : Dev) (c : Nat) (x : Chan) (m : Nat) : (d.setChan c x).island m = d.island m := rfl
@[simp] theorem Dev.queue_setChan (d : Dev) (c : Nat) (x : Chan) (m : Nat) : (d.setChan c x).queue m = d.queue m := rfl
@[simp] theorem Dev.rget_setChan (d : Dev) (c : Nat) (x : Chan) (m : Nat) : (d.setChan c x).rget m = d.rget m := rfl

@[simp] theorem Dev.core_setPartner (d : Dev) (p : Nat) (x : Partner) (m : Nat) : (d.setPartner p x).core m = d.core m := rfl
@[simp] theorem Dev.cluster_setPartner (d : Dev) (p : Nat) (x : Partner) (m : Nat) : (d.setPartner p x).cluster m = d.cluster m := rfl
@[simp] theorem Dev.ctx_setPartner (d : Dev) (p : Nat) (x : Partner) (m : Nat) : (d.setPartner p x).ctx m = d.ctx m := rfl
@[simp] theorem Dev.port_setPartner (d : Dev) (p : Nat) (x : Partner) (m : Nat) : (d.setPartner p x).port m = d.port m := rfl
@[simp] theorem Dev.window_setPartner (d : Dev) (p : Nat) (x : Partner) (m : Nat) : (d.setPartner p x).window m = d.window m := rfl
@[simp] theorem Dev.chan_setPartner (d : Dev) (p : Nat) (x : Partner) (m : Nat) : (d.setPartner p x).chan m = d.chan m := rfl
@[simp] theorem Dev.island_setPartner (d : Dev) (p : Nat) (x : Partner) (m : Nat) : (d.setPartner p x).island m = d.island m := rfl
@[simp] theorem Dev.queue_setPartner (d : Dev) (p : Nat) (x : Partner) (m : Nat) : (d.setPartner p x).queue m = d.queue m := rfl
@[simp] theorem Dev.rget_setPartner (d : Dev) (p : Nat) (x : Partner) (m : Nat) : (d.setPartner p x).rget m = d.rget m := rfl

@[simp] theorem Dev.core_setDiePower (d : Dev) (n : Nat) (x : DiePower) (m : Nat) : (d.setDiePower n x).core m = d.core m := rfl
@[simp] theorem Dev.cluster_setDiePower (d : Dev) (n : Nat) (x : DiePower) (m : Nat) : (d.setDiePower n x).cluster m = d.cluster m := rfl
@[simp] theorem Dev.ctx_setDiePower (d : Dev) (n : Nat) (x : DiePower) (m : Nat) : (d.setDiePower n x).ctx m = d.ctx m := rfl
@[simp] theorem Dev.port_setDiePower (d : Dev) (n : Nat) (x : DiePower) (m : Nat) : (d.setDiePower n x).port m = d.port m := rfl
@[simp] theorem Dev.window_setDiePower (d : Dev) (n : Nat) (x : DiePower) (m : Nat) : (d.setDiePower n x).window m = d.window m := rfl
@[simp] theorem Dev.chan_setDiePower (d : Dev) (n : Nat) (x : DiePower) (m : Nat) : (d.setDiePower n x).chan m = d.chan m := rfl
@[simp] theorem Dev.partner_setDiePower (d : Dev) (n : Nat) (x : DiePower) (m : Nat) : (d.setDiePower n x).partner m = d.partner m := rfl
@[simp] theorem Dev.island_setDiePower (d : Dev) (n : Nat) (x : DiePower) (m : Nat) : (d.setDiePower n x).island m = d.island m := rfl
@[simp] theorem Dev.queue_setDiePower (d : Dev) (n : Nat) (x : DiePower) (m : Nat) : (d.setDiePower n x).queue m = d.queue m := rfl
@[simp] theorem Dev.rget_setDiePower (d : Dev) (n : Nat) (x : DiePower) (m : Nat) : (d.setDiePower n x).rget m = d.rget m := rfl

@[simp] theorem Dev.core_setIsland (d : Dev) (i : Nat) (x : IslSt) (m : Nat) : (d.setIsland i x).core m = d.core m := rfl
@[simp] theorem Dev.cluster_setIsland (d : Dev) (i : Nat) (x : IslSt) (m : Nat) : (d.setIsland i x).cluster m = d.cluster m := rfl
@[simp] theorem Dev.ctx_setIsland (d : Dev) (i : Nat) (x : IslSt) (m : Nat) : (d.setIsland i x).ctx m = d.ctx m := rfl
@[simp] theorem Dev.port_setIsland (d : Dev) (i : Nat) (x : IslSt) (m : Nat) : (d.setIsland i x).port m = d.port m := rfl
@[simp] theorem Dev.window_setIsland (d : Dev) (i : Nat) (x : IslSt) (m : Nat) : (d.setIsland i x).window m = d.window m := rfl
@[simp] theorem Dev.chan_setIsland (d : Dev) (i : Nat) (x : IslSt) (m : Nat) : (d.setIsland i x).chan m = d.chan m := rfl
@[simp] theorem Dev.partner_setIsland (d : Dev) (i : Nat) (x : IslSt) (m : Nat) : (d.setIsland i x).partner m = d.partner m := rfl
@[simp] theorem Dev.queue_setIsland (d : Dev) (i : Nat) (x : IslSt) (m : Nat) : (d.setIsland i x).queue m = d.queue m := rfl
@[simp] theorem Dev.rget_setIsland (d : Dev) (i : Nat) (x : IslSt) (m : Nat) : (d.setIsland i x).rget m = d.rget m := rfl

@[simp] theorem Dev.core_setCross (d : Dev) (a b : Nat) (x : Cross) (m : Nat) : (d.setCross a b x).core m = d.core m := rfl
@[simp] theorem Dev.cluster_setCross (d : Dev) (a b : Nat) (x : Cross) (m : Nat) : (d.setCross a b x).cluster m = d.cluster m := rfl
@[simp] theorem Dev.ctx_setCross (d : Dev) (a b : Nat) (x : Cross) (m : Nat) : (d.setCross a b x).ctx m = d.ctx m := rfl
@[simp] theorem Dev.port_setCross (d : Dev) (a b : Nat) (x : Cross) (m : Nat) : (d.setCross a b x).port m = d.port m := rfl
@[simp] theorem Dev.window_setCross (d : Dev) (a b : Nat) (x : Cross) (m : Nat) : (d.setCross a b x).window m = d.window m := rfl
@[simp] theorem Dev.chan_setCross (d : Dev) (a b : Nat) (x : Cross) (m : Nat) : (d.setCross a b x).chan m = d.chan m := rfl
@[simp] theorem Dev.partner_setCross (d : Dev) (a b : Nat) (x : Cross) (m : Nat) : (d.setCross a b x).partner m = d.partner m := rfl
@[simp] theorem Dev.island_setCross (d : Dev) (a b : Nat) (x : Cross) (m : Nat) : (d.setCross a b x).island m = d.island m := rfl
@[simp] theorem Dev.queue_setCross (d : Dev) (a b : Nat) (x : Cross) (m : Nat) : (d.setCross a b x).queue m = d.queue m := rfl
@[simp] theorem Dev.rget_setCross (d : Dev) (a b : Nat) (x : Cross) (m : Nat) : (d.setCross a b x).rget m = d.rget m := rfl

@[simp] theorem Dev.core_setQueue (d : Dev) (q : Nat) (x : Queue) (m : Nat) : (d.setQueue q x).core m = d.core m := rfl
@[simp] theorem Dev.cluster_setQueue (d : Dev) (q : Nat) (x : Queue) (m : Nat) : (d.setQueue q x).cluster m = d.cluster m := rfl
@[simp] theorem Dev.ctx_setQueue (d : Dev) (q : Nat) (x : Queue) (m : Nat) : (d.setQueue q x).ctx m = d.ctx m := rfl
@[simp] theorem Dev.port_setQueue (d : Dev) (q : Nat) (x : Queue) (m : Nat) : (d.setQueue q x).port m = d.port m := rfl
@[simp] theorem Dev.window_setQueue (d : Dev) (q : Nat) (x : Queue) (m : Nat) : (d.setQueue q x).window m = d.window m := rfl
@[simp] theorem Dev.chan_setQueue (d : Dev) (q : Nat) (x : Queue) (m : Nat) : (d.setQueue q x).chan m = d.chan m := rfl
@[simp] theorem Dev.partner_setQueue (d : Dev) (q : Nat) (x : Queue) (m : Nat) : (d.setQueue q x).partner m = d.partner m := rfl
@[simp] theorem Dev.island_setQueue (d : Dev) (q : Nat) (x : Queue) (m : Nat) : (d.setQueue q x).island m = d.island m := rfl
@[simp] theorem Dev.rget_setQueue (d : Dev) (q : Nat) (x : Queue) (m : Nat) : (d.setQueue q x).rget m = d.rget m := rfl

@[simp] theorem Dev.core_rset (d : Dev) (k : Nat) (v : W32) (m : Nat) : (d.rset k v).core m = d.core m := rfl
@[simp] theorem Dev.cluster_rset (d : Dev) (k : Nat) (v : W32) (m : Nat) : (d.rset k v).cluster m = d.cluster m := rfl
@[simp] theorem Dev.ctx_rset (d : Dev) (k : Nat) (v : W32) (m : Nat) : (d.rset k v).ctx m = d.ctx m := rfl
@[simp] theorem Dev.port_rset (d : Dev) (k : Nat) (v : W32) (m : Nat) : (d.rset k v).port m = d.port m := rfl
@[simp] theorem Dev.window_rset (d : Dev) (k : Nat) (v : W32) (m : Nat) : (d.rset k v).window m = d.window m := rfl
@[simp] theorem Dev.chan_rset (d : Dev) (k : Nat) (v : W32) (m : Nat) : (d.rset k v).chan m = d.chan m := rfl
@[simp] theorem Dev.partner_rset (d : Dev) (k : Nat) (v : W32) (m : Nat) : (d.rset k v).partner m = d.partner m := rfl
@[simp] theorem Dev.island_rset (d : Dev) (k : Nat) (v : W32) (m : Nat) : (d.rset k v).island m = d.island m := rfl
@[simp] theorem Dev.queue_rset (d : Dev) (k : Nat) (v : W32) (m : Nat) : (d.rset k v).queue m = d.queue m := rfl

@[simp] theorem Dev.core_drew (d : Dev) (m : Nat) : d.drew.core m = d.core m := rfl
@[simp] theorem Dev.cluster_drew (d : Dev) (m : Nat) : d.drew.cluster m = d.cluster m := rfl
@[simp] theorem Dev.ctx_drew (d : Dev) (m : Nat) : d.drew.ctx m = d.ctx m := rfl
@[simp] theorem Dev.port_drew (d : Dev) (m : Nat) : d.drew.port m = d.port m := rfl
@[simp] theorem Dev.window_drew (d : Dev) (m : Nat) : d.drew.window m = d.window m := rfl
@[simp] theorem Dev.chan_drew (d : Dev) (m : Nat) : d.drew.chan m = d.chan m := rfl
@[simp] theorem Dev.partner_drew (d : Dev) (m : Nat) : d.drew.partner m = d.partner m := rfl
@[simp] theorem Dev.island_drew (d : Dev) (m : Nat) : d.drew.island m = d.island m := rfl
@[simp] theorem Dev.queue_drew (d : Dev) (m : Nat) : d.drew.queue m = d.queue m := rfl
@[simp] theorem Dev.rget_drew (d : Dev) (m : Nat) : d.drew.rget m = d.rget m := rfl

@[simp] theorem Dev.core_stamp (d : Dev) (a b c e : Nat) (m : Nat) : (d.stamp a b c e).core m = d.core m := rfl
@[simp] theorem Dev.cluster_stamp (d : Dev) (a b c e : Nat) (m : Nat) : (d.stamp a b c e).cluster m = d.cluster m := rfl
@[simp] theorem Dev.ctx_stamp (d : Dev) (a b c e : Nat) (m : Nat) : (d.stamp a b c e).ctx m = d.ctx m := rfl
@[simp] theorem Dev.port_stamp (d : Dev) (a b c e : Nat) (m : Nat) : (d.stamp a b c e).port m = d.port m := rfl
@[simp] theorem Dev.window_stamp (d : Dev) (a b c e : Nat) (m : Nat) : (d.stamp a b c e).window m = d.window m := rfl
@[simp] theorem Dev.chan_stamp (d : Dev) (a b c e : Nat) (m : Nat) : (d.stamp a b c e).chan m = d.chan m := rfl
@[simp] theorem Dev.partner_stamp (d : Dev) (a b c e : Nat) (m : Nat) : (d.stamp a b c e).partner m = d.partner m := rfl
@[simp] theorem Dev.island_stamp (d : Dev) (a b c e : Nat) (m : Nat) : (d.stamp a b c e).island m = d.island m := rfl
@[simp] theorem Dev.queue_stamp (d : Dev) (a b c e : Nat) (m : Nat) : (d.stamp a b c e).queue m = d.queue m := rfl
@[simp] theorem Dev.rget_stamp (d : Dev) (a b c e : Nat) (m : Nat) : (d.stamp a b c e).rget m = d.rget m := rfl

/-! ## The updates that read first -/

@[simp] theorem Dev.modCore_eq (d : Dev) (n : Nat) (f : Core → Core) : d.modCore n f = d.setCore n (f (d.core n)) := rfl
@[simp] theorem Dev.modSlot_eq (d : Dev) (n : Nat) (t : SlotIx) (f : Slot → Slot) :
    d.modSlot n t f = d.setCore n ((d.core n).setSlot t (f (d.slot n t))) := rfl
@[simp] theorem Dev.modCell_eq (d : Dev) (n i : Nat) (f : CellSt → CellSt) :
    d.modCell n i f = d.setCore n ((d.core n).setCell i (f (d.cell n i))) := rfl
@[simp] theorem Dev.modCluster_eq (d : Dev) (j : Nat) (f : Cluster → Cluster) :
    d.modCluster j f = d.setCluster j (f (d.cluster j)) := rfl
@[simp] theorem Dev.modCtx_eq (d : Dev) (x : Nat) (f : Ctx → Ctx) : d.modCtx x f = d.setCtx x (f (d.ctx x)) := rfl
@[simp] theorem Dev.modPort_eq (d : Dev) (p : Nat) (f : Port → Port) : d.modPort p f = d.setPort p (f (d.port p)) := rfl
@[simp] theorem Dev.modIsland_eq (d : Dev) (i : Nat) (f : IslSt → IslSt) :
    d.modIsland i f = d.setIsland i (f (d.island i)) := rfl
@[simp] theorem Dev.rsetNat_eq (d : Dev) (k v : Nat) : d.rsetNat k v = d.rset k (BitVec.ofNat 32 v) := rfl
@[simp] theorem Core.slots_setSlot (c : Core) (t : SlotIx) (s : Slot) : (c.setSlot t s).slots.get t = s := by
  simp [Core.setSlot, Vector.get_eq_getElem]
@[simp] theorem Core.cell_setCell (c : Core) (i : Nat) (x : CellSt) : (c.setCell i x).cell i = x :=
  Laws.tget_tset_self _ _ _ _
@[simp] theorem Dev.slot_setCore_setSlot (d : Dev) (n : Nat) (t : SlotIx) (s : Slot) (c : Core) :
    (d.setCore n (c.setSlot t s)).slot n t = s := by
  simp [Dev.slot]

end Sys2Proof.Machine
end

