-- ==== Sys2Proof/Laws/Paths.lean ====
section
/-! SUPPORT. What a value that crosses islands leaves as it was, and when the scheduler does nothing. -/

namespace Sys2Proof.Machine

/-- All that a transfer, or a path of them, may change: sequences, crossings, two counters of each edge, and stamps. -/
abbrev OnlyCrossed (d t : Dev) : Prop :=
  t = { d with islands := t.islands, crossings := t.crossings, blk := t.blk, stamps := t.stamps }

theorem OnlyCrossed.trans {a b c : Dev} (h : OnlyCrossed a b) (k : OnlyCrossed b c) : OnlyCrossed a c := by
  unfold OnlyCrossed at *
  rw [k, h]

theorem Dev.count_only (d : Dev) (key n : Nat) : OnlyCrossed d (d.count key n) := by
  unfold Dev.count
  split
  · rfl
  · rfl

theorem Dev.receive_only (d : Dev) (isl c : Nat) : OnlyCrossed d (d.receive isl c) := rfl

theorem Dev.stamp_only (d : Dev) (isl ci cp cs : Nat) : OnlyCrossed d (d.stamp isl ci cp cs) := rfl

theorem Dev.crossings_only (d : Dev) (x : Table Cross) : OnlyCrossed d { d with crossings := x } := rfl

theorem Dev.transferOn_only (d : Dev) (key n src dst : Nat) : OnlyCrossed d (d.transferOn key n src dst) := by
  unfold Dev.transferOn
  exact ((((Dev.crossings_only _ _).trans (Dev.count_only _ _ _)).trans (Dev.count_only _ _ _)).trans
    (Dev.receive_only _ _ _)).trans (Dev.stamp_only _ _ _ _ _)

theorem Dev.hop_only (d : Dev) (src dst : Nat) : OnlyCrossed d (d.hop src dst) := by
  unfold Dev.hop
  split
  · exact Dev.transferOn_only _ _ _ _ _
  · rfl

theorem Dev.travel_only (d : Dev) (way : List Nat) : OnlyCrossed d (d.travel way) := by
  induction way generalizing d with
  | nil => rfl
  | cons a r ih =>
    cases r with
    | nil => rfl
    | cons b r => exact (d.hop_only a b).trans (ih (d.hop a b))

theorem Dev.carry_only (d : Dev) (src dst : Nat) : OnlyCrossed d (d.carry src dst) := d.travel_only _
theorem Dev.toBlock_only (d : Dev) (isl : Nat) : OnlyCrossed d (d.toBlock isl) := d.travel_only _
theorem Dev.toMirror_only (d : Dev) (isl : Nat) : OnlyCrossed d (d.toMirror isl) := d.travel_only _

@[simp] theorem Dev.carry_sec (d : Dev) (a b : Nat) : (d.carry a b).sec = d.sec := by rw [d.carry_only a b]
@[simp] theorem Dev.carry_cores (d : Dev) (a b : Nat) : (d.carry a b).cores = d.cores := by rw [d.carry_only a b]
@[simp] theorem Dev.carry_clusters (d : Dev) (a b : Nat) : (d.carry a b).clusters = d.clusters := by rw [d.carry_only a b]
@[simp] theorem Dev.carry_ctxs (d : Dev) (a b : Nat) : (d.carry a b).ctxs = d.ctxs := by rw [d.carry_only a b]
@[simp] theorem Dev.carry_objs (d : Dev) (a b : Nat) : (d.carry a b).objs = d.objs := by rw [d.carry_only a b]
@[simp] theorem Dev.carry_hbm (d : Dev) (a b : Nat) : (d.carry a b).hbm = d.hbm := by rw [d.carry_only a b]
@[simp] theorem Dev.carry_hostMem (d : Dev) (a b : Nat) : (d.carry a b).hostMem = d.hostMem := by rw [d.carry_only a b]
@[simp] theorem Dev.carry_ports (d : Dev) (a b : Nat) : (d.carry a b).ports = d.ports := by rw [d.carry_only a b]
@[simp] theorem Dev.carry_windows (d : Dev) (a b : Nat) : (d.carry a b).windows = d.windows := by rw [d.carry_only a b]
@[simp] theorem Dev.carry_host (d : Dev) (a b : Nat) : (d.carry a b).host = d.host := by rw [d.carry_only a b]
@[simp] theorem Dev.carry_apply (d : Dev) (a b : Nat) : (d.carry a b).apply = d.apply := by rw [d.carry_only a b]
@[simp] theorem Dev.carry_fuses (d : Dev) (a b : Nat) : (d.carry a b).fuses = d.fuses := by rw [d.carry_only a b]
@[simp] theorem Dev.carry_flash (d : Dev) (a b : Nat) : (d.carry a b).flash = d.flash := by rw [d.carry_only a b]
@[simp] theorem Dev.carry_free (d : Dev) (a b : Nat) : (d.carry a b).free = d.free := by rw [d.carry_only a b]
@[simp] theorem Dev.toBlock_sec (d : Dev) (i : Nat) : (d.toBlock i).sec = d.sec := by rw [d.toBlock_only i]
@[simp] theorem Dev.toBlock_mirror (d : Dev) (i : Nat) : (d.toBlock i).mirror = d.mirror := by rw [d.toBlock_only i]
@[simp] theorem Dev.toBlock_apply (d : Dev) (i : Nat) : (d.toBlock i).apply = d.apply := by rw [d.toBlock_only i]
@[simp] theorem Dev.toMirror_sec (d : Dev) (i : Nat) : (d.toMirror i).sec = d.sec := by rw [d.toMirror_only i]
@[simp] theorem Dev.toMirror_mirror (d : Dev) (i : Nat) : (d.toMirror i).mirror = d.mirror := by rw [d.toMirror_only i]

/-- The scheduler runs on a READY device only (R234). -/
theorem Dev.schedule_of_not_ready (d : Dev) (h : d.sec.devState ≠ .ready) : d.schedule = d := by
  simp [Dev.schedule, h]

end Sys2Proof.Machine
end

