-- ==== Sys2Proof/WellFormed.lean ====
section
/-! DEFINITION. Which commands name units, windows and values that the spec gives. -/

namespace Sys2Proof

/-- An island that a die has: number 34 exists on die 0 only (R377). -/
def islOk (i : Isl) : Bool := decide (i.nn.1 < 34) || decide (i.d.1 = 0)

/-- A header of a function that exists (0 the physical function, 1 to 64 virtual ones, Table 14.1), on an
admin queue or on the queue of one of the 1,024 contexts (R7, Table 14.4). -/
def hdrOk (h : CmdHdr) : Bool :=
  decide (h.fn ≤ 64) && (match h.queue with
    | .admin => true
    | .context => decide (h.ctx < 1024))

/-- What a scrub finds lies in the stack: 64 pseudo-channels, frames of 2 MiB of the die
(Table 7.10, R198). -/
def findOk (f : ScrubFind) : Bool :=
  match f with
  | .clean _ => true
  | .corrected pc => decide (pc < 64)
  | .uncorrected pc frame offset => decide (pc < 64) && decide (frame < 65536) && decide (offset < 0x200000)
  | .caParity => true

/-- A command whose operands lie in the ranges of the spec: functions up to 64 (Table 14.1), the register
window of 64 MiB and the memory window of 64 GiB (Table 14.2), registers at word offsets (R395), 64-byte queue
entries (Table 14.4), flit groups of eight flits (R283), trained rates and widths (Table 14.1). -/
def Instr.wellFormed (i : Instr) : Bool :=
  match i with
  | .nop _ _ => true
  | .issue _ _ => true
  | .issueStallEnd _ _ => true
  | .wait _ _ => true
  | .waitRelease _ _ => true
  | .claim _ _ => true
  | .claimRecord _ _ => true
  | .claimReply _ _ => true
  | .loop _ _ => true
  | .addi _ _ => true
  | .brz _ _ => true
  | .loadg _ _ => true
  | .setlen _ _ => true
  | .movi _ _ => true
  | .fence _ _ => true
  | .fenceRelease _ _ => true
  | .loadw _ _ => true
  | .loadwComplete _ _ => true
  | .endProgram _ _ => true
  | .endCompletion _ _ => true
  | .weightPlaneFill _ _ => true
  | .matrixTile _ _ => true
  | .arrayPass _ _ _ => true
  | .chainedConversion _ _ _ => true
  | .vectorDescriptor _ _ _ => true
  | .transpose _ _ _ => true
  | .fwdFirst _ _ _ => true
  | .fwdNext _ _ _ => true
  | .fwdLast _ _ _ => true
  | .fwdOnly _ _ _ => true
  | .recompute _ _ _ => true
  | .gather _ _ _ => true
  | .scatter _ _ _ => true
  | .scatterAdd _ _ _ => true
  | .compact _ _ _ => true
  | .dispatch _ _ _ => true
  | .combine _ _ _ => true
  | .topk _ _ _ => true
  | .sample _ _ _ => true
  | .quantise _ _ _ => true
  | .bits8 _ _ _ => true
  | .bits16 _ _ _ => true
  | .bits32 _ _ _ => true
  | .uniform _ _ _ => true
  | .mask _ _ _ => true
  | .normal _ _ _ => true
  | .copyDescriptor _ _ _ => true
  | .descriptorCompletion _ _ _ _ => true
  | .ticketClose _ _ => true
  | .ticketReturn _ _ => true
  | .queueReset _ _ _ => true
  | .tokenArrive _ _ _ _ => true
  | .tokenForward _ _ _ => true
  | .creditReturn _ _ _ => true
  | .mov _ _ _ => true
  | .add _ _ _ => true
  | .sub _ _ _ => true
  | .mul _ _ _ => true
  | .fma _ _ _ => true
  | .max _ _ _ => true
  | .min _ _ _ => true
  | .abs _ _ _ => true
  | .neg _ _ _ => true
  | .cmpgt _ _ _ => true
  | .sel _ _ _ => true
  | .rcp _ _ _ => true
  | .rsqrt _ _ _ => true
  | .exp2 _ _ _ => true
  | .log2 _ _ _ => true
  | .cvtDown _ _ _ => true
  | .cvtUp _ _ _ => true
  | .dup _ _ _ => true
  | .steer _ _ _ => true
  | .merge _ _ _ => true
  | .count _ _ _ => true
  | .acc _ _ _ => true
  | .inRing _ _ => true
  | .outRing _ _ => true
  | .semIn _ _ => true
  | .lenOut _ _ => true
  | .idleCountLimit isl _ => islOk isl
  | .stallProbeReply isl _ => islOk isl
  | .sampleRecord isl _ => islOk isl
  | .hubAccess _ _ _ _ data _ => decide (data.length ≤ 128)
  | .scrubStep _ find => findOk find
  | .gristFetch _ _ _ _ => true
  | .gristStarved _ _ => true
  | .frameZeroed _ => true
  | .objCreate h _ => hdrOk h
  | .objAttach h _ => hdrOk h
  | .objRelease h _ => hdrOk h
  | .objMoveUp h _ _ => hdrOk h
  | .objMoveDown h _ _ => hdrOk h
  | .moveComplete _ => true
  | .fnAssign h _ _ => hdrOk h
  | .ctxLoad h _ => hdrOk h
  | .ctxUnload h => hdrOk h
  | .ctxKill h => hdrOk h
  | .ctxResume h => hdrOk h
  | .ctxSet h _ value => hdrOk h && decide (value.length ≤ 32)
  | .tasksStopped _ => true
  | .spargeComplete _ => true
  | .quantumExpiry _ => true
  | .preemptRequest _ _ => true
  | .slotYield _ _ => true
  | .preemptOverrun _ _ => true
  | .swapOutComplete _ => true
  | .swapInComplete _ => true
  | .gyleBegin h _ _ => hdrOk h
  | .gyleAbort h _ => hdrOk h
  | .gyleDecide h _ _ => hdrOk h
  | .gyleResolve h _ _ => hdrOk h
  | .gyleReplay h => hdrOk h
  | .gyleStart _ => true
  | .captureComplete _ => true
  | .vote _ => true
  | .gyleVote _ => true
  | .gyleDecideMessage _ => true
  | .voteDeadline _ => true
  | .decideTimeout _ => true
  | .gyleCommitApply _ => true
  | .gyleAbortApply _ => true
  | .linkWordSend _ => true
  | .groupReceive _ g => decide (g.flits.length = 8)
  | .retryTimeout _ => true
  | .portTrained _ => true
  | .partnerLookup _ _ _ => true
  | .write _ => true
  | .wack _ => true
  | .nack _ => true
  | .collData _ => true
  | .collCts _ => true
  | .winOpen h _ => hdrOk h
  | .winClose h _ => hdrOk h
  | .windowCloseDrained _ => true
  | .spillRedirect _ => true
  | .copyIn _ => true
  | .heldWriteRelease _ => true
  | .sendFire _ _ _ => true
  | .sendResend _ _ => true
  | .writeTimeout _ _ => true
  | .collectiveStart _ _ _ => true
  | .collDeadline _ => true
  | .layoutSet h _ _ => hdrOk h
  | .coreTestDue _ _ => true
  | .coreTestStart _ => true
  | .coreTestComplete _ _ => true
  | .digestPass isl _ => islOk isl
  | .calOverlayAdd h _ => hdrOk h
  | .calOverlayRemove h _ => hdrOk h
  | .testRequest h _ _ => hdrOk h
  | .testpackLoad h _ _ _ => hdrOk h
  | .resilSet h _ => hdrOk h
  | .caskHost h _ _ _ => hdrOk h
  | .caskRelease h _ => hdrOk h
  | .caskSchedule h _ => hdrOk h
  | .caskDrain _ => true
  | .caskWrite _ => true
  | .caskSeal _ => true
  | .caskRead _ _ => true
  | .caskRdata _ => true
  | .caskLost _ => true
  | .caskSched _ => true
  | .caskReport _ => true
  | .ckptExport h _ _ => hdrOk h
  | .restore h _ _ _ _ => hdrOk h
  | .rackBegin h _ _ _ => hdrOk h
  | .rackData _ => true
  | .rackComplete _ => true
  | .rackTimeout _ => true
  | .crossingTransfer src dst => islOk src && islOk dst.at_
  | .crossingEvent src dst => islOk src && islOk dst
  | .resetNotice src dst => islOk src && islOk dst
  | .crossingTimeout src dst => islOk src && islOk dst
  | .frequencyChange isl mhz => islOk isl && decide (550 ≤ mhz) && decide (mhz ≤ 2000)
  | .droopStart isl => islOk isl
  | .droopEnd isl _ => islOk isl
  | .registerWrite fn offset _ _ => decide (fn ≤ 64) && decide (offset < 0x4000000)
  | .errStatusClear offset _ => decide (offset < 0x4000000) && decide (offset % 4 = 0)
  | .counterLowRead offset => decide (offset < 0x4000000) && decide (offset % 4 = 0)
  | .stageGenWrite offset _ => decide (offset < 0x4000000) && decide (offset % 4 = 0)
  | .winDataWrite _ _ => true
  | .probeSelect _ _ _ => true
  | .probeAnswer _ _ => true
  | .mirrorUpdate offset => decide (offset.at_ < 0x4000000) && decide (offset.at_ % 4 = 0)
  | .counterSnapshot page => decide (page < 0x4000000) && decide (page % 0x1000 = 0)
  | .memwinRead offset _ => decide (offset < 0x1000000000)
  | .memwinWrite offset _ => decide (offset < 0x1000000000)
  | .sqTail fn _ _ => decide (fn ≤ 64)
  | .cqHead fn _ _ => decide (fn ≤ 64)
  | .eqHead fn _ => decide (fn ≤ 64)
  | .commandFetch fn _ entry => decide (fn ≤ 64) && decide (entry.length = 64)
  | .completionPost queue => decide (queue < 2304)
  | .coalesceTimeout queue => decide (queue < 2304)
  | .queueCreate h _ _ _ _ _ _ _ _ => hdrOk h
  | .queueDelete h _ _ => hdrOk h
  | .hostRegister h _ _ => hdrOk h
  | .hostUnregister h _ => hdrOk h
  | .copy h _ _ _ _ => hdrOk h
  | .copyPiece _ _ _ => true
  | .pcieCompletionTimeout _ => true
  | .functionLevelReset fn => decide (fn ≤ 64)
  | .d3hotRequest fn => decide (fn ≤ 64)
  | .mctpMessage _ => true
  | .pldmPowerCapWrite _ => true
  | .spdmRequest _ _ => true
  | .ideKmRequest _ _ => true
  | .sysRstNDeassert _ => true
  | .fuseCheck _ _ => true
  | .firmwareVerify _ _ => true
  | .supervisorStart _ => true
  | .dieLinkTraining _ => true
  | .hbmTraining _ _ _ => true
  | .selfTest _ => true
  | .tokenPresent _ _ _ => true
  | .admitReq _ port _ _ => decide (port < 12)
  | .offer _ _ _ => true
  | .answer _ _ => true
  | .proof _ _ => true
  | .done _ _ => true
  | .admitTimeout _ => true
  | .revoke _ => true
  | .fwUpdateWrite h _ _ => hdrOk h
  | .fwUpdateVerify h _ => hdrOk h
  | .fwUpdateActivate h => hdrOk h
  | .fwUpdateCommit h => hdrOk h
  | .revokeSlot h _ _ _ => hdrOk h
  | .ownerEnrol h _ _ _ => hdrOk h
  | .applyRequest _ => true
  | .applyDiscard _ => true
  | .applyPrepare isl => islOk isl
  | .applyReady isl => islOk isl
  | .applySwap isl => islOk isl
  | .applyDone isl => islOk isl
  | .drainTimeout isl => islOk isl
  | .drainFail isl => islOk isl
  | .applyAbort isl => islOk isl
  | .powerTick _ => true
  | .vrRegulationTimeout _ _ => true
  | .powerCapWrite _ => true
  | .thermalSample _ _ _ _ => true
  | .thermtrip _ sensor => decide (sensor < 48)
  | .tapEnableWrite _ _ => true
  | .pcieLinkTrained rate width => ((rate == 5) || (rate == 6) || (rate == 7)) && ((width == 8) || (width == 16))
  | .vfEnableWrite _ numVfs => decide (numVfs ≤ 64)
  | .jtagInstruction _ => true
  | .dynamicAddressAssignment _ _ => true
  | .caskDrainTimeout _ => true
  | .objectMoveFrame _ => true
  | .operatingHour => true
  | .sysRstNAssert => true
  | .pwrOkDeassert => true
  | .perstAssert => true
  | .perstDeassert => true
  | .repairApply => true
  | .identityDerive => true
  | .debugEntry => true
  | .applyTake => true
  | .applyTimeout => true
  | .pwrOkAssert => true
  | .powerLoss => true

end Sys2Proof
end

