-- ==== Sys2Proof/Tests/Slice0.lean ====
section
/-! SUPPORT. Witnesses: for every statement with hypotheses, states and operands that meet them; ill-formed terms that
WellFormed refuses; and small checks of single commands whose expected values are taken from the spec's own words. -/

namespace Sys2Proof.Tests

set_option Elab.async false

open Sys2Proof.Machine Sys2Proof.Claims

/-! ## States that the witnesses share -/

/-- A context that runs, in a gyle whose start actions are done. -/
def ctxRun : Ctx := { Ctx.reset with state := .running, gyle := { Gyle.reset with st := .running } }

/-- A READY device that the host reaches, whose islands of die 0 run, with stack 0 in service and context 0 as given. -/
def devOf (c : Ctx) : Dev :=
  Dev.rsetNat { Dev.reset with
    sec := { Sec.reset with devState := .ready, bootStep := 9, lifecycle := 2 }
    host := { HostIf.reset with perst := false }
    islands := (List.range 35).map (fun i => (i, { IslSt.reset with run := .run }))
    ctxs := [(0, c)] } (hbmKey 0 0 0x14) 1

def dev : Dev := devOf ctxRun

/-- A task slot of context 0 with a tile program and a grant of 64 KiB. -/
def slotOf (ws : List W64) : Slot := { Slot.empty with valid := true, bound := 0x10000, state := .running, program := ws }

/-- The device with slot 0 of core 0 as given. -/
def withSlot (s : Slot) : Dev := dev.setSlot 0 0 s

/-- The instruction word of an opcode with a low part. -/
def word (op low : Nat) : W64 := BitVec.ofNat 64 (op * 2 ^ 56 + low)

/-- The command header of a context queue and of the admin queue of the physical function. -/
def hdrC : CmdHdr := { fn := 0, queue := .context, ctx := 0, id := 7, fence := false, quiet := false }
def hdrA : CmdHdr := { hdrC with queue := .admin }

/-! ## Witnesses: the machine as a whole -/

theorem witness_IdleStepTicksClocks : State.reset.pending = [] := by decide +kernel

theorem witness_DeviceResetKeepsFusesAndFlash :
    Instr.sysRstNAssert = .sysRstNAssert ∨ Instr.sysRstNAssert = .pwrOkDeassert ∨ Instr.sysRstNAssert = .powerLoss := .inl rfl

theorem witness_EveryStepKeepsMemoriesGood :
    Safety.MemoriesGood State.reset.dev ∧ ∃ t, step State.reset = .next t :=
  ⟨⟨by decide +kernel, by decide +kernel⟩, _, rfl⟩

theorem witness_EveryStepOnlyBlowsFuses : ∃ t, step State.reset = .next t := ⟨_, rfl⟩

theorem witness_ExecLeavesTheQueue : ∃ t, exec (.frameZeroed 0) State.reset = .next t := ⟨_, rfl⟩

theorem witness_HbmReadsWhatWasWritten : Safety.MemoriesGood (dev.hbmWrite 4 [1, 2, 3])
    ∧ (0 < [(1 : Byte)].length) ∧ ((3 : Nat) < 4 ∨ 4 + [(1 : Byte), 2, 3].length ≤ 3)
    ∧ ((7 : Nat) < 4 ∨ 4 + [(1 : Byte), 2, 3].length ≤ 7) :=
  ⟨⟨by decide +kernel, by decide +kernel⟩, by decide, by decide, by decide⟩

/-! ## Witnesses: the core sequencer -/

theorem witness_RegisterInstructionsComplete :
    AtWord (withSlot (slotOf [word 0 0, 0])) 0 0 0 (word 0 0) ∧ AtWord (withSlot (slotOf [word 5 7, 0])) 0 0 5 (word 5 7)
    ∧ AtWord (withSlot (slotOf [word 9 7, 0])) 0 0 9 (word 9 7) ∧ AtWord (withSlot (slotOf [word 8 7, 0])) 0 0 8 (word 8 7)
    ∧ (slotOf [word 0 0, 0]).seq.pc + 1 < (slotOf [word 0 0, 0]).program.length := by decide +kernel

theorem witness_BranchesAndLoadgComplete :
    AtWord (withSlot (slotOf [word 4 1, 0])) 0 0 4 (word 4 1) ∧ AtWord (withSlot (slotOf [word 6 1, 0])) 0 0 6 (word 6 1)
    ∧ bitsOf (word 4 1).toNat 11 0 < (slotOf [word 4 1, 0]).program.length
    ∧ AtWord (withSlot (slotOf [word 7 0xFFFC, 0])) 0 0 7 (word 7 0xFFFC)
    ∧ (slotOf []).boundStatus 0 (bitsOf (word 7 0xFFFC).toNat 21 0) 4 = 0 := by decide +kernel

theorem witness_WaitsAndFencesComplete :
    (AtWord (withSlot (slotOf [word 2 0, 0])) 0 0 2 (word 2 0)
      ∧ (word 2 0).toNat % 2 ^ 16 ≤ (slotOf []).sem (wordG (word 2 0)))
    ∧ (let s := { (slotOf [word 2 1, 0]).setSem 0 1 with stall := .wait 0 1 };
      Serving (withSlot s) (islOfCore 0) ∧ (withSlot s).executes 0 0 = true ∧ s.stall = .wait 0 1 ∧ 1 ≤ s.sem 0)
    ∧ (AtWord (withSlot (slotOf [word 10 0, 0])) 0 0 10 (word 10 0) ∧ (slotOf [word 10 0, 0]).quiet = true)
    ∧ (let s := { slotOf [word 10 0, 0] with stall := .fence };
      (withSlot s).executes 0 0 = true ∧ s.quiet = true) := by decide +kernel

/-- A queue of one slice, offered to core 0. -/
def oneSlice : WQueue :=
  { ctx := 0, num := 1
    rec_ := { slices := 1, sliceRows := 64, participants := 1, doneSem := 8, stealAge := 0, strideA := 0, strideOut := 0
              strideZmask := 0, strideAmax := 0, strideOscale := 0, cluster := 0 }
    slices := [{ state := .free, gen := 0, tickets := [] }], failed := false, zeroed := [], resetPending := false, nextAt := 0 }

/-- A slot whose claim of a queue is at the counter. -/
def claiming (q : WQueue) : Dev :=
  (withSlot { slotOf [word 3 1, 0] with stall := .claimSent 0 1 }).setCluster 0 { Cluster.reset with queues := [q] }

theorem witness_ClaimsComplete :
    AtWord (withSlot (slotOf [word 3 1, 0])) 0 0 3 (word 3 1)
    ∧ (let d := claiming oneSlice;
      let d0 := d.carry (islOfCore 0) (islOfHub 0);
      Serving d (islOfCore 0) ∧ (d.slot 0 0).claimOut = some (0, 1) ∧ (d.slot 0 0).stall = .claimSent 0 1
      ∧ (∀ o ∈ (d0.slot 0 0).tickets, o.due = false)
      ∧ (d0.cluster (0 / 16)).queueOf 0 1 = some oneSlice ∧ oneSlice.rec_.participants.getLsbD 0 = true
      ∧ (match oneSlice.grant 0 (oneSlice.recordAt (d0.cycleOf (islOfHub 0))) with
        | .slice _ _ _ _ => true
        | _ => false) = true)
    ∧ (let d := withSlot { slotOf [word 3 1, 0] with stall := .claimSent 0 1 };
      let d0 := d.carry (islOfCore 0) (islOfHub 0);
      (d.slot 0 0).claimOut = some (0, 1) ∧ (∀ o ∈ (d0.slot 0 0).tickets, o.due = false)
      ∧ (d0.cluster 0).queueOf 0 1 = none)
    ∧ (match ({ oneSlice with slices := [{ state := .done, gen := 0, tickets := [] }] } : WQueue).grant 0 0 with
      | .none => true
      | _ => false) = true := by decide +kernel

theorem witness_ClaimReplies :
    (let s := { slotOf [word 3 1, 0] with stall := .claimReply 0 1 5 0 0 false };
      Serving (withSlot s) (islOfCore 0) ∧ ((withSlot s).slot 0 0).stall = .claimReply 0 1 5 0 0 false)
    ∧ (let s := { slotOf [word 3 1, 0] with stall := .claimReply 0 1 0 0 0 true };
      ((withSlot s).slot 0 0).stall = .claimReply 0 1 0 0 0 true) := by decide +kernel

/-- A copy of one row of 16 bytes from offset 0x100 to offset 0x200 (Table 4.9). -/
def copyDesc : List Byte :=
  [9, 0, 0, 0, 0, 0, 0, 0, 0, 0, 0, 0, 0, 0, 0, 0] ++ leBytes 4 0x100 ++ leBytes 4 0x200 ++ leBytes 2 1 ++ leBytes 2 16
  ++ List.replicate 36 0

/-- A slot of context 0 with bytes in its scratchpad. -/
def withSpad (s : Slot) (at_ : Nat) (bs : List Byte) : Dev :=
  (withSlot s).modCore 0 (fun k => { k with spad := mwrites k.spad at_ bs })

/-- The ISSUE of the descriptor at offset 0x40 to engine 9, without semaphore or ticket. -/
def issueWord : W64 := word 1 (9 * 2 ^ 52 + 8 * 2 ^ 48 + 0x40)

def isQueued (i : Issued) : Bool :=
  match i with
  | .queue _ => true
  | _ => false

theorem witness_IssueCompletes :
    isQueued ((withSpad (slotOf [issueWord, 0]) 0x40 copyDesc).issueFind 0 0 issueWord) = true
    ∧ AtWord (withSpad (slotOf [issueWord, 0]) 0x40 copyDesc) 0 0 1 issueWord
    ∧ (let s := { slotOf [issueWord, 0] with stall := .issue };
      isQueued ((withSpad s 0x40 copyDesc).issueFind 0 0 issueWord) = true
      ∧ Serving (withSpad s 0x40 copyDesc) (islOfCore 0) ∧ (withSpad s 0x40 copyDesc).executes 0 0 = true) := by decide +kernel

theorem witness_LoadwCompletes :
    (let d := withSpad (slotOf [word 11 0, 0]) 8 (leBytes 4 128);
      AtWord d 0 0 11 (word 11 0) ∧ (d.slot 0 0).loadwFull = false ∧ (d.slot 0 0).boundStatus 0 0 64 = 0
      ∧ (d.slot 0 0).boundStatus 0 0 (dN (d.opRead 0 0 0 0 64) 8 4) = 0)
    ∧ (let l : LoadwRec := { id := 0, offset := 0, sem := 1, length := 64, copied := 64, done := false, consumed := false };
      [l].find? (fun l => !l.done && decide (l.length ≤ l.copied)) = some l) := by decide +kernel

theorem witness_EndCompletes :
    AtWord (withSlot (slotOf [word 15 0])) 0 0 15 (word 15 0)
    ∧ (let s := { slotOf [word 15 0] with stall := .endFence };
      Serving (withSlot s) (islOfCore 0) ∧ (withSlot s).executes 0 0 = true ∧ s.stall = .endFence ∧ s.preempt = false
      ∧ s.quiet = true ∧ s.tickets = []) := by decide +kernel

/-! ## Witnesses: the engines of a core -/

/-- A descriptor in its engine's queue. -/
def queued (engine : Nat) (bs : List Byte) (sem : Option (Fin 8)) (st : DStat) : QDesc :=
  { engine := engine, bytes := bs, offset := 0x40, sem := sem, ticket := none, origin := 0, rv := 1, cv := 16, kv := 0, est := 1
    cycles := 0, st := st, health := Health.zero }

/-- An INT4 tile of 64 by 64 by 64 on a half, with its weights from a LOADW at offset 0 (Table 4.5). -/
def tileBytes (ctl : Nat) : List Byte :=
  [0, 0, 7, 1] ++ List.replicate 20 0 ++ leBytes 2 64 ++ leBytes 2 64 ++ leBytes 2 64 ++ List.replicate 24 0 ++ leBytes 2 ctl
    ++ List.replicate 8 0

/-- The header of its block sequence: two N-passes of one pass each (Table 7.9). -/
def tileHeader : List Byte :=
  [1, 0, 7, 4, 64, 0, 64, 0] ++ leBytes 4 2112 ++ [2, 0, 0, 0, 1, 1] ++ List.replicate 46 0

def oneLoadw : LoadwRec := { id := 0, offset := 0, sem := 1, length := 2112, copied := 0, done := false, consumed := false }

/-- A half with the tile queued and one plane of its weights. -/
def tileSlot (ctl : Nat) (planes : List Plane) (t : Option TileRun) : Slot :=
  { slotOf [] with kind := 1, loadws := [oneLoadw], planes := planes, tile := t, descs := [queued 0 (tileBytes ctl) none .running] }

def weights : Plane := { source := .loadw 0, start := 0, bytes := tileHeader ++ List.replicate 1024 0 }

def tileRun (opened drained : Bool) : TileRun :=
  { npass := 0, pass := 0, hdr := tileHeader, wpos := 64, source := .loadw 0, sub := 0, strips := [], opened := opened
    amax := .fin false ⟨0, 0⟩, drained := drained, converted := false, cycles := 0 }

theorem witness_ArrayCommandsComplete_fill :
    let d := withSlot (tileSlot 0 [] none);
    let s := (d.modSlot 0 0 Slot.reap).slot 0 0;
    Serving d (islOfCore 0) ∧ s.valid = true ∧ s.planes.length < 2
    ∧ (((s.loadws.filter (fun l => l.consumed && !l.done)).map (fun l => WSource.loadw l.id)
        ++ fillOrder s.descs (s.loadws.filter (fun l => !l.consumed))).findSome?
          (fun src => ((d.modSlot 0 0 Slot.reap).fillBytes 0 0 src).map (fun y => (src, y.1)))) = some (.loadw 0, 0) := by
  decide +kernel

theorem witness_ArrayCommandsComplete_start :
    let s := tileSlot 0 [weights] none;
    (withSlot s).startsWork 0 0 = true ∧ (withSlot s).unrepairable 0 = false ∧ (s.tileDesc).isSome = true ∧ s.tile = none ∧ s.nextSeq = some oneLoadw
    ∧ oneLoadw.offset = opOffset (dN (tileBytes 0) 0x14 4) ∧ 64 ≤ oneLoadw.length
    ∧ tileSource (tileBytes 0) s.nextSeq = some (.loadw 0) ∧ s.planeRead (.loadw 0) 0 64 = some tileHeader
    ∧ headerOk (tileBytes 0) tileHeader (foldWidth s.kind) = true := by decide +kernel

theorem witness_ArrayCommandsComplete_pass :
    let r := tileRun true false;
    let s := tileSlot 0 [weights] (some r);
    (withSlot s).openTile 0 0 (queued 0 (tileBytes 0) none .running) r = withSlot s
    ∧ (s.planeRead r.source (passStart (tileBytes 0) r.hdr (foldWidth s.kind) r.npass r.pass)
        (entryBytes (dInFmt (tileBytes 0)) (dInMx (tileBytes 0)) (dSparsity (tileBytes 0)) (foldWidth s.kind))).isSome = true
    ∧ dSparsity (tileBytes 0) ≠ 1 := by decide +kernel

theorem witness_ArrayCommandsComplete_chained :
    let s := tileSlot 8 [] (some (tileRun true true));
    s.tileDesc = some (queued 0 (tileBytes 8) none .running) ∧ s.tile = some (tileRun true true)
    ∧ dOutEn (tileBytes 8) = true := by decide +kernel

theorem witness_EngineCommandsComplete :
    let d := withSlot { slotOf [] with descs := [queued 9 copyDesc none .queued] };
    Serving d (islOfCore 0) ∧ (d.slot 0 0).nextOn 9 = some (queued 9 copyDesc none .queued) ∧ d.startsWork 0 0 = true
    ∧ dOp copyDesc = 0 ∧ d.turnOf 0 0 9 = true ∧ (queued 9 copyDesc none .queued).isVoid = false
    ∧ ({ queued 9 copyDesc none .queued with rv := 0 } : QDesc).isVoid = true ∧ upsetStatus .parity ≠ 0 := by decide +kernel

theorem witness_EngineCommandsComplete_command : ∃ run,
    engineCommand (.copyDescriptor 0 0 .none) = some (0, 0, .none, 9, 0, run) := ⟨_, rfl⟩

theorem witness_DescriptorCompletionPosts :
    let q := queued 9 copyDesc (some 1) (.finished 0);
    let d := withSlot { slotOf [] with descs := [q] };
    Serving d (islOfCore 0) ∧ (d.slot 0 0).finishedOn 9 = some q ∧ q.st = .finished 0 := by decide +kernel

def oneTicket (running : Nat) (reached : Bool) : OpenTicket :=
  { ticket := 5, queue := 1, origin := 0, localIx := 0, running := running, failed := false, reached := reached
    health := Health.zero }

theorem witness_TicketsCloseAndReturn :
    (let d := withSlot { slotOf [word 15 0] with tickets := [oneTicket 0 true] };
      Serving d (islOfCore 0) ∧ (d.slot 0 0).tickets.find? OpenTicket.due = some (oneTicket 0 true))
    ∧ (let s := { slotOf [word 15 0] with tickets := [oneTicket 0 false], preempt := true };
      Serving (withSlot s) (islOfCore 0) ∧ s.atBoundary = true ∧ (oneTicket 0 false).due = false)
    ∧ (let q := { oneSlice with resetPending := true };
      let d := dev.setCluster 0 { Cluster.reset with queues := [q] };
      Serving d (islOfHub 0) ∧ (d.cluster 0).queueOf 0 1 = some q ∧ ∀ s ∈ q.slices, s.tickets = []) := by decide +kernel

/-! ## Witnesses: the cell grid -/

/-- Slot 0 of core 0 holds a task, and cell 0 of core 0 is as given. -/
def withCell (c : CellSt) : Dev := (withSlot (slotOf [])).setCell 0 0 c

def tok (kind : Nat) : Token := Token.mk_ kind 0 5 7

/-- A route of stream 5, epoch 0, to the east. From core 0 that link stays in its core, from cell 3 of core 3 it crosses
from island 0 to island 1. -/
def routed : CellSt := { CellSt.empty with routes := [(0, BitVec.ofNat 32 (5 + 2 * 2 ^ 10 + 2 ^ 15))] }

theorem witness_RoutersMoveTokens :
    (let c := routed.setComing 4 [tok 0];
      Serving (withCell c) (islOfCore 0) ∧ ((withCell c).cell 0 0).coming 4 = [tok 0] ∧ (c.queue 4).length < 8
      ∧ ((withCell c).core 0).epochAt 0 (tok 0).stream = some (tok 0).epoch)
    ∧ (let c := routed.setQueue 4 [tok 0];
      (withCell c).hasCredit 0 0 2 = true
      ∧ ((rotation 6 (((withCell c).cell 0 0).served 2)).findSome? (fun q =>
        if q = 2 ∨ q = 5 then none else (((withCell c).cell 0 0).forwardable q 2).map (fun k => (q, k)))) = some (4, tok 0))
    ∧ (CellSt.empty.setBack 0 1).backOn 0 ≠ 0 ∧ creditWay 0 0 0 = none
    ∧ (let d := dev.setCell 3 3 (routed.setBack 2 1);
      Serving d (islOfCore 3) ∧ (d.cell 3 3).backOn 2 ≠ 0 ∧ creditWay 3 3 2 = some (16, 0, [1, 0]) ∧ d.pathOpen [1, 0] = true
      ∧ (d.setIsland 1 IslSt.reset).pathOpen [1, 0] = false ∧ Serving (d.setIsland 1 IslSt.reset) (islOfCore 3)) := by
  decide +kernel

/-- A MOV of register 1 to register 2, epoch 0 (Table 6.4). -/
def movEntry : W128 := BitVec.ofNat 128 (2 ^ 12 + (5 + 1 * 8) * 2 ^ 16 + (5 + 2 * 8) * 2 ^ 64 + 7 * 2 ^ 88)

theorem witness_CellOperationsFire :
    let d := withCell { CellSt.empty with firing := [(0, movEntry)] };
    cellCommand (.mov 0 0 .none) = some (0, 0, .none, 0) ∧ Serving d (islOfCore 0) ∧ d.nextEntry 0 0 = some (0, movEntry)
    ∧ feOp movEntry = 0 := by decide +kernel

/-- A binding of a type at cell 0 for slot 0 and stream 5: semaphores 1 and 2, ring of 64 bytes at 0, batches of 1. -/
def bind (type : Nat) : BindSt :=
  { cfg := BitVec.ofNat 128 (type * 2 ^ 5 + 5 * 2 ^ 8 + 2 ^ 20 + 1 * 2 ^ 21 + 2 * 2 ^ 24 + 64 * 2 ^ 54 + 2 ^ 76), pos := 0, units := 0
    stopped := false }

def withBinding (type : Nat) (c : CellSt) (s : Slot) : Dev :=
  ((withSlot s).setCell 0 0 c).modCore 0 (fun k => { k with bindings := [(3, bind type)] })

theorem witness_CorePortsComplete :
    (let d := withBinding 0 { CellSt.empty with outbound := [tok 0] } (slotOf []);
      Serving d (islOfCore 0) ∧ d.bindingOf 0 3 0 = some (bind 0) ∧ (d.slot 0 0).sem 1 = 0
      ∧ (((d.semDown 0 0 1 0).setBinding 0 3 (bind 0)).cell 0 0).portToken 5 0 = some (none, tok 0) ∧ (tok 0).kind = Kind.data
      ∧ (bind 0).pos < bdSlots (bind 0).cfg + bdBatch (bind 0).cfg * (bind 0).units)
    ∧ (let d := withBinding 1 CellSt.empty ((slotOf []).setSem 1 1);
      d.bindingOf 0 3 1 = some (bind 1) ∧ d.maySend 0 (bind 1) = true
      ∧ (bind 1).pos % max (bdBatch (bind 1).cfg) 1 = 0 ∧ (d.slot 0 0).sem 1 ≠ 0)
    ∧ (let d := withBinding 2 { CellSt.empty with outbound := [tok 4] } (slotOf []);
      d.bindingOf 0 3 2 = some (bind 2) ∧ (d.cell 0 0).portToken 5 0 = some (none, tok 4) ∧ (tok 4).kind = Kind.sem)
    ∧ (let d := withBinding 3 CellSt.empty ((slotOf []).setSem 1 1);
      d.bindingOf 0 3 3 = some (bind 3) ∧ d.maySend 0 (bind 3) = true ∧ (d.slot 0 0).sem 1 ≠ 0) := by decide +kernel

/-! ## Witnesses: the stall watch, hubs and memory -/

def island0 : Isl := ⟨0, 0⟩

/-- A slot whose cell holds a token that nothing takes. -/
def stuck (c : Ctx) (s : Slot) : Dev := ((devOf c).setSlot 0 0 s).setCell 0 0 (CellSt.empty.setQueue 0 [tok 0])

theorem witness_StallWatchCompletes :
    There dev island0
    ∧ (let d := stuck ctxRun (slotOf []);
      There d island0 ∧ (d.ctx 0).probe = none ∧ (d.slotsIn (islId island0) 0).filter (fun s => d.idleRises s.1 s.2) ≠ [])
    ∧ (let d := stuck { ctxRun with probe := some (1, []) } { slotOf [] with descs := [queued 9 copyDesc none .running] };
      d.slotsIn (islId island0) 0 ≠ [] ∧ (d.ctx 0).probeSeen.contains (islId island0) = false
      ∧ (d.slotsIn (islId island0) 0).any (fun s => (d.slot s.1 s.2).busy) = true)
    ∧ (let d := { stuck { ctxRun with probe := some (2, []) } (slotOf []) with moves := [(0, (1048576, 0))] };
      (d.slotsIn (islId island0) 0).all (fun s => d.slotTokens s.1 s.2 == 0
        || decide ((d.ctx 0).stallLimit ≤ (tget d.moves (moveKey s.1 s.2) (0, 0)).1)) = true
      ∧ (d.slotsIn (islId island0) 0).any (fun s => (d.slot s.1 s.2).busy) = false
      ∧ tget ([] : Table Nat) (islId island0) 0
        = ((d.slotsIn (islId island0) 0).map (fun s => (tget d.moves (moveKey s.1 s.2) (0, 0)).2)).sum
      ∧ (d.regionOf 0).all (fun i => (islId island0 :: (d.ctx 0).probeSeen).contains i) = true) := by decide +kernel

/-- A context whose page 0 leads to frame 0 of die 0. -/
def mapped : Ctx := { ctxRun with ptab := [(0, BitVec.ofNat 64 (mkPte 1 0 true false))] }

/-- The same with a performance ring of four records at 0 and SAMPLED mode. -/
def sampling : Ctx := ((mapped.setField 0x58 4 4).setField 7 1 4)

theorem witness_StallWatchCompletes_sample :
    let d := (devOf sampling).setSlot 0 0 (slotOf []);
    (d.ctx 0).perfMode = 1 ∧ d.slotsIn (islId island0) 0 ≠ []
    ∧ (let cores := (List.range 512).filter (fun n => islOfCore n == islId island0);
      (d.perfRecord 0 (islId island0) 1 (coreKey (cores.headD 0) 13 0)
        (cores.flatMap (fun n => leBytes 2 (if (d.slotsIn (islId island0) 0).any (fun s => s.1 == n) then d.busyBits 0 n else 0))
          ++ (d.depthCounts (islId island0) 0).flatMap (leBytes 2))).1 = true) := by decide +kernel

/-- A context whose page 0 leads to host memory at bus address 0. -/
def onHostPage : Ctx := { ctxRun with ptab := [(0, BitVec.ofNat 64 (mkPte2 0 true))] }

theorem witness_HubAccessCompletes :
    (let d := devOf mapped;
      Serving d (islOfHub 0) ∧ d.memOpen 0 0 0 2 = true ∧ (d.ctxRead 0 0 2).1 = 0 ∧ (d.ctx 0).rangeStatus 0 2 true = 0)
    ∧ (dev.memOpen 0 0 0 2 = true ∧ (dev.ctxRead 0 0 2).1 ≠ 0 ∧ (dev.ctx 0).rangeStatus 0 2 true ≠ 0)
    ∧ (let d := devOf onHostPage;
      d.memOpen 0 0 0 2 = true ∧ (d.ctx 0).rangeStatus 0 2 true = 0
      ∧ (piecesOf 0 2).any (fun q => onHost ((d.ctx 0).translate q.1 false false).2) = true
      ∧ Serving (d.setIsland islHost IslSt.reset) (islOfHub 0)
      ∧ (d.setIsland islHost IslSt.reset).memOpen 0 0 0 2 = false) := by decide +kernel

/-- A grist stream whose schedule and one sequence stand at address 0. -/
def stream0 : GStream :=
  { ctx := 0, num := 0
    rec_ := { object := 1, consumers := 1, window := 1, lock := 1, schedule := 0, entries := 1, cluster := 0, reservedZero := true }
    low := 0, next := 0, held := [], released := [], named := [] }

/-- An object of one page that context 0 holds as its object 1 at address 0. -/
def obj4 : Obj :=
  { holders := [(0, 1, 0)], flags := 1, size := 0x200000, tier := 1, motion := .stable, frames := [0], framesB := []
    logFrames := [], logged := 0, resident := none, placement := 0, hostRange := none, moveFrames := [], moveRange := none
    moved := 0, moveCmd := none, releaseCmd := none }

def withObj (c : Ctx) (o : Obj) : Dev := { devOf { c with objects := [(1, 4)] } with objs := [(4, o)] }

/-- Core 0 hosts a task of context 0, whose cluster holds the stream. -/
def streaming (c : Ctx) (s : Slot) : Dev :=
  ((withObj c obj4).setSlot 0 0 s).setCluster 0 { Cluster.reset with streams := [stream0] }

theorem witness_GristStreamsComplete :
    (let d := streaming ctxRun (slotOf []);
      Serving d (islOfHub 0) ∧ (d.cluster 0).streams.find? (fun g => g.ctx == 0 && g.num == 0) = some stream0
      ∧ d.onCluster 0 0 = true ∧ stream0.due < stream0.rec_.entries ∧ stream0.due < stream0.low + stream0.rec_.window
      ∧ (d.ctxRead 0 (stream0.rec_.schedule + 8 * stream0.due) 8).1 ≠ 0)
    ∧ (let d := streaming mapped (slotOf []);
      (d.ctxRead 0 0 8).1 = 0 ∧ d.objOf 0 1 = some (4, obj4)
      ∧ (let off := leNat (d.ctxRead 0 0 8).2 % 2 ^ 48;
        let va := (obj4.addrIn 0).getD 0 + off;
        let len := max 64 (leNat (((d.ctxRead 0 va 64).2.drop 8).take 4));
        off + 64 ≤ pagesOf obj4.size * 0x200000 ∧ (d.ctxRead 0 va 64).1 = 0
        ∧ stream0.heldBytes + len ≤ stream0.rec_.lock * 0x200000 ∧ off + len ≤ pagesOf obj4.size * 0x200000
        ∧ (d.ctxRead 0 va len).1 = 0 ∧ d.memOpen 0 0 va len = true)) := by decide +kernel

/-- An INT4 tile whose weights are sequence 0 of stream 0. -/
def gristTile : List Byte :=
  [0, 0, 7, 1] ++ List.replicate 12 0 ++ leBytes 4 0x400 ++ leBytes 4 (7 * 2 ^ 29) ++ leBytes 2 64 ++ leBytes 2 64 ++ leBytes 2 64
    ++ leBytes 2 2 ++ leBytes 4 (5 * 2 ^ 29) ++ List.replicate 16 0xFF ++ List.replicate 4 0 ++ List.replicate 8 0xFF

/-- The ISSUE of the descriptor at offset 0x40 to engine 0. -/
def gristIssue : W64 := word 1 (8 * 2 ^ 48 + 0x40)

theorem witness_GristStreamsComplete_starved :
    let s := { slotOf [gristIssue, 0] with stall := .issue };
    let d := ((streaming mapped s).modCore 0 (fun k => { k with spad := mwrites k.spad 0x40 gristTile })).rsetNat
      (hubKey 0 3 0 + 0x100) 1;
    Serving d (islOfCore 0) ∧ (d.slot 0 0).stall = .issue ∧ (d.slot 0 0).program[(d.slot 0 0).seq.pc]? = some gristIssue
    ∧ d.rnat (hubKey 0 3 0 + 0x100) ≠ 0 ∧ (d.slot 0 0).starved = false
    ∧ (match d.issueFind 0 0 gristIssue with
      | .stall b => b
      | _ => false) = true := by decide +kernel

/-- A sequence of stream 0 that the cluster holds fills the planes of a tile that names it. -/
theorem witness_ArrayCommandsComplete_grist :
    let s := { slotOf [] with kind := 1, descs := [queued 0 gristTile none .running] };
    let g := { stream0 with held := [GristSeq.mk 0 0 2112 none] };
    let d := (streaming mapped s).setCluster 0 { Cluster.reset with streams := [g] };
    (((fillOrder s.descs (s.loadws.filter (fun l => !l.consumed))).findSome?
      (fun src => (d.fillBytes 0 0 src).map (fun y => (src, y.1)))) = some (.grist 0 0, 0))
    ∧ (d.modSlot 0 0 Slot.reap).slot 0 0 = d.slot 0 0 := by decide +kernel

theorem witness_HbmUpkeepCompletes :
    (dev.rsetNat (hbmKey 0 0 0x14) 1).stackIn 0 = true
    ∧ (let d := dev.setPool 0 { DiePool.reset with toZero := [3], zeroed := 65536 };
      d.sec.devState = .ready ∧ (d.poolOf 0).toZero = [3] ∧ d.regionFrames 0 ≤ (d.poolOf 0).zeroed) := by decide +kernel

/-! ## Witnesses: objects -/

/-- A host range of eight pages of function 0. -/
def range9 : HostRange := { fn := 0, base := 0x40000000, size := 0x1000000 }

def withRange (d : Dev) : Dev := { d with host := { d.host with ranges := [(9, range9)] } }

/-- A context with quotas of 16 frames and 16 host pages. -/
def roomy (c : Ctx) : Ctx := (c.setField 0x30 4 16).setField 0x34 4 16

/-- Stack 0 in service with 520 frames zeroed, no cask reservation and no swap reserve. -/
def pooled (d : Dev) : Dev :=
  (((d.rsetNat (hbmKey 0 0 0x14) 1).rsetNat (mempoolKey 0x100) 0).rsetNat (schedKey 0x108) 0).setPool 0
    { DiePool.reset with zeroed := 520 }

/-- An entry for a HOST_BACKED object of one page at address 0. -/
def hostEntry : AllocEntry :=
  { object := 2, flags := 8, size := 0x200000, addr := 0x400000, placement := 0, reserved := 0, logFrames := 0, share := 0xFFFFFFFF }

def shared4 : Obj := { obj4 with flags := 0x14 }

theorem witness_ObjectCommandsAndMovesComplete_make :
    (let d := withRange (devOf (roomy ctxRun));
      LiveGood d hdrC ∧ (d.allocate 0 (d.ctx 0).bounds hostEntry).1 = 0 ∧ (d.allocate 0 (d.ctx 0).bounds hostEntry).2.2.1 = false)
    ∧ (let d := { devOf (roomy ctxRun) with objs := [(4, shared4)] };
      let e := { hostEntry with flags := 0x14, share := 4 };
      entryShares e = true ∧ (d.allocate 0 (d.ctx 0).bounds e).1 = 0)
    ∧ (withObj ctxRun obj4).objOf 0 1 = some (4, obj4) := by decide +kernel

theorem witness_ObjectCommandsAndMovesComplete_up :
    let o := { obj4 with tier := 2, frames := [], hostRange := some (9, 0x40000000), placement := 1 };
    let d := withRange (pooled (withObj (roomy ctxRun) o));
    o.motion = .stable ∧ (d.rangeOf 0 9).isSome = true ∧ o.hostRange.map (·.1) = some 9
    ∧ (∀ q ∈ o.holders, (d.ctx q.1).canCharge [0, pagesOf o.size, 0, 0] = true)
    ∧ (d.takeFrames (placeDies o.placement ((d.ctx 0).nearDie.getD 0) 0 (pagesOf o.size))).isSome = true := by decide +kernel

theorem witness_ObjectCommandsAndMovesComplete_down :
    let d := withRange (withObj (roomy ctxRun) obj4);
    obj4.holders.length ≤ 1 ∧ obj4.motion = .stable ∧ obj4.tier = 1 ∧ obj4.resident = none ∧ obj4.isVersioned = false
    ∧ obj4.isLogged = false ∧ obj4.frames ≠ [] ∧ d.rangeOf 0 9 = some range9
    ∧ d.roomIn range9 (pagesOf obj4.size) = some 0x40000000
    ∧ (d.ctx 0).canCharge [0, 0, pagesOf obj4.size, 0] = true := by decide +kernel

theorem witness_ObjectCommandsAndMovesComplete_carry :
    (∀ m ∈ [Motion.up, .down, .stopping], ∀ moved ∈ [0, 1],
      let o := { obj4 with motion := m, moved := moved, moveFrames := [1] };
      let d := withObj ctxRun o;
      tget? d.objs 4 = some o ∧ o.motion = m ∧ (moved = 1 → pagesOf o.size ≤ o.moved) ∧ (moved = 0 → o.moved < pagesOf o.size)
      ∧ d.frameOpen (o.moveFrames.getD 0 0) = true ∧ d.frameOpen (o.frames.getD 0 0) = true
      ∧ (d.setIsland islHost IslSt.reset).frameOpen (o.moveFrames.getD 0 0) = false) := by decide +kernel

/-! ## Witnesses: contexts -/

def ctxIn (s : CtxState) : Ctx := { ctxRun with state := s }

def place0 : TaskPlace := { task := 0, core := 0, slot := 0, base := 0, running := true }

theorem witness_ContextCommandsComplete :
    (AdminGood (devOf (ctxIn .free)) hdrA true ∧ ((devOf (ctxIn .free)).ctx 0).state = .free
      ∧ ((devOf (ctxIn .free)).ctx 1023).state = .free)
    ∧ (CtxGood (devOf (ctxIn .free)) hdrC)
    ∧ (let d := devOf { ctxIn .resident with places := [place0] };
      LiveGood d hdrC ∧ (d.ctx 0).state ≠ .running ∧ (d.ctx 0).state ≠ .blocked ∧ (d.ctx 0).places ≠ [])
    ∧ (LiveGood dev hdrC)
    ∧ (LiveGood (devOf { ctxRun with halted := true }) hdrC)
    ∧ (let d := devOf { ctxRun with gyle := Gyle.reset };
      let v : List Byte := [3];
      CtxGood d hdrC ∧ (d.ctx 0).busyGyle = false ∧ 0 < v.length ∧ v.length ≤ 32 ∧ 6 + v.length ≤ 256
      ∧ (∀ f ∈ descFields, f.1 < 6 + v.length → 6 < f.1 + f.2.1 →
        f.1 ≠ 0xC8 ∧ f.2.2.status (d.ctx 0) 0 = 0 ∧ badField f.1 ((d.ctx 0).setBytes 6 v) = false
        ∧ lowQuota f.1 ((d.ctx 0).setBytes 6 v) = false
        ∧ (f.2.2 = .reserved → ((d.ctx 0).setBytes 6 v).field f.1 f.2.1 = 0))) := by decide +kernel

/-- An image with no task, no section and no object. -/
def emptyImage : Image :=
  { headerGood := true, size := 64, dir := [], tasks := [], queues := [], streams := [], allocs := [], report := []
    reportStreams := [], digest := 0 }

theorem witness_ContextCommandsComplete_load :
    let d := pooled (devOf (roomy (ctxIn .free)));
    CtxGood d hdrC ∧ (d.ctx 0).state = .free ∧ d.sec.lifecycle ≠ 0 ∧ (d.loadImage 0 emptyImage).1.1 = 0 := by decide +kernel

theorem witness_ContextEventsComplete :
    (let d := devOf (ctxIn .killed);
      (d.ctx 0).state = .killed ∧ (∀ s ∈ d.slotsOf 0, (d.slot s.1 s.2).busy = false))
    ∧ (let d := devOf { ctxIn .sparging with places := [place0] };
      (d.ctx 0).state = .sparging ∧ d.hasWindows 0 = false ∧ (∀ q ∈ (d.ctx 0).places, (d.core q.core).test ≠ .running))
    ∧ ((dev.ctx 0).state = .running)
    ∧ (let d := devOf { ctxRun with preempting := true };
      Serving d (islOfCore 511) ∧ (d.ctx 0).preempting = true) := by decide +kernel

theorem witness_YieldsAndSwapsComplete :
    (let d := withSlot { slotOf [word 15 0] with preempt := true };
      Serving d (islOfCore 0) ∧ (d.slot 0 0).valid = true ∧ (d.slot 0 0).preempt = true ∧ d.yieldable 0 0 = true
      ∧ (d.ctx (d.slot 0 0).ctx).state ≠ .killed)
    ∧ (let d := (devOf { ctxRun with preempting := true }).setSlot 0 0 (slotOf []);
      Serving d (islOfCore 0) ∧ (d.slot 0 0).valid = true ∧ (d.ctx (d.slot 0 0).ctx).preempting = true ∧ (d.slot 0 0).overrun = false)
    ∧ (let d := devOf { ctxIn .resident with swapping := true };
      (d.ctx 0).swapping = true ∧ (d.ctx 0).state = .resident ∧ d.slotsOf 0 = [] ∧ d.redirectedAll 0 = true
      ∧ (d.ctx 0).swapsToHost = false
      ∧ (d.takeSwap 0 (pagesOf (d.ctx 0).swapBytes - (tget d.swapUsed 0 []).length)).isSome = true)
    ∧ (let d := devOf { ctxIn .swapped with swapping := true, places := [place0] };
      (d.ctx 0).swapping = true ∧ (d.ctx 0).state = .swapped ∧ (d.ctx 0).places ≠ []
      ∧ (∀ q ∈ (d.ctx 0).places, (d.core q.core).test ≠ .running)) := by decide +kernel

/-! ## Witnesses: gyles -/

def ctxGyle (s : GyleState) : Ctx := { ctxRun with gyle := { Gyle.reset with st := s } }

theorem witness_GyleCommandsComplete :
    (let d := devOf (ctxGyle .idle);
      GyleGood d hdrC ∧ (0 : W64).toNat < 2 ^ 48 ∧ (d.ctx 0).gyle.st = .idle ∧ (0 : W64).toNat = (d.ctx 0).num
      ∧ d.coordinates 0 = false)
    ∧ (GyleGood dev hdrC ∧ (dev.ctx 0).gyle.st = .running ∧ (0 : W64).toNat = (dev.ctx 0).num)
    ∧ (let d := devOf ((ctxGyle .voted).setField 0x89 1 2);
      GyleGood d hdrC ∧ (d.ctx 0).coordMode = 2 ∧ (d.ctx 0).gyle.st = .voted ∧ (1 : Byte).toNat ≤ 1)
    ∧ (GyleGood (devOf (ctxGyle .held)) hdrC ∧ ((devOf (ctxGyle .held)).ctx 0).gyle.st = .held) := by decide +kernel

/-- A message in a receive buffer, admitted. -/
def msgOf (type : Byte) (vc : Fin 4) (data : List Byte) (body : BitVec 160) : RxMsg :=
  { hdr := { type := type, vc := vc, dataFlits := 0, dst := 0, src := 1, dstCtx := 0, srcCtx := 0, job := 0, gyle := 0, attempt := 0
             layoutEpoch := 0, tag := 3, body := body, sequence := 0 }
    data := data, tag := none, admitted := some true }

/-- The device with a message at the head of a virtual channel of port 0. -/
def withMsg (c : Ctx) (m : RxMsg) : Dev :=
  (devOf c).setPort 0 { Port.reset with rx := Port.reset.rx.set m.hdr.vc.1 [m] m.hdr.vc.2 }

theorem witness_GyleEventsComplete :
    (let d := devOf { ctxRun with gyle := { ctxRun.gyle with startPending := true } };
      (d.ctx 0).gyle.st = .running ∧ (d.ctx 0).gyle.startPending = true ∧ (d.ctx 0).state = .running
      ∧ d.clusters.any (fun e => e.2.queues.any (fun q => q.ctx == 0 && q.resetPending)) = false)
    ∧ (let d := devOf { ctxRun with resil := { Resil.reset with capture := .capturing } };
      (d.ctx 0).resil.capture = .capturing ∧ (d.ctx 0).resil.captured = false ∧ (d.ctx 0).resil.readyCycle = none)
    ∧ (let d := devOf { ctxRun with gyle := { ctxRun.gyle with cause := some { cause := 12, status := 0, source := 0 } } };
      (d.ctx 0).gyle.st = .running ∧ (d.ctx 0).gyle.cause.isSome = true)
    ∧ (dev.voteReady 0 = true ∧ (dev.ctx 0).gyle.cause = none ∧ (dev.ctx 0).gyle.startPending = false
      ∧ (dev.ctx 0).resil.capture ≠ .capturing ∧ dev.proofHolds 0 = true)
    ∧ (let m := msgOf 6 0 [1] 0;
      (withMsg ctxRun m).headMsg 0 0 (fun m => m.hdr.type == 6 && (ballotOf m.data).type == 1) = some m
      ∧ m.hdr.dstCtx.toNat < 1024)
    ∧ (let m := msgOf 6 0 [2] 0;
      (withMsg ctxRun m).headMsg 0 0 (fun m => m.hdr.type == 6 && (ballotOf m.data).type == 2) = some m)
    ∧ (let d := devOf (({ ctxRun with gyle := { ctxRun.gyle with coord := { ctxRun.gyle.coord with deadlineRuns := true } } } :
          Ctx).setField 0x89 1 1 |>.setField 0x9C 4 1);
      let d := d.setIsland (islMgmt 0) { IslSt.reset with run := .run, cycle := 500 };
      d.coordinates 0 = true ∧ (d.ctx 0).gyle.coord.deadlineRuns = true
      ∧ (d.ctx 0).resil.startCycle + 500 * (d.ctx 0).voteDeadline ≤ d.cycleOf (islMgmt 0))
    ∧ (let d := dev;
      d.cycleOf (islMgmt 0) < (d.ctx 0).resil.startCycle + 500 * (d.ctx 0).voteDeadline) := by decide +kernel

theorem witness_GyleEventsComplete_late : ((devOf (ctxGyle .voted)).ctx 0).gyle.st = .voted := by decide +kernel

/-- A context whose gyle is being decided. -/
def deciding (commit : Bool) : Ctx :=
  { ctxRun with gyle := { Gyle.reset with
      st := .applying
      decision := some { gyle := 0, commit := commit, cause := 12, status := 0, origin := 0, attempt := 0 } } }

theorem witness_DecisionsApply :
    ((devOf (deciding true)).ctx 0).gyle.st = .applying ∧ ((devOf (deciding true)).ctx 0).gyle.decision.isSome = true
    ∧ (let d := (devOf (deciding false)).setSlot 0 0 (slotOf [word 15 0]);
      (∀ s ∈ d.slotsOf 0, (d.slot s.1 s.2).busy = false
        ∧ (d.executes s.1 s.2 = false ∨ (d.slot s.1 s.2).stall ≠ .none))
      ∧ (d.ctx 0).resil.capture ≠ .capturing) := by decide +kernel

/-- A device whose context is at the end of an aborted gyle, just before it is known whether the gyle is replayed. -/
def undone (d : Dev) : Dev :=
  let d0 := (d.slotsOf 0).foldl (fun d s => d.returnAll s.1 s.2) (d.noteEvent (islMgmt 0))
  let f := d0.clearDirty 0
  let l := f.2.restoreLogs 0
  let r := ((l.2.spoilSlots 0 (d.ctx 0).num).count (gyleKey 0x850) l.1).endRecords 0 false f.1 l.1
  (((r.2.count (gyleKey 0x808) 1).endStreams 0).rewind 0).modCtx 0 (fun c => c.setField 0x92 2 (min 65535 (c.aborts + 1)))

theorem witness_DecisionsApply_replay :
    (let d := undone (devOf (deciding false));
      d.sec.devState ≠ .error ∧ (d.ctx 0).replays.1 = true)
    ∧ (let d := undone (devOf ((deciding false).setField 0x8B 1 0));
      d.sec.devState ≠ .error ∧ (d.ctx 0).replays.1 = false)
    ∧ (let d := devOf (deciding false);
      (undone { d with sec := { d.sec with devState := .error } }).sec.devState = .error) := by decide +kernel

/-! ## Witnesses: the fabric -/

/-- The device with port 0 up and as given. -/
def withPort (q : Port) : Dev := (dev.setPort 0 q).rsetNat (tapKey 0 0x14) 2

/-- A group without flits under link word w, with its CRC right or wrong. -/
def groupOf (w : LinkWord) (good : Bool) : Group :=
  { flits := [], word := { w with crc := if good then groupCrc [] w else ~~~ groupCrc [] w }, fecBad := false, fecCorrected := 0 }

def word0 : LinkWord :=
  { seq := Port.reset.ack + 1, ack := 0, nak := false, ackValid := false, credit := 0, creditVc := 0, crc := 0 }

def group0 (good : Bool) : Group := groupOf word0 good

/-- A group sent before, without flits. -/
def sent0 : SentGroup := { seq := 0, flits := [], credit := 0, creditVc := 0 }

def partner1 : Partner :=
  { state := .admitted, ports := 1, at_ := 0, session := 0, encrypted := false, keyTx := 0, keyRx := 0 }

theorem witness_LinksComplete :
    (let d := withPort { Port.reset with replay := [sent0], resend := 1 };
      d.portUp 0 = true ∧ 0 < (d.port 0).resend
      ∧ (d.port 0).replay[(d.port 0).replay.length - (d.port 0).resend]? = some sent0)
    ∧ (let d := withPort Port.reset;
      d.portUp 0 = true ∧ (d.port 0).resend = 0 ∧ (d.port 0).replay.length < 128)
    ∧ (let g := group0 true;
      g.word.crc = groupCrc g.flits g.word ∧ g.fecBad = false ∧ g.fecCorrected = 0 ∧ g.word.ackValid = false
      ∧ g.word.seq = ((withPort Port.reset).port 0).ack + 1)
    ∧ ((group0 false).word.crc ≠ groupCrc (group0 false).flits (group0 false).word)
    ∧ (let d := (withPort { Port.reset with replay := [sent0] }).rsetNat (tapKey 0 0x104) 8;
      d.portUp 0 = true ∧ (d.port 0).replay ≠ [] ∧ (d.port 0).resent < d.rnat (tapKey 0 0x104) % 256)
    ∧ (let d := (dev.rsetNat (tapKey 0 0x14) 1).rsetNat (tapKey 0 0x10) 1;
      d.rnat (tapKey 0 0x14) % 4 = 1 ∧ d.rnat (tapKey 0 0x10) % 2 = 1) := by decide +kernel

theorem witness_LinksComplete_lookup :
    let m := { msgOf 1 0 [] 0 with admitted := none };
    let d := (withPort { Port.reset with part := Port.reset.part.set 0 (some m) }).setPartner 1 partner1;
    (d.port 0).unknown 0 = some m ∧ d.routeOpen (islOfPort 0) (islMgmt 0) = true ∧ d.routeOpen (islMgmt 0) (islOfPort 0) = true
    ∧ (let r := (d.carry (islOfPort 0) (islMgmt 0)).partnerRead m.hdr.src.toNat false false;
      let d1 := r.2.carry (islMgmt 0) (islOfPort 0);
      r.1 = true ∧ d1.admitted m.hdr.src.toNat = true
      ∧ ((d1.port 0).rx.get 0).any (fun m => m.admitted.isNone) = false) := by decide +kernel

/-- A message body from its fields: offset in the header and value. -/
def bodyWith (fs : List (Nat × Nat)) : BitVec 160 := BitVec.ofNat 160 (fs.foldl (fun a f => a + f.2 * 2 ^ (8 * (f.1 - 0x24))) 0)

/-- A memory window of one granule at address 0 of context 0. -/
def winBody0 : WinBody :=
  { owner := 0, target := 0, port := 0, size := 64, base := 0, spill := 0, key := 0, notify := 0, reservedZero := true }

def openWin (b : WinBody) : Window := { Window.reset with state := .open, body := b }

/-- A WRITE of 64 bytes to window 0. -/
def write0 (window : Nat) : RxMsg := msgOf 1 1 (List.replicate 64 0) (bodyWith [(0x24, window), (0x34, 64)])

theorem witness_WritesComplete :
    (let m := write0 7;
      let d := withMsg ctxRun m;
      d.headMsg 0 1 (fun m => m.hdr.type == 1) = some m ∧ d.routeOpen (islOfPort 0) (islOfPort (d.homePort 0 m.hdr)) = true
      ∧ d.writeStatus m.hdr ≠ 0)
    ∧ (let m := write0 0;
      let d := (withMsg mapped m).setWindow 0 (openWin winBody0);
      d.headMsg 0 1 (fun m => m.hdr.type == 1) = some m ∧ d.routeOpen (islOfPort 0) (islOfPort (d.homePort 0 m.hdr)) = true
      ∧ d.writeStatus m.hdr = 0
      ∧ d.heldForGyle (d.window (wrWindow m.hdr)) = false ∧ d.heldForTest (d.window (wrWindow m.hdr)) = false
      ∧ (d.port (d.homePort 0 m.hdr)).hold.any (fun o => o.hdr.type == 1 && wrWindow o.hdr == wrWindow m.hdr) = false)
    ∧ (let m := write0 0;
      let c := { ctxGyle .voted with ptab := [(0, BitVec.ofNat 64 (mkPte 1 0 true true))] };
      let d := (withMsg c m).setWindow 0 (openWin winBody0);
      d.headMsg 0 1 (fun m => m.hdr.type == 1) = some m ∧ d.routeOpen (islOfPort 0) (islOfPort (d.homePort 0 m.hdr)) = true
      ∧ d.writeStatus m.hdr = 0 ∧ d.heldForGyle (d.window (wrWindow m.hdr)) = true
      ∧ (d.port (d.homePort 0 m.hdr)).hold.length < 64)
    ∧ (let m := write0 0;
      let d := (withPort { Port.reset with hold := [m] }).setWindow 0 (openWin winBody0);
      (d.port 0).hold.find? d.mayGo = some m ∧ m.hdr.type = 1) := by decide +kernel

/-- A message of send 5 that waits for its answer. -/
def inFlight (busy : Bool) : InFlight :=
  { tag := 3, port := 0, hdr := { (msgOf 1 1 [] 0).hdr with dst := 1 }, data := [], sendId := some 5, channel := none, busy := busy
    cask := false, rack := false }

theorem witness_WritesComplete_answers :
    (let m := msgOf 2 0 [] 0;
      let d := withMsg { ctxRun with msgs := [inFlight false] } m;
      d.headMsg 0 0 (fun m => m.hdr.type == 2) = some m ∧ (d.popMsg 0 0).staleAnswer m.hdr = false
      ∧ (d.popMsg 0 0).answered m.hdr = some (inFlight false) ∧ (inFlight false).sendId = some 5)
    ∧ (let m := msgOf 3 0 [] (bodyWith [(0x24, Code.windowBusy.toNat)]);
      let d := withMsg { ctxRun with msgs := [inFlight false] } m;
      let d1 := (d.popMsg 0 0).count (tapKey 0 0x830) 1;
      d.headMsg 0 0 (fun m => m.hdr.type == 3) = some m ∧ d1.staleAnswer m.hdr = false
      ∧ d1.answered m.hdr = some (inFlight false) ∧ BitVec.ofNat 16 (bodyField m.hdr 0x24 2) = Code.windowBusy)
    ∧ BitVec.ofNat 16 (bodyField (msgOf 3 0 [] (bodyWith [(0x24, Code.windowKey.toNat)])).hdr 0x24 2) = Code.windowKey := by
  decide +kernel

theorem witness_SendsComplete :
    (let c := (mapped.setField 0xEA 2 1);
      let d := (devOf c).setSlot 0 0 ((slotOf []).setSem 0 1);
      let es := (List.range ((d.ctx 0).field 0xEA 2)).map (d.sendEntry 0);
      Serving d (islOfCore 0) ∧ (d.slot 0 0).valid = true ∧ (d.ctx 0).inWork = true ∧ (d.slot 0 0).sem 0 ≠ 0 ∧ (∀ e ∈ es, e.1 = 0)
      ∧ es.filter (fun e => rn e.2 0 2 == (d.slot 0 0).task && bitsOf (rn e.2 2 1) 2 0 == 0) ≠ [])
    ∧ (({ ctxRun with msgs := [inFlight true] } : Ctx).msgs.find? (fun m => m.tag == 3 && m.busy) = some (inFlight true))
    ∧ (({ ctxRun with msgs := [inFlight false] } : Ctx).msgs.find? (fun m => m.tag == 3) = some (inFlight false)
      ∧ ctxRun.resil.reading = none) := by decide +kernel

theorem witness_WindowsComplete :
    (let d := devOf (mapped.setField 0xF8 2 1);
      LiveGood d hdrC ∧ bitsOf winBody0.notify.toNat 14 12 = 0 ∧ (d.ctx 0).field 0xF8 2 > d.windowsOf 0
      ∧ d.windowBad 0 winBody0 = false ∧ (d.window 4095).state = .free)
    ∧ (let d := dev.setWindow 4095 (openWin winBody0);
      LiveGood d hdrC ∧ (d.window 4095).state = .open ∧ (d.window 4095).body.owner = 0)
    ∧ (({ openWin winBody0 with state := .closing } : Window).state = .closing)
    ∧ (let w := openWin { winBody0 with target := 1 };
      let d := (devOf (ctxIn .blocked)).setWindow 0 w;
      (d.window 0).state ≠ .free ∧ winSpills (d.window 0).body = true ∧ (d.window 0).redirected = false
      ∧ (d.ctx (d.window 0).body.owner).state ≠ .running)
    ∧ (let d := dev.setWindow 0 { openWin { winBody0 with target := 1 } with redirected := true };
      (d.window 0).redirected = true ∧ (d.ctx (d.window 0).body.owner).state = .running) := by decide +kernel

/-- A collective that runs, without steps. -/
def run0 : CollRun :=
  { ctx := 0, task := 0, bf16 := false, port := 0, stepSem := 0, readySem := 0, doneSem := 0, bufOff := 0, landOff := 0, elements := 1
    steps := [], startCycle := 0, readyUsed := 0, failed := false }

theorem witness_CollectivesComplete :
    (let c := mapped.setField 0xE8 2 1;
      let d := (devOf c).setSlot 0 0 ((slotOf []).setSem 0 1);
      let all := (List.range ((d.ctx 0).field 0xE8 2)).map (d.collRec 0);
      Serving d (islOfCore 0) ∧ (d.slot 0 0).valid = true ∧ (d.ctx 0).inWork = true ∧ (d.slot 0 0).sem 0 ≠ 0 ∧ all.any (·.isNone) = false
      ∧ (((all.filterMap id).filter (fun b => crTask b == 0 && crStart b == 0))[tget (d.ctx 0).collNext 0 0]?).isSome = true
      ∧ (∀ e ∈ d.chans, e.2.run = none) ∧ (d.chan 0).run = none)
    ∧ (let m := msgOf 4 2 [] 0;
      (withMsg ctxRun m).headMsg 0 2 (fun m => m.hdr.type == 4) = some m ∧ (withMsg ctxRun m).collHeld m.hdr = false)
    ∧ (let m := msgOf 5 0 [] 0;
      let d := (withMsg ctxRun m).setChan 0 { Chan.reset with owner := some 0 };
      let d1 := d.popMsg 0 0;
      d.headMsg 0 0 (fun m => m.hdr.type == 5) = some m ∧ d1.collStale m.hdr = 0 ∧ (d1.chan 0).owner = some m.hdr.dstCtx.toNat
      ∧ (d1.chan 0).run = none ∧ (d1.chan 0).collSeq ≤ bodyField m.hdr 0x28 2)
    ∧ (let d := (dev.setChan 63 { Chan.reset with run := some run0 }).modIsland (islOfPort 0) (fun i => { i with cycle := 1600000000 });
      (d.chan 63).run = some run0 ∧ run0.failed = false ∧ (d.ctx 0).field 0xDC 4 = 0
      ∧ run0.startCycle + 1600 * 1000000 ≤ (d.island (islOfPort 0)).cycle)
    ∧ (LiveGood (devOf (ctxGyle .idle)) hdrC ∧ (ctxGyle .idle).gyle.st = .idle) := by decide +kernel

/-! ## Witnesses: tests and repair -/

def withTest (s : TestState) (k : Slot) : Dev := (withSlot k).modCore 0 (fun c => { c with test := s })

/-- The overlay entry of a type for a target with a value (Table 11.9). -/
def overlay (type target value : Nat) : W128 := BitVec.ofNat 128 (type + target * 2 ^ 32 + value * 2 ^ 64)

theorem witness_TestsAndOverlayComplete :
    (dev.retired Unit.core 511 = false ∧ (dev.core 511).test = .idle ∧ ((withTest .due Slot.empty).core 0).test = .due
      ∧ (withTest .due Slot.empty).ctxsOn 0 = [] ∧ (withTest .overdue (slotOf [])).ctxsOn 0 ≠ []
      ∧ ((withTest .running Slot.empty).core 0).test = .running ∧ Serving dev (islOfCore 511))
    ∧ (There dev ⟨0, 34⟩ ∧ There dev ⟨3, 33⟩)
    ∧ (AdminGood dev hdrA true ∧ unitThere 1 511 = true ∧ dev.retired 1 511 = false ∧ coreOfUnit 1 511 = some 511
      ∧ unitThere 5 11 = true ∧ dev.retired 5 11 = false ∧ coreOfUnit 5 11 = none)
    ∧ (entryFormed (overlay 4 3 900) = true ∧ ovOrigin (overlay 4 3 900) = 0 ∧ dev.entryRefused (overlay 4 3 900) = false
      ∧ ovType (overlay 4 3 900) ≠ 3)
    ∧ (entryFormed (overlay 3 511 0) = true ∧ ovType (overlay 3 511 0) = 3 ∧ dev.entryRefused (overlay 3 511 0) = false
      ∧ ((dev.addEntry (overlay 3 511 0)).overlayChanged (overlay 3 511 0)).retired Unit.core (ovTarget (overlay 3 511 0)) = false)
    ∧ (overlay 4 3 900 ∈ (dev.addEntry (overlay 4 3 900)).ras.overlay) := by decide +kernel

/-! ## Witnesses: resilience -/

/-- A block without holder, whose staging object and loss word lie at address 0 (Table 12.3). -/
def block0 : ResilBytes := BitVec.ofNat 512 ((2 ^ 64 - 1) * 2 ^ (8 * 0x20) + 1 * 2 ^ (8 * 0x38))

/-- The staging bytes of an image of 256 bytes: version 1, sealed, its length. -/
def image0 : List Byte := [1, 0, 1, 0] ++ List.replicate 100 0 ++ leBytes 8 256 ++ List.replicate 144 0

def staged (r : Resil → Resil) : Dev :=
  let c := { mapped with resil := r { Resil.reset with block := block0 } }
  { withObj c obj4 with hbm := mwrites [] 0 image0 }

/-- A cask slot of partner 1. -/
def cask0 (seal_ : Bool) : CaskSlot :=
  { owner := 1, ctx := 0, size := 0x200000, key := 0, versions := #v[CaskVersion.mk 0 seal_ false, CaskVersion.mk 0 false false]
    frames := [1, 2], flipped := false }

theorem witness_ResilienceCommandsComplete :
    (∀ st ∈ [GyleState.running, .held],
      let d := withObj (ctxGyle st) obj4;
      LiveGood d hdrC ∧ blockBad block0 = false ∧ d.stagingBad 0 block0 = false ∧ (d.ctx 0).gyleRuns = (st == .running)
      ∧ ((d.ctx 0).subCharges [0, 0, 0, (d.ctx 0).resil.charge]).canCharge [0, 0, 0, d.caskCharge 0 block0] = true)
    ∧ (AdminGood dev hdrA true ∧ reservedId 1 = false ∧ leastUnused dev.casks 0 < 65536)
    ∧ (tget? { dev with casks := [(0, cask0 true)] }.casks 0 = some (cask0 true))
    ∧ (LiveGood dev hdrC ∧ (dev.takeSchedule 0 1).1 = false)
    ∧ (let d := staged id;
      d.stagingBytes 0 = some image0 ∧ (ckptOf image0).sealed = true ∧ (ckptOf image0).version = 1
      ∧ (d.ctx 0).resil.capture ≠ .capturing ∧ image0.length ≤ 256)
    ∧ ((dev.ctx 0).resil.waiting = none ∧ (dev.ctx 0).resil.racking = none) := by decide +kernel

theorem witness_ResilienceCommandsComplete_host :
    let d := ((dev.rsetNat (hbmKey 4 0 0x14) 1).rsetNat (mempoolKey 0x100) 1).rsetNat (schedKey 0x108) 0;
    (d.takeCask 2).isSome = true := by decide +kernel

def rackBody0 : RackBody :=
  { epoch := 1, baseEpoch := 0, shardChange := false, reservedZero := true, ownSource := 0, gyle := 0, plan := 0, entries := 1
    deadline := 0, ownImage := 0, hostImage := 0 }

theorem witness_ResilienceCommandsComplete_rack :
    let d := devOf (ctxGyle .held);
    LiveGood d hdrC ∧ rackBody0.reservedZero = true ∧ rackBody0.shardChange = false ∧ rackBody0.ownSource ≤ 2 ∧ rackBody0.entries ≤ 65535 ∧ rackBody0.gyle < 2 ^ 48
    ∧ (d.ctx 0).resil.racking = none ∧ (d.ctx 0).resil.waiting = none
    ∧ ((((d.modCtx 0 (fun c => c.setField 0xC0 2 rackBody0.epoch.toNat)).modGyle 0 (fun g =>
        { g with nextEpoch := none })).stopGyle 0 9).ctx 0).inGyle = true := by decide +kernel

def caskMsg (op : Nat) (fs : List (Nat × Nat)) : RxMsg := msgOf 8 3 (List.replicate 64 0) (bodyWith ((0x24, op) :: fs))

theorem witness_CaskMessagesComplete :
    (∀ op ∈ [0, 1, 2],
      let m := caskMsg op [];
      let d := { withMsg ctxRun m with casks := [(0, cask0 true)] };
      d.headCask 0 op = some m ∧ (d.popMsg 0 3).caskStatus m.hdr = 0
      ∧ tget? (d.popMsg 0 3).casks (ckSlot m.hdr) = some (cask0 true) ∧ ckVersion m.hdr = 0 ∧ ckBytes m.hdr ≤ 0x400000
      ∧ ((cask0 true).version false).sealed = true ∧ ((cask0 true).version false).lost = false)
    ∧ (let m := caskMsg 3 [];
      let k := { inFlight false with cask := true, hdr := (caskMsg 2 []).hdr };
      let c := { ctxRun with msgs := [k], resil := { Resil.reset with reading := some { version := 0, got := [], upTo := 256 } } };
      let d := withMsg c m;
      d.headCask 0 3 = some m ∧ ((d.popMsg 0 3).ctx 0).msgs.any (fun k => k.reads && k.tag == m.hdr.tag) = true
      ∧ ckOffset m.hdr = ([] : List Byte).length ∧ ([] ++ m.data.take (ckBytes m.hdr)).length < 256)
    ∧ (let m := caskMsg 4 [];
      let d := withMsg { ctxRun with resil := { Resil.reset with block := BitVec.ofNat 512 (2 ^ (8 * 0x0C)) } } m;
      d.headCask 0 4 = some m ∧ (((d.popMsg 0 3).sendWack 0 m.hdr).ctx 0).holder = m.hdr.src.toNat
      ∧ (((d.popMsg 0 3).sendWack 0 m.hdr).ctx 0).rf 0x10 2 = ckSlot m.hdr)
    ∧ (let m := caskMsg 5 [(0x2C, 2)];
      let d := withMsg (ctxRun.setField 0x8C 3 1) m;
      let d1 := (d.popMsg 0 3).sendWack 0 m.hdr;
      d.headCask 0 5 = some m ∧ m.hdr.dstCtx.toNat < 1024 ∧ (d1.ctx 0).state.gone = false
      ∧ (d1.ctx 0).coordinator = m.hdr.src.toNat ∧ (d1.ctx 0).coordCtx = m.hdr.srcCtx.toNat
      ∧ (d1.takeSchedule 0 (ckOffset m.hdr % 2 ^ 48)).1 = false)
    ∧ (let m := caskMsg 6 [];
      let d := withMsg (ctxRun.setField 0x89 1 1) m;
      d.headCask 0 6 = some m ∧ m.hdr.dstCtx.toNat < 1024 ∧ ((d.popMsg 0 3).sendWack 0 m.hdr).coordinates 0 = true) := by
  decide +kernel

/-- A racking whose own image is restored, which expects 64 bytes of object 1 from partner 1 and has what is given. -/
def raced (got : List (Nat × Nat × Nat)) : Rack :=
  { cmd := hdrC, body := rackBody0, ownFail := false, sendFail := false
    plan := [{ kind := 4, peer := 1, srcObject := 1, dstObject := 1, srcOffset := 0, dstOffset := 0, bytes := 64, peerCtx := 0, slot := 0 }]
    restored := true, seeds := [], proof := (0, 0), received := got }

theorem witness_CaskMessagesComplete_rack :
    let m := { msgOf 9 3 (List.replicate 64 0) (bodyWith [(0x26, 1), (0x30, 64)]) with
      hdr := { (msgOf 9 3 [] (bodyWith [(0x26, 1), (0x30, 64)])).hdr with layoutEpoch := 1 } };
    let c := { ctxRun with objects := [(1, 4)], resil := { Resil.reset with racking := some (raced []) } };
    let d := { withMsg c m with objs := [(4, obj4)] };
    d.headMsg 0 3 (fun m => m.hdr.type == 9) = some m ∧ ((d.popMsg 0 3).ctx 0).resil.racking = some (raced [])
    ∧ bodyField m.hdr 0x24 1 = 0 ∧ m.hdr.layoutEpoch = (raced []).body.epoch ∧ (raced []).expectOf m.hdr = some 0
    ∧ ((d.popMsg 0 3).objOf 0 (bodyField m.hdr 0x26 2)).map (·.2) = some obj4 := by decide +kernel

/-! ## Witnesses: cask events -/

theorem witness_CaskEventsComplete :
    (∀ off ∈ [0, 255], let d := staged (fun r => { r with drainAt := some off });
      (d.ctx 0).resil.drainAt = some off ∧ d.stagingBytes 0 = some image0 ∧ off < image0.length)
    ∧ (let d := staged (fun r => { r with drainAt := some 256 });
      (d.ctx 0).resil.drainAt = some 256 ∧ d.stagingBytes 0 = some image0 ∧ 256 = image0.length)
    ∧ (let k := { inFlight false with cask := true, hdr := (caskMsg 0 []).hdr };
      ((devOf { ctxRun with msgs := [k] }).ctx 0).msgs.any InFlight.drains = true)
    ∧ (let k := raced [(0, 0, 32), (0, 32, 32)];
      let d := devOf { ctxRun with resil := { Resil.reset with racking := some k } };
      (d.ctx 0).resil.racking = some k ∧ k.restored = true ∧ (d.ctx 0).msgs.any (·.rack) = false
      ∧ (∀ e ∈ k.plan.zipIdx, e.1.kind = 4 → k.got e.2 e.1 = true)) := by decide +kernel

/-! ## Witnesses: islands -/

def hubIsl : Isl := ⟨0, 16⟩

theorem witness_CrossingTransferCarriesTheSequence :
    There dev island0 ∧ (hubIsl.nn.1 = 34 → hubIsl.d.1 = 0)
    ∧ dev.crossOpen (islId island0) (islId hubIsl) = true := by decide +kernel

theorem witness_CrossingsAndClocksComplete :
    There dev island0
    ∧ (dev.crossOpen (islId island0) (islId hubIsl) = true
      ∧ (dev.cross (islId island0) (islId hubIsl)).awaits = false)
    ∧ (∀ b ∈ [false, true],
      let d := dev.setCross (islId island0) (islId hubIsl) { dev.cross 0 16 with
        req := [(eventChannel, true)], pending := b };
      d.crossOpen (islId island0) (islId hubIsl) = true ∧ (d.cross (islId island0) (islId hubIsl)).awaits = true
      ∧ (d.cross (islId island0) (islId hubIsl)).pending = b)
    ∧ (let d := dev.setIsland (islId ⟨1, 31⟩) { IslSt.reset with run := .run };
      There d ⟨0, 31⟩ ∧ d.crossOpen (islId ⟨0, 31⟩) (islId ⟨1, 31⟩) = true ∧ islId ⟨0, 31⟩ / 256 ≠ islId ⟨1, 31⟩ / 256)
    ∧ (crossChannels (islId island0) (islId hubIsl) ≠ 0 ∧ Dev.reset.sec.devState = .booting ∧ dev.sec.devState = .ready)
    ∧ (dev.freqGood (islId island0) 550 = true ∧ dev.freqGood (islId island0) dev.binMax = true)
    ∧ ((dev.island (islId island0)).run = .run ∧ (dev.island (islId island0)).stretching = false)
    ∧ (let d := dev.setIsland 0 { dev.island 0 with stretching := true };
      (d.island (islId island0)).stretching = true) := by decide +kernel

/-! ## Witnesses: registers -/

def isRow (key : Nat) : Bool := (regRow key).isSome

theorem witness_RegisterWritesComplete :
    dev.hostUp = true
    ∧ (windowKey 0 0x3FFFFFC = some 0x3FFFFFC ∧ 0x3FFFFFC % 4 = 0 ∧ windowKey 64 0 = some (vfKey 64 0) ∧ 0 % 8 = 0)
    ∧ (powerKey 0 0 % 0x1000 = 0 ∧ isRow (powerKey 0 0 + 0x18) = true ∧ pageOfKey (powerKey 0 0) = some ⟨.power, 0⟩)
    ∧ (coreKey 0 2 0 % 0x1000 = 0 ∧ pageOfKey (coreKey 0 2 0) = some ⟨.array, 0⟩)
    ∧ dev.blockUp (islMgmt 0) = true ∧ dev.blockUp (islOfCore 0) = true ∧ dev.blockUp islHost = true
    ∧ dev.updates (islOfCore 0) = true
    ∧ (isRow (coreKey 511 2 0 + 0x18) = true ∧ pageOfKey (coreKey 511 2 0) = some ⟨.array, 511⟩
      ∧ dev.blockUp (PageAt.mk PageKind.array 511).island = false)
    ∧ ((dev.toBlock (islOfCore 0)).stageOpen (coreKey 0 12 0) = false ∧ bitAt (dev.rnat (coreKey 0 12 0 + 0x40)) 31 = false) := by decide +kernel

/-- Core 0's cell array page has staged values of a generation. -/
def stagedPage : Dev := (dev.openGen (coreKey 0 12 0) 9).setPageState (coreKey 0 12 0) 1

theorem witness_RegisterWritesComplete_stage :
    let w := stagedPage.toBlock (islOfCore 0);
    stagedPage.blockUp (islOfCore 0) = true ∧ w.stageOpen (coreKey 0 12 0) = true ∧ w.pageState (coreKey 0 12 0) = 1
    ∧ bitAt (stagedPage.rnat (coreKey 0 12 0 + 0x40)) 31 = false
    ∧ ((w.rset (coreKey 0 12 0 + 0x50) 5).setMirror (coreKey 0 12 0 + 0x50) 5).pageState (coreKey 0 12 0) = 1 := by
  decide +kernel

theorem witness_MirrorCompletes :
    (pageOfKey (coreKey 0 2 4) = some ⟨.array, 0⟩ ∧ coreKey 0 2 4 % 0x1000 < 0x800
      ∧ dev.updates (PageAt.mk PageKind.array 0).island = true)
    ∧ (windowKey 0 (hostifKey 0x800) = some (hostifKey 0x800) ∧ 0x800 ≤ hostifKey 0x800 % 0x1000 ∧ hostifKey 0x800 % 8 = 0
      ∧ isRow (hostifKey 0x800) = true)
    ∧ (let d := (devOf { ctxRun with ptab := [(0, BitVec.ofNat 64 (mkPte 1 0 true false))] }).rsetNat (hostifKey 0x300) (2 ^ 31);
      d.hostUp = true ∧ d.memwinGood 0 64 false = true ∧ d.hostMemOpen (d.memwinAt 0).1 (d.memwinAt 0).2 64 = true
      ∧ (d.hostTrip.hubReadMeets hostHub (d.memwinAt 0).1 (d.memwinAt 0).2 64 .none).1 = 0
      ∧ d.memwinGood 0x1FFFC0 64 true = true ∧ d.hostMemOpen (d.memwinAt 0x1FFFC0).1 (d.memwinAt 0x1FFFC0).2 64 = true)
    ∧ dev.memwinGood 0 64 false = false := by decide +kernel

/-! ## Witnesses: the host interface -/

def queue16 (head tail : Nat) (ws : List Entry) : Queue :=
  { Queue.none_ with base := 0x1000, entries := 16, coalCount := 4, head := head, tail := tail, waiting := ws, since := 1 }

def entry0 : Entry := { cmdId := 7, status := 0, sqHead := 0, ctx := 0, type := 0, info := 0, payload := [] }

def isQueue (o : Option (Nat × Nat)) (q : Nat) : Bool := o.map (·.1) == some q

theorem witness_HostQueuesComplete :
    (let d := dev.setQueue (adminSq 0) (queue16 0 0 []);
      d.hostUp = true ∧ isQueue (d.doorbellQueue 0 none (adminSq 0) ctxSq) (adminSq 0) = true
      ∧ (∀ index ∈ [0, 15], index < (d.queue (adminSq 0)).entries
        ∧ ringSteps 16 (d.queue (adminSq 0)).tail index ≤ ringSteps 16 (d.queue (adminSq 0)).tail (0 + 16 - 1)))
    ∧ (let d := dev.setQueue (adminCq 0) (queue16 0 3 []);
      isQueue (d.doorbellQueue 0 none (adminCq 0) ctxCq) (adminCq 0) = true ∧ 15 < (d.queue (adminCq 0)).entries)
    ∧ (let d := dev.setQueue (eventQ 64) (queue16 0 3 []); 15 < (d.queue (eventQ 64)).entries)
    ∧ (let d := dev.setQueue (adminSq 0) (queue16 0 1 []);
      let entry := [(0x05 : Byte), 0, 0, 0, 1, 0, 0, 0] ++ List.replicate 56 0;
      (d.queue (adminSq 0)).inT1 = false ∧ (d.queue (adminSq 0)).head ≠ (d.queue (adminSq 0)).tail ∧ entry.length = 64
      ∧ bitAt (leNat ((entry.drop 1).take 1)) 0 = false ∧ d.fetchStatus (d.queueFn (adminSq 0)) none entry = 0)
    ∧ (∀ tail ∈ [3, 15], let d := dev.setQueue (adminCq 0) (queue16 8 tail [entry0]);
      ((d.queue (adminCq 0)).tail + 1) % 16 ≠ (d.queue (adminCq 0)).head ∧ (d.queue (adminCq 0)).waiting = entry0 :: []
      ∧ isEventQ (adminCq 0) = false ∧ (d.queue (adminCq 0)).since + 1 < (d.queue (adminCq 0)).coalCount
      ∧ (d.queue (adminCq 0)).since ≠ 0) := by decide +kernel

/-- A copy from host range 9 into context 0, of which the pieces at the given offsets are left. -/
def copyIn (bytes : Nat) (left : List Nat) : CopyRun :=
  { hdr := hdrC, src := 0x40000000, dst := 0, bytes := bytes, srcCtx := false, dstCtx := true, left := left }

/-- Two pieces are left: either may come next, and one remains. -/
theorem witness_QueueRangeAndCopyCommandsComplete_pieces :
    let c := copyIn 128 [0, 64];
    let d := { devOf mapped with host := { dev.host with copies := [(1, c)] } };
    tget? d.host.copies 1 = some c ∧ (∀ i ∈ [0, 1], let off := c.left.getD i 0;
      min 0x1000000 (c.bytes - off) = 128 - off ∧ d.hostMemOpen 0 (c.dst + off) (128 - off) = true
      ∧ (d.ctx 0).rangeStatus (c.dst + off) (128 - off) true = 0 ∧ c.left.eraseIdx i ≠ []) := by decide +kernel

theorem witness_QueueRangeAndCopyCommandsComplete_next (d : Dev) :
    Config.freeNat d.free % min 8 (copyIn 64 [0]).left.length = 0
    ∧ Config.freeNat d.free % min 8 (copyIn 128 [0, 64]).left.length ∈ [0, 1] := by
  refine ⟨Nat.mod_one _, ?_⟩
  have h : Config.freeNat d.free % 2 < 2 := Nat.mod_lt _ (by decide)
  simp [copyIn]
  omega

theorem witness_QueueRangeAndCopyCommandsComplete :
    (AdminGood dev hdrA false ∧ dev.queueCtxGood 0 0 0 = true ∧ dev.queueCtxGood 0 1023 1 = true
      ∧ (∀ n ∈ [16, 65536], 2 ^ Nat.log2 n = n))
    ∧ ((dev.queue (queueNumber 0 0 0)).head = (dev.queue (queueNumber 0 0 0)).tail
      ∧ (∀ r ∈ dev.host.started, r.queue ≠ queueNumber 0 0 0))
    ∧ ((0xFFFFFFFFFFE00000 : W64).toNat % 0x200000 = 0
      ∧ (0xFFFFFFFFFFE00000 : W64).toNat + (0x200000 : W64).toNat ≤ 2 ^ 64
      ∧ (∀ e ∈ (withRange dev).host.ranges, e.2.fn = 0 →
        meets (0xFFFFFFFFFFE00000, 0x200000) (e.2.base, e.2.size) = false))
    ∧ ((withRange dev).rangeOf 0 9 = some range9 ∧ (withRange dev).rangeBusy 9 range9 = false)
    ∧ (LiveGood (withRange dev) hdrC ∧ (withRange dev).inRange 0 0x40000000 0x1000000 = true)
    ∧ (let d := { devOf mapped with host := { dev.host with copies := [(0, copyIn 64 [0])] } };
      tget? d.host.copies 0 = some (copyIn 64 [0]) ∧ (copyIn 64 [0]).srcCtx = false ∧ (copyIn 64 [0]).dstCtx = true
      ∧ min 0x1000000 ((copyIn 64 [0]).bytes - (copyIn 64 [0]).left.getD 0 0) = 64 ∧ d.hostMemOpen 0 (0 + 0) 64 = true
      ∧ (d.ctx 0).rangeStatus (0 + 0) 64 true = 0 ∧ (copyIn 64 [0]).left.eraseIdx 0 = []
      ∧ tget? ((d.count (hostifKey 0x838) 1).hostErr 2 0).host.copies 0 = some (copyIn 64 [0])) := by decide +kernel

def powered : Dev := { dev with pins := { dev.pins with pwrOk := true, rstHigh := true } }

theorem witness_FunctionsAndSidebandComplete :
    (dev.host.d3hot.contains 64 = false ∧ (∀ e ∈ Dev.reset.ctxs, e.2.fn = 0 → e.2.state ≠ .running))
    ∧ dev.hostUp = true ∧ dev.host.vfs ≤ 64 ∧ powered.sideband = true ∧ powered.sidebandWrites = true
    ∧ (({ dev.host with spdmKex := true } : HostIf).spdmKex = true)
    ∧ (dev.host.smbus = false ∧ dev.host.i3cAddr = none)
    ∧ (({ dev.host with spdmSession := true } : HostIf).spdmSession = true) ∧ powered.pins.pwrOk = true := by decide +kernel

/-! ## Witnesses: start-up -/

/-- A device at a start-up step. -/
def booting (n : Nat) : Dev :=
  { Dev.reset with pins := { Dev.reset.pins with pwrOk := true, rstHigh := true }, sec := { Sec.reset with bootStep := n } }

theorem witness_PinsComplete :
    (let d := Dev.reset;
      d.pins.rstHigh = false ∧ d.pins.pwrOk = true ∧ d.sec.bootStep = 0)
    ∧ (let d := { Dev.reset with pins := { Dev.reset.pins with rstHigh := true, pwrOk := false } };
      d.pins.pwrOk = false ∧ d.pins.rstHigh = true ∧ d.sec.bootStep = 0)
    ∧ (dev.host.perst = false ∧ 1 < dev.sec.bootStep)
    ∧ (let d := { booting 2 with host := { HostIf.reset with perst := true } };
      d.host.perst = true ∧ 1 < d.sec.bootStep ∧ (d.island islHost).run ≠ .run) := by decide +kernel

theorem witness_StartUpStepsComplete :
    (∀ n ∈ [1, 2, 3, 4, 5, 6, 7, 8], (booting n).atStep n = true) ∧ (booting 6).sec.stuckIsland = none
    ∧ (booting 2).dirNow.bankB = false
    ∧ (booting 2).flash.packs.toList.getD (booting 2).dirNow.testSlot none = none
    ∧ (booting 7).apply.run = none ∧ (booting 7).apply.queue = [] := by decide +kernel

/-! ## Witnesses: lifecycle, firmware and admission -/

theorem witness_LifecycleAndFirmwareComplete :
    (dev.hostUp = true ∧ dev.sec.devState = .ready)
    ∧ (let d := { dev with ctxs := [], sec := { dev.sec with entering := some 3 } };
      d.sec.entering = some 3 ∧ d.liveCtxs = [] ∧ (∀ q ∈ d.pool.toList, q.toZero = []))
    ∧ (FwGood dev hdrA ∧ (0 : W32).toNat + 0x1000 ≤ 0x1000000 ∧ (0xFFF000 : W32).toNat + 0x1000 ≤ 0x1000000)
    ∧ (let d := { dev with sec := { dev.sec with verified := true } }; FwGood d hdrA ∧ d.sec.verified = true)
    ∧ (dev.dirNow.bankB = dev.sec.bankB ∧ dev.sec.fallback = false)
    ∧ (dev.sec.lifecycle = 2 ∧ dev.fuses.ownerValid = false) := by decide +kernel

def admitData0 : AdmitData :=
  { nonce := 0, x25519 := 0, kem := [], deviceRecord := [], aliasRecord := [] }

def admission0 (peer : Option AdmitData) : Admission :=
  { port := 0, initiator := true, encrypt := false, own := some admitData0, peer := peer, peerEncrypt := false, priv := 0, proofGood := false
    doneSeen := false, answered := false }

/-- An ADMIT message of one op from partner 1 at port 0, with an exchange under way or not. -/
def admitting (op : Nat) (data : List Byte) (a : Option Admission) : Dev :=
  let d := (withMsg ctxRun (msgOf 7 0 data (bodyWith [(0x24, op)]))).rsetNat (secKey 0x144) 1
  match a with
  | none => d
  | some a => d.setAdmission 1 a

/-- The message is at the head of port 0 as partner 1's, and the exchange with partner 1 is as given. -/
def admitHead (op : Nat) (data : List Byte) (a : Option Admission) : Bool :=
  ((admitting op data a).headAdmit 0 op data).map (·.hdr.src) == some 1
  && decide (((admitting op data a).popMsg 0 0).admission 1 = a) && ((admitting op data a).popMsg 0 0).mayAdmit

theorem witness_AdmissionsComplete_request :
    dev.hostUp = true ∧ dev.blockUp (islMgmt 0) = true ∧ dev.mayAdmit = true ∧ reservedId 1 = false ∧ (dev.admission 1).isNone = true
    ∧ ((dev.setAdmission 1 (admission0 none)).admission 1).isSome = true := by decide +kernel

theorem witness_AdmissionsComplete :
    admitHead 0 (AdmitData_bytes admitData0) none = true
    ∧ bitAt (((admitting 0 (AdmitData_bytes admitData0) none).popMsg 0 0).rnat (secKey 0x144)) 0 = true
    ∧ admitHead 1 (AdmitData_bytes admitData0) (some (admission0 none)) = true
    ∧ admitHead 2 [1, 2] (some (admission0 (some admitData0))) = true
    ∧ admitHead 3 (leBytes 2 0) (some (admission0 (some admitData0))) = true
    ∧ admitHead 3 (leBytes 2 1) (some (admission0 (some admitData0))) = true := by decide +kernel

/-! ## Witnesses: staged apply -/

def applying (phase : ApplyPhase) (prepared failing ready swapped : List Nat) : ApplyRun :=
  { gen := 9, who := .host, phase := phase, islands := [0], prepared := prepared, failing := failing, ready := ready
    swapped := swapped, done := [], pages := [coreKey 0 12 0], startCycle := 0 }

def withRun (d : Dev) (r : ApplyRun) : Dev := { d with apply := { d.apply with run := some r } }

theorem witness_AppliesComplete :
    (dev.blockUp (islMgmt 0) = true ∧ (dev.toBlock (islMgmt 0)).apply.run.isNone = true ∧ (∀ q ∈ dev.apply.queue, q.1 ≠ 1) ∧ (0x7FFF : W16).toNat < 0x8000)
    ∧ (let d := dev.rsetNat (fabricKey 0x30) 9;
      let d0 := { d with apply := { d.apply with shadows := [(fabricKey 0x100, 5)] } };
      d0.applyCheck 9 .host = 0 ∧ d0.apply.run.isNone = true)
    ∧ (There dev island0 ∧ dev.routeOpen (islMgmt 0) (islId island0) = true ∧ dev.routeOpen (islId island0) (islMgmt 0) = true)
    ∧ (let r := applying .prepare [] [] [] []; (withRun dev r).apply.run.isSome = true ∧ 0 ∈ r.islands ∧ 0 ∉ r.prepared)
    ∧ (let r := applying .prepare [0] [] [] [];
      0 ∈ r.prepared ∧ 0 ∉ r.ready ∧ 0 ∉ r.failing ∧ (withRun dev r).safePoint r 0 = true ∧ runCores r 0 12 ≠ [])
    ∧ (let r := applying .prepare [0] [] [] [];
      let d := stuck ctxRun (slotOf []);
      let d := { d with apply := { d.apply with
        run := some r
        staged := [{ page := coreKey 0 12 0, table := 1, cell := 0, index := 0, value := 5 + 2 * 2 ^ 10 + 2 ^ 15 }] } };
      d.safePoint r 0 = false)
    ∧ (let r := applying .swap [0] [] [0] []; r.phase = .swap ∧ 0 ∈ r.islands ∧ 0 ∉ r.swapped)
    ∧ (let r := applying .swap [0] [] [0] [0]; 0 ∈ r.swapped ∧ 0 ∉ r.done)
    ∧ (let r := applying .prepare [0] [0] [] []; r.phase = .prepare ∧ 0 ∈ r.failing)
    ∧ (let d := { dev with apply := { dev.apply with aborting := [0] } };
      There d island0 ∧ islId island0 ∈ d.apply.aborting) := by decide +kernel

/-! ## Witnesses: power and the whole device -/

theorem witness_PowerCommandsComplete :
    ((DieTemps.mk 114 0 false []).badSensor = false ∧ (DieTemps.mk 114 0 false []).hottest < 115
      ∧ (DieTemps.mk 114 0 false []).stackTemps = [])
    ∧ (dev.blockUp (islMgmt 0) = true ∧ dev.hostUp = true ∧ dev.blockUp (islOfPort 0) = true
      ∧ (let w := dev.toBlock (islOfPort 0);
        (w.hist 5 0).state ≠ .retired
        ∧ (w.rsetNat (tapKey 0 0x10) (w.rnat (tapKey 0 0x10) / 2 * 2 + 1)).rnat (tapKey 0 0x14) % 4 = 0)) := by
  decide +kernel

theorem witness_CommandsBeforeReadyAnswerNotReady :
    hostHeader (.ctxKill hdrC) = some hdrC ∧ State.reset.dev.sec.devState ≠ .ready := by decide +kernel

theorem witness_ForeignContextsAreRefused :
    contextHeader (.ctxKill hdrC) = some hdrC ∧ dev.sec.devState = .ready ∧ hdrC.queue = .context
    ∧ 1024 ≤ ({ hdrC with ctx := 1024 } : CmdHdr).ctx ∧ (dev.ctx 0).fn ≠ ({ hdrC with fn := 1 } : CmdHdr).fn := by decide +kernel

theorem witness_CompletionsReachTheirQueue :
    hdrC.quiet = false ∧ ({ hdrC with quiet := true } : CmdHdr).quiet = true ∧ hdrCq hdrA ≠ hdrCq hdrC := by decide +kernel

theorem witness_StoppedIslandsDoNothing :
    let d := dev.setIsland (islOfCore 0) { IslSt.reset with clocksStopped := true };
    (d.island (islOfCore 0)).clocksStopped = true
    ∧ ({ dev with sec := { dev.sec with devState := .error } } : Dev).sec.devState = .error ∧ (cellCommand (.mov 0 0 .none)).isSome = true
    ∧ (engineCommand (.matrixTile 0 0)).isSome = false ∧ (fetched (.nop 0 ⟨0, .clean⟩)).isSome = true
    ∧ (engineCommand (.bits8 0 0 .none)).isSome = true := by decide +kernel

/-! ## Ill-formed commands that WellFormed refuses, one per check -/

/-- Island 34 is the host island, which die 0 alone has. -/
theorem test_refuses_host_island_of_die_1 : (Instr.droopStart ⟨1, 34⟩).wellFormed = false := by decide +kernel

theorem test_admits_host_island_of_die_0 : (Instr.droopStart ⟨0, 34⟩).wellFormed = true := by decide +kernel

theorem test_refuses_both_ends_of_a_crossing :
    (Instr.crossingTransfer ⟨1, 34⟩ ⟨⟨0, 0⟩, false⟩).wellFormed = false ∧ (Instr.crossingEvent ⟨0, 0⟩ ⟨2, 34⟩).wellFormed = false := by
  decide +kernel

theorem test_refuses_function_65 : (Instr.ctxKill { hdrA with fn := 65 }).wellFormed = false := by decide +kernel

theorem test_refuses_context_1024 :
    (Instr.ctxKill { hdrC with ctx := 1024 }).wellFormed = false ∧ (Instr.ctxKill { hdrC with ctx := 1023 }).wellFormed = true := by
  decide +kernel

theorem test_refuses_scrub_outside_the_stack :
    (Instr.scrubStep 0 (.corrected 64)).wellFormed = false ∧ (Instr.scrubStep 0 (.uncorrected 0 65536 0)).wellFormed = false
    ∧ (Instr.scrubStep 0 (.uncorrected 0 0 0x200000)).wellFormed = false := by decide +kernel

theorem test_refuses_long_hub_access :
    (Instr.hubAccess 0 0 true 0 (List.replicate 129 0) .none).wellFormed = false := by decide +kernel

theorem test_refuses_long_ctx_set : (Instr.ctxSet hdrC 0 (List.replicate 33 0)).wellFormed = false := by decide +kernel

theorem test_refuses_group_of_7_flits : (Instr.groupReceive 0 (group0 true)).wellFormed = false := by decide +kernel

theorem test_refuses_frequencies_outside_the_range :
    (Instr.frequencyChange island0 549).wellFormed = false ∧ (Instr.frequencyChange island0 2001).wellFormed = false := by
  decide +kernel

theorem test_refuses_register_offsets :
    (Instr.registerWrite 0 0x4000000 4 0).wellFormed = false ∧ (Instr.registerWrite 65 0 4 0).wellFormed = false
    ∧ (Instr.errStatusClear 0x19 0).wellFormed = false ∧ (Instr.counterLowRead 0x4000000).wellFormed = false
    ∧ (Instr.stageGenWrite 2 0).wellFormed = false ∧ (Instr.mirrorUpdate ⟨1, false⟩).wellFormed = false
    ∧ (Instr.counterSnapshot 0x800).wellFormed = false := by decide +kernel

theorem test_refuses_memory_window_offsets :
    (Instr.memwinRead 0x1000000000 ⟨1, .none⟩).wellFormed = false ∧ (Instr.memwinWrite 0x1000000000 [1]).wellFormed = false := by
  decide +kernel

theorem test_refuses_doorbells_of_function_65 :
    (Instr.sqTail 65 none 0).wellFormed = false ∧ (Instr.cqHead 65 none 0).wellFormed = false
    ∧ (Instr.eqHead 65 0).wellFormed = false := by decide +kernel

theorem test_refuses_short_queue_entry : (Instr.commandFetch 0 none [0]).wellFormed = false := by decide +kernel

theorem test_refuses_unknown_queues :
    (Instr.completionPost 2304).wellFormed = false ∧ (Instr.coalesceTimeout 2304).wellFormed = false := by decide +kernel

theorem test_refuses_functions_of_resets :
    (Instr.functionLevelReset 65).wellFormed = false ∧ (Instr.d3hotRequest 65).wellFormed = false
    ∧ (Instr.vfEnableWrite true 65).wellFormed = false := by decide +kernel

theorem test_refuses_port_12 : (Instr.admitReq 1 12 false 0).wellFormed = false := by decide +kernel

theorem test_refuses_sensor_48 : (Instr.thermtrip 0 48).wellFormed = false := by decide +kernel

theorem test_refuses_untrained_links :
    (Instr.pcieLinkTrained 4 16).wellFormed = false ∧ (Instr.pcieLinkTrained 6 4).wellFormed = false := by decide +kernel

/-! ## Small checks: expected values from the spec's own examples and tables -/

/-- The device after a command that answers a next state. -/
def after (c : Instr) (d : Dev) : Option Dev :=
  match exec c ⟨[], d⟩ with
  | .next t => some t.dev
  | _ => none

def seqAfter (c : Instr) (s : Slot) : Option Seq := (after c (withSlot s)).map (fun d => (d.slot 0 0).seq)

/-- The slot with G[0] at a value. -/
def slotG (v : W32) (ws : List W64) : Slot := { slotOf ws with seq := { (slotOf ws).seq with g := (slotOf ws).seq.g.set 0 v } }

/-- Section 4's instruction table: MOVI, G = immediate. -/
theorem test_movi : (seqAfter (.movi 0 ⟨0, .clean⟩) (slotOf [word 9 0xFFFFFFFF, 0])).map (fun q => (q.g[0], q.pc)) = some (0xFFFFFFFF, 1) := by
  decide +kernel

/-- ADDI adds modulo 2^32. -/
theorem test_addi_wraps : (seqAfter (.addi 0 ⟨0, .clean⟩) (slotG 0xFFFFFFFF [word 5 2, 0])).map (fun q => q.g[0]) = some 1 := by decide +kernel

/-- LOOP: G = G − 1; branches if G ≠ 0. -/
theorem test_loop_falls_through : (seqAfter (.loop 0 ⟨0, .clean⟩) (slotG 1 [word 4 0, 0])).map (fun q => (q.g[0], q.pc)) = some (0, 1) := by
  decide +kernel
theorem test_loop_branches : (seqAfter (.loop 0 ⟨0, .clean⟩) (slotG 2 [word 4 0, 0])).map (fun q => (q.g[0], q.pc)) = some (1, 0) := by
  decide +kernel

/-- BRZ branches if G = 0. -/
theorem test_brz :
    (seqAfter (.brz 0 ⟨0, .clean⟩) (slotG 0 [word 6 2, 0, 0])).map (·.pc) = some 2
    ∧ (seqAfter (.brz 0 ⟨0, .clean⟩) (slotG 1 [word 6 2, 0, 0])).map (·.pc) = some 1 := by decide +kernel

/-- SETLEN: bits [42:40] name the LEN register. -/
theorem test_setlen : (seqAfter (.setlen 0 ⟨0, .clean⟩) (slotG 9 [word 8 (5 * 2 ^ 40), 0])).map (fun q => (q.len[5], q.len[4])) = some (9, 0) := by
  decide +kernel

/-- WAIT waits until SEM ≥ n, then subtracts n. -/
theorem test_wait :
    (seqAfter (.wait 0 ⟨0, .clean⟩) ((slotOf [word 2 (3 * 2 ^ 48 + 2), 0]).setSem 3 5)).map (fun q => (q.sem[3], q.pc)) = some (3, 1)
    ∧ (seqAfter (.wait 0 ⟨0, .clean⟩) ((slotOf [word 2 (3 * 2 ^ 48 + 2), 0]).setSem 3 1)).map (fun q => (q.sem[3], q.pc)) = some (1, 0) := by
  decide +kernel

/-- Section 2's example: 1.34375 to E4M3 is 1.25 under STOCH with draw 0x2B71 and under RTZ, 1.375 under RNE; a draw
that carries d = 0xC000 to 65,536 rounds up. -/
theorem test_convert_e4m3 :
    (convertElem 3 false 1 false (ofF32 0x3FAC0000) 0x2B71).1 = 0x3A ∧ (convertElem 3 false 2 false (ofF32 0x3FAC0000) 0).1 = 0x3A
    ∧ (convertElem 3 false 0 false (ofF32 0x3FAC0000) 0).1 = 0x3B ∧ (convertElem 3 false 1 false (ofF32 0x3FAC0000) 0x4000).1 = 0x3B := by
  decide +kernel

/-- Section 2's example: amax 60.0 into E4M3 gives exponent 3 at margin 0 and 2 at margin 1, amax 37.5 gives 3. -/
theorem test_tile_scale :
    tileScale 3 false 0 (ofF32 0x42700000) = some 3 ∧ tileScale 3 false 1 (ofF32 0x42700000) = some 2
    ∧ tileScale 3 false 0 (ofF32 0x42160000) = some 3 := by decide +kernel

/-- 480 saturates to the largest finite E4M3, 448. -/
theorem test_convert_saturates : (convertElem 3 false 0 false (ofF32 0x43F00000) 0).1 = 0x7E := by decide +kernel

/-- Section 2's example: in slot width 16, element 1,000 lies in slot 0 of block 125. -/
theorem test_draw_slot (g : Rng) : g.draw 16 1000 = philoxBlock g.seed g.stream g.gyle 125 % 65536 := by
  simp [Rng.draw]

/-- Section 1's example: cell 1.3.6.14 lies at (122, 7) and its south neighbour is cell 1.3.10.2. -/
theorem test_cell_neighbours :
    cellX 182 14 = 122 ∧ cellY 182 14 = 7 ∧ cellNear 182 14 3 = some (186, 2) ∧ cellNear 186 2 1 = some (182, 14) := by
  decide +kernel

/-- Section 10's example: a good group 37 after group 36 moves the port's acknowledge state to 37. -/
theorem test_group_37 :
    (after (.groupReceive 4 (groupOf { word0 with seq := 37 } true))
      ((dev.setPort 4 { Port.reset with ack := 36 }).rsetNat (tapKey 4 0x14) 2)).map (fun d => (d.port 4).ack) = some 37 := by
  decide +kernel

/-- A power cap of 1,200 to 3,000 W takes effect, another does not (section 17). -/
theorem test_power_cap :
    (after (.powerCapWrite 1200) dev).map (·.rnat (powerKey 0 0x100)) = some 1200
    ∧ (after (.powerCapWrite 1199) dev).map (·.rnat (powerKey 0 0x100)) = some (dev.rnat (powerKey 0 0x100)) := by decide +kernel

/-- A command before READY is completed with DEVICE_NOT_READY, with the command's identifier (Table 14.5). -/
theorem test_not_ready :
    (after (.ctxKill hdrC) Dev.reset).map (fun d => (d.queue (hdrCq hdrC)).waiting.map (fun e => (e.cmdId, e.status)))
      = some [(7, Code.deviceNotReady)] := by decide +kernel

/-- The front of the queue runs, and the rest waits. -/
theorem test_step_takes_the_front :
    (match step ⟨[.powerCapWrite 1500, .sysRstNAssert], dev⟩ with
      | .next t => t.pending == [.sysRstNAssert] && t.dev.rnat (powerKey 0 0x100) == 1500
      | _ => false) = true := by decide +kernel

/-- No row of the table gives bits. -/
theorem test_no_word_decodes : decodeTableWord 64 0 = none := rfl

end Sys2Proof.Tests
end

namespace Sys2Proof.Machine

open Sys2Proof.Laws

/-! ## Undefined ranges of HBM: what a write carves out of them (R255) -/

/-- The draw of the first of some undefined ranges that holds byte b. -/
def undefDraw (us : List (Nat × Nat × Nat)) (b : Nat) : Option Nat :=
  (us.find? (fun u => decide (u.1 ≤ b) && decide (b < u.1 + u.2.1))).map (·.2.2)

theorem Dev.hbmByte_of_undef (d : Dev) {b n : Nat} (h : undefDraw d.undef b = some n) :
    d.hbmByte b = Config.freeByte n b := by
  obtain ⟨u, hu, rfl⟩ := Option.map_eq_some_iff.mp h
  simp only [Dev.hbmByte, hu]

theorem Dev.hbmByte_of_defined (d : Dev) {b : Nat} (h : undefDraw d.undef b = none) :
    d.hbmByte b = mread d.hbm b := by
  simp only [Dev.hbmByte, Option.map_eq_none_iff.mp h]

theorem undefDraw_append (us vs : List (Nat × Nat × Nat)) (b : Nat) :
    undefDraw (us ++ vs) b = (undefDraw us b).or (undefDraw vs b) := by
  simp [undefDraw, List.find?_append, Option.map_or]

theorem undefDraw_singleton (u : Nat × Nat × Nat) (b : Nat) :
    undefDraw [u] b = if u.1 ≤ b ∧ b < u.1 + u.2.1 then some u.2.2 else none := by
  by_cases h : u.1 ≤ b ∧ b < u.1 + u.2.1 <;> simp [undefDraw, h]

theorem carve_cons (u : Nat × Nat × Nat) (us : List (Nat × Nat × Nat)) (a n : Nat) :
    carve (u :: us) a n = carve [u] a n ++ carve us a n := by
  simp [carve]

/-- What is left of one range has its draw outside the n bytes from a on, and holds none of them. -/
theorem undefDraw_carve_singleton (u : Nat × Nat × Nat) (a n b : Nat) :
    undefDraw (carve [u] a n) b = if a ≤ b ∧ b < a + n then none else undefDraw [u] b := by
  have hcut : carve [u] a n =
      if n = 0 ∨ a + n ≤ u.1 ∨ u.1 + u.2.1 ≤ a then [u]
      else
        (if u.1 < a then [(u.1, a - u.1, u.2.2)] else [])
        ++ (if a + n < u.1 + u.2.1 then [(a + n, u.1 + u.2.1 - (a + n), u.2.2)] else []) := by
    simp [carve]
  rw [hcut]
  split
  · rw [undefDraw_singleton]; grind
  · rw [undefDraw_append]
    split <;> split <;> simp only [undefDraw_singleton] <;> grind [undefDraw]

theorem undefDraw_carve (us : List (Nat × Nat × Nat)) (a n b : Nat) :
    undefDraw (carve us a n) b = if a ≤ b ∧ b < a + n then none else undefDraw us b := by
  induction us with
  | nil => simp [carve, undefDraw]
  | cons u us ih =>
    have hsplit : undefDraw (u :: us) b = (undefDraw [u] b).or (undefDraw us b) := undefDraw_append [u] us b
    rw [carve_cons, undefDraw_append, undefDraw_carve_singleton, ih, hsplit]
    split <;> rfl

/-! ## HBM reads what was written -/

theorem mread_mwrites_in {m : Mem} (a : Nat) (bs : List Byte) (h : Memory.wf m = true) (i : Nat) (hi : i < bs.length) :
    mread (mwrites m a bs) (a + i) = bs[i] := by
  induction bs generalizing m a i with
  | nil => simp at hi
  | cons x r ih =>
    cases i with
    | zero => exact (mread_mwrites_out r (mwrite_wf a x h) (by omega)).trans (mread_mwrite_self a x h)
    | succ i =>
      have hi' : i < r.length := by simpa using hi
      have hread := ih (a + 1) (mwrite_wf a x h) i hi'
      rw [show a + (i + 1) = a + 1 + i by omega]
      exact hread

theorem Dev.hbmByte_hbmWrite_in (d : Dev) (a : Nat) (bs : List Byte) (h : Memory.wf d.hbm = true) (i : Nat)
    (hi : i < bs.length) : (d.hbmWrite a bs).hbmByte (a + i) = bs[i] := by
  have hdef : undefDraw (d.hbmWrite a bs).undef (a + i) = none := by
    rw [Dev.hbmWrite, undefDraw_carve, if_pos (by omega)]
  rw [Dev.hbmByte_of_defined _ hdef]
  exact mread_mwrites_in a bs h i hi

theorem Dev.hbmByte_hbmWrite_out (d : Dev) {a b : Nat} (bs : List Byte) (h : Memory.wf d.hbm = true)
    (hb : b < a ∨ a + bs.length ≤ b) : (d.hbmWrite a bs).hbmByte b = d.hbmByte b := by
  have hdraw : undefDraw (d.hbmWrite a bs).undef b = undefDraw d.undef b := by
    rw [Dev.hbmWrite, undefDraw_carve, if_neg (by omega)]
  cases hu : undefDraw d.undef b with
  | none =>
    rw [Dev.hbmByte_of_defined _ (hdraw.trans hu), Dev.hbmByte_of_defined _ hu]
    exact mread_mwrites_out bs h hb
  | some n => rw [Dev.hbmByte_of_undef _ (hdraw.trans hu), Dev.hbmByte_of_undef _ hu]

/-- Settles O9: a write puts its bytes into memory and carves them out of the undefined ranges (R255), so they read back
from memory, and every other byte keeps both its undefined range and what memory holds. -/
theorem hbmReadsWhatWasWritten : Obligations.HbmReadsWhatWasWritten := by
  intro d a b bs hgood
  exact ⟨d.hbmByte_hbmWrite_in a bs hgood.hbm, d.hbmByte_hbmWrite_out bs hgood.hbm⟩

/-- Settles O4: both memories are empty at reset. -/
theorem memoriesGoodAtReset : Obligations.MemoriesGoodAtReset where
  hbm := nil_wf
  host := rfl

end Sys2Proof.Machine

/-! # O5: every step keeps the memories in canonical form

The idea: of all that a step does to the device, only a handful of primitive writes touch HBM, the list of host
bytes or the fuses, and each of them keeps what `Evolves` says. The relation is closed under composition, so each
function of the model gets one rule, `Evolves.f`: where the device before `f` has evolved from `d₀`, so has the device
after it. The rule of a function is assembled from the rules of the functions that it calls, in the order of its
definition, and the rule of a step from those of the commands. -/

/-! ## Fuses: which changes blow and never unblow (R416, R418, R419) -/

namespace Sys2Proof.Safety

open Sys2Proof.Machine

theorem OnlyBlown.refl (F : Fuses) : OnlyBlown F F where
  lifecycle := le_rfl
  rollback _ := le_rfl
  counted _ h := h
  revoked _ h := h
  owner h := ⟨h, rfl⟩
  fixed := ⟨rfl, rfl, rfl, rfl, rfl, rfl, rfl, rfl, rfl⟩

theorem OnlyBlown.trans {F G H : Fuses} (h : OnlyBlown F G) (k : OnlyBlown G H) : OnlyBlown F H where
  lifecycle := h.lifecycle.trans k.lifecycle
  rollback i := (h.rollback i).trans (k.rollback i)
  counted i w := k.counted i (h.counted i w)
  revoked i w := k.revoked i (h.revoked i w)
  owner w := by
    obtain ⟨hv, hr⟩ := h.owner w
    obtain ⟨kv, kr⟩ := k.owner hv
    exact ⟨kv, kr.trans hr⟩
  fixed := by
    obtain ⟨h₁, h₂, h₃, h₄, h₅, h₆, h₇, h₈, h₉⟩ := h.fixed
    obtain ⟨k₁, k₂, k₃, k₄, k₅, k₆, k₇, k₈, k₉⟩ := k.fixed
    exact ⟨k₁.trans h₁, k₂.trans h₂, k₃.trans h₃, k₄.trans h₄, k₅.trans h₅, k₆.trans h₆, k₇.trans h₇, k₈.trans h₈,
      k₉.trans h₉⟩

theorem OnlyBlown.lifecycle_max (F : Fuses) (n : Nat) : OnlyBlown F { F with lifecycle := max F.lifecycle n } :=
  { OnlyBlown.refl F with lifecycle := le_max_left _ _ }

theorem OnlyBlown.rollback_max (F : Fuses) (cls n : Nat) (hc : cls < 4) :
    OnlyBlown F { F with rollback := F.rollback.set cls (max F.rollback[cls] (min n 64)) hc } := by
  have hget (i : Fin 4) : (F.rollback.set cls (max F.rollback[cls] (min n 64)) hc).get i
      = if cls = i.1 then max (F.rollback.get i) (min n 64) else F.rollback.get i := by
    simp only [Vector.get_eq_getElem, Vector.getElem_set]
    split
    · next hi => simp only [hi]
    · rfl
  refine { OnlyBlown.refl F with rollback := fun i => ?_, counted := fun i w => ?_ }
  · rw [hget]
    split <;> omega
  · rw [hget]
    split <;> omega

theorem OnlyBlown.revoke (F : Fuses) (slot : Nat) :
    OnlyBlown F { F with vendorRevoked :=
      if slot = 0 then F.vendorRevoked.set 0 true else F.vendorRevoked.set 1 true } := by
  have hset (k : Nat) (hk : k < 2) (i : Fin 2) (w : F.vendorRevoked.get i = true) :
      (F.vendorRevoked.set k true).get i = true := by
    simp only [Vector.get_eq_getElem, Vector.getElem_set] at w ⊢
    split
    · rfl
    · exact w
  refine { OnlyBlown.refl F with revoked := fun i w => ?_ }
  dsimp only
  split
  · exact hset 0 (by decide) i w
  · exact hset 1 (by decide) i w

theorem OnlyBlown.enrol (F : Fuses) (root : BitVec 512) (h : F.ownerValid = false) :
    OnlyBlown F { F with ownerRoot := root, ownerValid := true } :=
  { OnlyBlown.refl F with owner := fun w => absurd (h.symm.trans w) (by decide) }

end Sys2Proof.Safety

namespace Sys2Proof.Machine

open Sys2Proof.Laws Sys2Proof.Safety

theorem hostWrites_rising {m : Mem} (a : Nat) (bs : List Byte) (h : Memory.rising m = true) :
    Memory.rising (hostWrites m a bs) = true := by
  induction bs generalizing m a with
  | nil => exact h
  | cons b bs ih => exact ih (a + 1) (risingFrom_tset m 0 a b h (Nat.zero_le a))

/-! ## The relation and its rules -/

/-- What holds of the memories and the fuses of a device t that the model has made out of device d: the canonical forms
of HBM and of the host bytes written are kept, and fuses are only blown. -/
structure Evolves (d t : Dev) : Prop where
  hbm : Memory.wf d.hbm = true → Memory.wf t.hbm = true
  host : Memory.rising d.hostMem = true → Memory.rising t.hostMem = true
  fuses : OnlyBlown d.fuses t.fuses

namespace Evolves

variable {d₀ d t : Dev}

theorem refl : Evolves d d := ⟨id, id, OnlyBlown.refl _⟩

/-- A device with the memories and fuses of one that has evolved. -/
theorem frame (h : Evolves d₀ d) (hbm : t.hbm = d.hbm := by rfl) (host : t.hostMem = d.hostMem := by rfl)
    (fuses : t.fuses = d.fuses := by rfl) : Evolves d₀ t where
  hbm w := hbm ▸ h.hbm w
  host w := host ▸ h.host w
  fuses := fuses ▸ h.fuses

/-! ### The primitive writes of HBM, of host bytes and of fuses -/

theorem hbmWrite {a : Nat} {bs : List Byte} (h : Evolves d₀ d) : Evolves d₀ (d.hbmWrite a bs) where
  hbm w := mwrites_wf a bs (h.hbm w)
  host := h.host
  fuses := h.fuses

theorem hbmClear {frame : Nat} (h : Evolves d₀ d) : Evolves d₀ (d.hbmClear frame) where
  hbm w := mclear_wf _ _ (h.hbm w)
  host := h.host
  fuses := h.fuses

theorem hostWrite {bus : Nat} {bs : List Byte} (h : Evolves d₀ d) : Evolves d₀ (d.hostWrite bus bs) where
  hbm := h.hbm
  host w := hostWrites_rising bus bs (h.host w)
  fuses := h.fuses

theorem hostCut {a b : Nat} (h : Evolves d₀ d) : Evolves d₀ { d with hostMem := (tcut d.hostMem a b : Mem) } where
  hbm := h.hbm
  host w := risingFrom_filter _ 0 _ (h.host w)
  fuses := h.fuses

theorem burn {F : Fuses} (h : Evolves d₀ d) (hF : OnlyBlown d.fuses F) : Evolves d₀ { d with fuses := F } where
  hbm := h.hbm
  host := h.host
  fuses := h.fuses.trans hF

theorem deviceReset {pins : Pins} (h : Evolves d₀ d) : Evolves d₀ (d.deviceReset pins) where
  hbm _ := nil_wf
  host := h.host
  fuses := h.fuses

/-! ### Every other field -/

theorem withFree {x : Nat} (h : Evolves d₀ d) : Evolves d₀ { d with free := x } := h.frame
theorem withPins {x : Pins} (h : Evolves d₀ d) : Evolves d₀ { d with pins := x } := h.frame
theorem withFlash {x : Flash} (h : Evolves d₀ d) : Evolves d₀ { d with flash := x } := h.frame
theorem withSec {x : Sec} (h : Evolves d₀ d) : Evolves d₀ { d with sec := x } := h.frame
theorem withBlk {x : Table W32} (h : Evolves d₀ d) : Evolves d₀ { d with blk := x } := h.frame
theorem withMirror {x : Table W32} (h : Evolves d₀ d) : Evolves d₀ { d with mirror := x } := h.frame
theorem withLatch {x : Table W32} (h : Evolves d₀ d) : Evolves d₀ { d with latch := x } := h.frame
theorem withIslands {x : Table IslSt} (h : Evolves d₀ d) : Evolves d₀ { d with islands := x } := h.frame
theorem withCrossings {x : Table Cross} (h : Evolves d₀ d) : Evolves d₀ { d with crossings := x } := h.frame
theorem withCores {x : Table Core} (h : Evolves d₀ d) : Evolves d₀ { d with cores := x } := h.frame
theorem withClusters {x : Table Cluster} (h : Evolves d₀ d) : Evolves d₀ { d with clusters := x } := h.frame
theorem withCtxs {x : Table Ctx} (h : Evolves d₀ d) : Evolves d₀ { d with ctxs := x } := h.frame
theorem withObjs {x : Table Obj} (h : Evolves d₀ d) : Evolves d₀ { d with objs := x } := h.frame
theorem withNextObj {x : Nat} (h : Evolves d₀ d) : Evolves d₀ { d with nextObj := x } := h.frame
theorem withPool {x : Vector DiePool 4} (h : Evolves d₀ d) : Evolves d₀ { d with pool := x } := h.frame
theorem withSwapUsed {x : Table (List Nat)} (h : Evolves d₀ d) : Evolves d₀ { d with swapUsed := x } := h.frame
theorem withUndef {x : List (Nat × Nat × Nat)} (h : Evolves d₀ d) : Evolves d₀ { d with undef := x } := h.frame
theorem withWindows {x : Table Window} (h : Evolves d₀ d) : Evolves d₀ { d with windows := x } := h.frame
theorem withPorts {x : Table Port} (h : Evolves d₀ d) : Evolves d₀ { d with ports := x } := h.frame
theorem withChans {x : Table Chan} (h : Evolves d₀ d) : Evolves d₀ { d with chans := x } := h.frame
theorem withHost {x : HostIf} (h : Evolves d₀ d) : Evolves d₀ { d with host := x } := h.frame
theorem withApply {x : Apply} (h : Evolves d₀ d) : Evolves d₀ { d with apply := x } := h.frame
theorem withRas {x : Ras} (h : Evolves d₀ d) : Evolves d₀ { d with ras := x } := h.frame
theorem withPower {x : Table DiePower} (h : Evolves d₀ d) : Evolves d₀ { d with power := x } := h.frame
theorem withCasks {x : Table CaskSlot} (h : Evolves d₀ d) : Evolves d₀ { d with casks := x } := h.frame
theorem withStamps {x : List Stamp} (h : Evolves d₀ d) : Evolves d₀ { d with stamps := x } := h.frame
theorem withMoves {x : Table (Nat × Nat)} (h : Evolves d₀ d) : Evolves d₀ { d with moves := x } := h.frame
theorem withAnswer {x : W16 × List Byte} (h : Evolves d₀ d) : Evolves d₀ { d with answer := x } := h.frame

/-! ### Branches, folds and results that hold a device beside other values -/

theorem ite {c : Prop} {_ : Decidable c} {x y : Dev} (hx : Evolves d₀ x) (hy : Evolves d₀ y) :
    Evolves d₀ (if c then x else y) := by
  split
  · exact hx
  · exact hy

/-- The branches of a value of which `π` is the device. -/
theorem iteOn {β : Type} (π : β → Dev) {c : Prop} {_ : Decidable c} {x y : β} (hx : Evolves d₀ (π x))
    (hy : Evolves d₀ (π y)) : Evolves d₀ (π (if c then x else y)) := by
  split
  · exact hx
  · exact hy

theorem foldlOn {α β : Type} (π : β → Dev) {f : β → α → β} {l : List α} {b : β} (h : Evolves d₀ (π b))
    (hf : ∀ b x, Evolves d₀ (π b) → Evolves d₀ (π (f b x))) : Evolves d₀ (π (l.foldl f b)) := by
  induction l generalizing b with
  | nil => exact h
  | cons x l ih => exact ih (hf b x h)

theorem foldl {α : Type} {f : Dev → α → Dev} {l : List α} (h : Evolves d₀ d)
    (hf : ∀ d x, Evolves d₀ d → Evolves d₀ (f d x)) : Evolves d₀ (l.foldl f d) :=
  foldlOn id h hf

theorem getD {o : Option Dev} (h : Evolves d₀ d) (ho : ∀ t, o = some t → Evolves d₀ t) : Evolves d₀ (o.getD d) := by
  cases o with
  | none => exact h
  | some t => exact ho t rfl

theorem ofIteSome {c : Prop} {_ : Decidable c} {o : Option Dev} (h : Evolves d₀ d)
    (e : (if c then o else some d) = some t) (ho : o = some t → Evolves d₀ t) : Evolves d₀ t := by
  split at e
  · exact ho e
  · exact Option.some.inj e ▸ h

theorem fst {α : Type} {x : α} (h : Evolves d₀ d) : Evolves d₀ (d, x).1 := h
theorem snd {α : Type} {x : α} (h : Evolves d₀ d) : Evolves d₀ (x, d).2 := h
theorem engOut {x : Health} {st : W16} {m : ReadUpset} (h : Evolves d₀ d) : Evolves d₀ (EngOut.mk d x st m).d := h
theorem convOut {x : Health} (h : Evolves d₀ d) : Evolves d₀ (ConvOut.mk d x).d := h
theorem served {x : List Nat} {y : Bool} (h : Evolves d₀ d) : Evolves d₀ (Served.mk d x y).dev := h

/-! ### Machine/Ops -/

theorem setCore {n : Nat} {c : Core} (h : Evolves d₀ d) : Evolves d₀ (d.setCore n c) := h.withCores

theorem modCore {n : Nat} {f : Core → Core} (h : Evolves d₀ d) : Evolves d₀ (d.modCore n f) := h.setCore

theorem setSlot {n : Nat} {t : SlotIx} {s : Slot} (h : Evolves d₀ d) : Evolves d₀ (d.setSlot n t s) := h.modCore

theorem modSlot {n : Nat} {t : SlotIx} {f : Slot → Slot} (h : Evolves d₀ d) : Evolves d₀ (d.modSlot n t f) := h.setSlot

theorem setCell {n i : Nat} {x : CellSt} (h : Evolves d₀ d) : Evolves d₀ (d.setCell n i x) := h.modCore

theorem modCell {n i : Nat} {f : CellSt → CellSt} (h : Evolves d₀ d) : Evolves d₀ (d.modCell n i f) := h.setCell

theorem setCluster {j : Nat} {c : Cluster} (h : Evolves d₀ d) : Evolves d₀ (d.setCluster j c) := h.withClusters

theorem modCluster {j : Nat} {f : Cluster → Cluster} (h : Evolves d₀ d) : Evolves d₀ (d.modCluster j f) := h.setCluster

theorem setCtx {x : Nat} {c : Ctx} (h : Evolves d₀ d) : Evolves d₀ (d.setCtx x c) := h.withCtxs

theorem modCtx {x : Nat} {f : Ctx → Ctx} (h : Evolves d₀ d) : Evolves d₀ (d.modCtx x f) := h.setCtx

theorem modGyle {x : Nat} {f : Gyle → Gyle} (h : Evolves d₀ d) : Evolves d₀ (d.modGyle x f) := h.modCtx

theorem modResil {x : Nat} {f : Resil → Resil} (h : Evolves d₀ d) : Evolves d₀ (d.modResil x f) := h.modCtx

theorem setPort {p : Nat} {q : Port} (h : Evolves d₀ d) : Evolves d₀ (d.setPort p q) := h.withPorts

theorem modPort {p : Nat} {f : Port → Port} (h : Evolves d₀ d) : Evolves d₀ (d.modPort p f) := h.setPort

theorem setWindow {w : Nat} {x : Window} (h : Evolves d₀ d) : Evolves d₀ (d.setWindow w x) := h.withWindows

theorem setChan {c : Nat} {x : Chan} (h : Evolves d₀ d) : Evolves d₀ (d.setChan c x) := h.withChans

theorem setPartner {p : Nat} {x : Partner} (h : Evolves d₀ d) : Evolves d₀ (d.setPartner p x) := h.withSec

theorem setDiePower {n : Nat} {x : DiePower} (h : Evolves d₀ d) : Evolves d₀ (d.setDiePower n x) := h.withPower

theorem setIsland {i : Nat} {x : IslSt} (h : Evolves d₀ d) : Evolves d₀ (d.setIsland i x) := h.withIslands

theorem modIsland {i : Nat} {f : IslSt → IslSt} (h : Evolves d₀ d) : Evolves d₀ (d.modIsland i f) := h.setIsland

theorem setCross {src dst : Nat} {x : Cross} (h : Evolves d₀ d) : Evolves d₀ (d.setCross src dst x) := h.withCrossings

theorem setQueue {q : Nat} {x : Queue} (h : Evolves d₀ d) : Evolves d₀ (d.setQueue q x) := h.withHost

theorem rset {key : Nat} {v : W32} (h : Evolves d₀ d) : Evolves d₀ (d.rset key v) := h.withBlk

theorem rsetNat {key v : Nat} (h : Evolves d₀ d) : Evolves d₀ (d.rsetNat key v) := h.rset

theorem rset64 {key v : Nat} (h : Evolves d₀ d) : Evolves d₀ (d.rset64 key v) := h.rsetNat.rsetNat

theorem count {key n : Nat} (h : Evolves d₀ d) : Evolves d₀ (d.count key n) := .ite h h.rset64

theorem raise {key v : Nat} (h : Evolves d₀ d) : Evolves d₀ (d.raise key v) := .ite h.rset64 h

theorem drew (h : Evolves d₀ d) : Evolves d₀ d.drew := h.withFree

theorem noteEvent {isl : Nat} (h : Evolves d₀ d) : Evolves d₀ (d.noteEvent isl) := h.modIsland

theorem receive {isl c : Nat} (h : Evolves d₀ d) : Evolves d₀ (d.receive isl c) := h.modIsland

theorem stamp {isl causeIsl causePartner causeSeq : Nat} (h : Evolves d₀ d) :
    Evolves d₀ (d.stamp isl causeIsl causePartner causeSeq) :=
  h.withStamps

theorem transferOn {key n src dst : Nat} (h : Evolves d₀ d) : Evolves d₀ (d.transferOn key n src dst) :=
  h.withCrossings.count.count.receive.stamp

theorem hop {src dst : Nat} (h : Evolves d₀ d) : Evolves d₀ (d.hop src dst) := .ite h.transferOn h

theorem travel {way : List Nat} (h : Evolves d₀ d) : Evolves d₀ (d.travel way) := by
  induction way generalizing d with
  | nil => exact h
  | cons a r ih =>
    cases r with
    | nil => exact h
    | cons b r => exact ih h.hop

theorem carry {src dst : Nat} (h : Evolves d₀ d) : Evolves d₀ (d.carry src dst) := h.travel

theorem toBlock {isl : Nat} (h : Evolves d₀ d) : Evolves d₀ (d.toBlock isl) := h.travel

theorem atBlock {isl : Nat} {f : Dev → Dev} (h : Evolves d₀ d) (hf : ∀ d, Evolves d₀ d → Evolves d₀ (f d)) :
    Evolves d₀ (d.atBlock isl f) :=
  .ite (hf _ h.toBlock) h

theorem toMirror {isl : Nat} (h : Evolves d₀ d) : Evolves d₀ (d.toMirror isl) := h.travel

theorem enqueue {q : Nat} {e : Entry} (h : Evolves d₀ d) : Evolves d₀ (d.enqueue q e) := h.setQueue

theorem ctxEvent {x : Nat} {status : W16} {info : W32} {payload : List Byte} (h : Evolves d₀ d) :
    Evolves d₀ (d.ctxEvent x status info payload) :=
  h.noteEvent.enqueue

theorem fnEvent {fn : Nat} {ctx status : W16} {info : W32} {payload : List Byte} (h : Evolves d₀ d) :
    Evolves d₀ (d.fnEvent fn ctx status info payload) :=
  h.enqueue

theorem devEvent {status : W16} {info : W32} {payload : List Byte} (h : Evolves d₀ d) :
    Evolves d₀ (d.devEvent status info payload) :=
  h.fnEvent

theorem completePay {hd : CmdHdr} {status : W16} {info : W32} {payload : List Byte} (h : Evolves d₀ d) :
    Evolves d₀ (d.completePay hd status info payload) :=
  .ite h.withHost h.withHost.enqueue

theorem complete {hd : CmdHdr} {status : W16} {info : W32} (h : Evolves d₀ d) :
    Evolves d₀ (d.complete hd status info) :=
  h.completePay

theorem completeOpt {hd : Option CmdHdr} {status : W16} {info : W32} (h : Evolves d₀ d) :
    Evolves d₀ (d.completeOpt hd status info) := by
  unfold Dev.completeOpt
  split
  · exact h.complete
  · exact h

/-! ### Machine/Flags -/

theorem alert (h : Evolves d₀ d) : Evolves d₀ d.alert := h.withPins

theorem errFire {base bit first : Nat} (h : Evolves d₀ d) : Evolves d₀ (d.errFire base bit first) :=
  .ite (.rsetNat (.noteEvent (.ite h.rsetNat.rsetNat h.rsetNat.rsetNat.rsetNat)))
    (.alert (.devEvent (.rsetNat (.noteEvent (.ite h.rsetNat.rsetNat h.rsetNat.rsetNat.rsetNat)))))

theorem errClear {base v : Nat} (h : Evolves d₀ d) : Evolves d₀ (d.errClear base v) := .ite h.rsetNat.rsetNat h.rsetNat

theorem abortCause {x cause : Nat} {status : W16} {source : W32} (h : Evolves d₀ d) :
    Evolves d₀ (d.abortCause x cause status source) :=
  .ite (.ite h.noteEvent h.noteEvent.modGyle) h

theorem abortOpen {x cause : Nat} {source : W32} (h : Evolves d₀ d) : Evolves d₀ (d.abortOpen x cause source) :=
  h.drew.abortCause

theorem vfCopy {r : ErrRec} (h : Evolves d₀ d) : Evolves d₀ (d.vfCopy r) := .ite h h.fnEvent

theorem newRecord {x : Detection} {now : Nat} (h : Evolves d₀ d) : Evolves d₀ (d.newRecord x now) :=
  .withRas (.vfCopy (.rsetNat (.ite h.noteEvent.carry.count h.noteEvent.carry)))

theorem errRecord {x : Detection} (h : Evolves d₀ d) : Evolves d₀ (d.errRecord x) := by
  unfold Dev.errRecord
  dsimp only
  split
  · exact .ite h.count.withRas.count h.count.newRecord
  · exact h.count.newRecord

/-! ### Machine/Frames -/

theorem setPool {die : Nat} {p : DiePool} (h : Evolves d₀ d) : Evolves d₀ (d.setPool die p) := by
  unfold Dev.setPool
  split
  · exact h.withPool
  · exact h

theorem takeFrame {die : Nat} {r : Nat × Dev} (h : Evolves d₀ d) (e : d.takeFrame die = some r) : Evolves d₀ r.2 := by
  unfold Dev.takeFrame at e
  split at e
  · cases e
  · cases e
    exact h.drew.setPool

theorem takeFrames {dies : List Nat} {r : List Nat × Dev} (h : Evolves d₀ d) (e : d.takeFrames dies = some r) :
    Evolves d₀ r.2 := by
  induction dies generalizing d r with
  | nil =>
    cases e
    exact h
  | cons die dies ih =>
    unfold Dev.takeFrames at e
    split at e
    · cases e
    · next e₁ =>
      split at e
      · cases e
      · next e₂ =>
        cases e
        have hr := ih (h.takeFrame e₁) e₂
        exact hr

theorem freeFrame {f : Nat} (h : Evolves d₀ d) : Evolves d₀ (d.freeFrame f) := h.setPool

theorem freeFrameList {fs : List Nat} (h : Evolves d₀ d) : Evolves d₀ (d.freeFrameList fs) :=
  h.foldl fun _ _ h => h.freeFrame

theorem setObj {n : Nat} {o : Obj} (h : Evolves d₀ d) : Evolves d₀ (d.setObj n o) := h.withObjs

theorem openSlot {p : Phys} (h : Evolves d₀ d) : Evolves d₀ (d.openSlot p) := by
  unfold Dev.openSlot
  split
  · exact h.drew.withUndef
  · exact h

theorem invalidateLines {writer : Nat} {lines : List Nat} (h : Evolves d₀ d) :
    Evolves d₀ (d.invalidateLines writer lines) :=
  h.foldl fun _ _ h => .ite h h.setCluster.count

theorem stackRead {frame off n : Nat} (h : Evolves d₀ d) : Evolves d₀ (d.stackRead frame off n) :=
  h.foldl fun _ _ h => h.count

theorem stackWrite {frame off n : Nat} (h : Evolves d₀ d) : Evolves d₀ (d.stackWrite frame off n) :=
  h.foldl fun _ _ h => h.count

theorem placeRead {p : Phys} {n : Nat} (h : Evolves d₀ d) : Evolves d₀ (d.placeRead p n) := by
  unfold Dev.placeRead
  split
  · exact h.stackRead
  · exact h

theorem physWrite {p : Phys} {bs : List Byte} (h : Evolves d₀ d) : Evolves d₀ (d.physWrite p bs) := by
  unfold Dev.physWrite
  split
  · exact h.hbmWrite
  · exact h.hostWrite

theorem store {writer : Nat} {p : Phys} {bs : List Byte} (h : Evolves d₀ d) : Evolves d₀ (d.store writer p bs) := by
  unfold Dev.store
  dsimp only
  split
  · exact h.physWrite.invalidateLines.stackWrite
  · exact h.physWrite.invalidateLines

theorem stackReads {x va n : Nat} (h : Evolves d₀ d) : Evolves d₀ (d.stackReads x va n) :=
  h.foldl fun _ _ h => h.placeRead

theorem logBlock {x n va : Nat} {o : Obj} {t : Dev} (h : Evolves d₀ d) (e : d.logBlock x n o va = some t) :
    Evolves d₀ t := by
  unfold Dev.logBlock at e
  dsimp only at e
  split at e
  · cases e
    exact h
  · split at e
    · cases e
    · obtain rfl := Option.some.inj e
      exact h.store.store.store.store.setObj

theorem ctxWritePiece {writer x va : Nat} {bs : List Byte} (h : Evolves d₀ d) :
    Evolves d₀ (d.ctxWritePiece writer x va bs).2 := by
  unfold Dev.ctxWritePiece
  refine .iteOn Prod.snd h.snd (.iteOn Prod.snd h.snd ?_)
  split
  · exact h
  · next d₁ e =>
    have h₁ : Evolves d₀ d₁ := h.ofIteSome e fun e => by
      obtain ⟨o, -, ho⟩ := Option.bind_eq_some_iff.mp e
      exact h.logBlock ho
    exact .snd (.ite (.modCtx (.store (.ite h₁.openSlot h₁))) (.store (.ite h₁.openSlot h₁)))

theorem ctxWritePieces {x : Nat} {bs : List Byte} {ps : List (Nat × Nat)} (h : Evolves d₀ d) :
    Evolves d₀ (d.ctxWritePieces x bs ps).2 := by
  induction ps generalizing d bs with
  | nil => exact h
  | cons p ps ih => exact .iteOn Prod.snd (ih h.ctxWritePiece) h.ctxWritePiece

theorem ctxWrite {x va : Nat} {bs : List Byte} (h : Evolves d₀ d) : Evolves d₀ (d.ctxWrite x va bs).2 :=
  .iteOn Prod.snd h.ctxWritePieces h.snd

theorem dropXlate {x : Nat} (h : Evolves d₀ d) : Evolves d₀ (d.dropXlate x) := h.withClusters

/-! ### Machine/Operands -/

theorem opWrite {core : Nat} {t : SlotIx} {target off : Nat} {bs : List Byte} (h : Evolves d₀ d) :
    Evolves d₀ (d.opWrite core t target off bs) :=
  .ite h.modCore h.modCore

theorem countNbr {core : Nat} {t : SlotIx} {target off len : Nat} (h : Evolves d₀ d) :
    Evolves d₀ (d.countNbr core t target off len) :=
  .ite h h.count

theorem countNbrs {core : Nat} {t : SlotIx} {b : List Byte} (h : Evolves d₀ d) : Evolves d₀ (d.countNbrs core t b) :=
  h.foldl fun _ _ h => h.foldl fun _ _ h => h.countNbr

theorem fieldWrite {core : Nat} {t : SlotIx} {b : List Byte} {field off : Nat} {bs : List Byte}
    (h : Evolves d₀ d) : Evolves d₀ (d.fieldWrite core t b field off bs) :=
  h.opWrite

theorem rowStore {core : Nat} {t : SlotIx} {b : List Byte} {field off w full : Nat} {xs : List Nat}
    (h : Evolves d₀ d) : Evolves d₀ (d.rowStore core t b field off w full xs) :=
  .ite h.fieldWrite h.fieldWrite

theorem spoil {core : Nat} {t : SlotIx} {b : List Byte} (h : Evolves d₀ d) : Evolves d₀ (d.spoil core t b) :=
  h.foldl fun _ _ h => h.foldl fun _ _ h => h.fieldWrite.drew

/-! ### Machine/Staging -/

theorem setPageState {base st : Nat} (h : Evolves d₀ d) : Evolves d₀ (d.setPageState base st) := h.rsetNat

theorem stageEvent {base : Nat} (h : Evolves d₀ d) : Evolves d₀ (d.stageEvent base) := h.noteEvent.rsetNat

theorem openGen {base g : Nat} (h : Evolves d₀ d) : Evolves d₀ (d.openGen base g) :=
  .ite h (.ite h.rsetNat (.ite h h.rsetNat.withApply.count.stageEvent))

theorem stageValue {base key : Nat} {v : W32} (h : Evolves d₀ d) : Evolves d₀ (d.stageValue base key v) :=
  .ite (.ite h.withApply h.withApply.setPageState.stageEvent) h.count

theorem applyResult {gen : Nat} {status : W16} (h : Evolves d₀ d) : Evolves d₀ (d.applyResult gen status) :=
  h.rsetNat.devEvent

theorem requestApply {gen : Nat} {who : Requester} (h : Evolves d₀ d) : Evolves d₀ (d.requestApply gen who) :=
  .ite h.noteEvent.applyResult h.noteEvent.withApply

theorem ownGen (h : Evolves d₀ d) : Evolves d₀ d.ownGen.2 := h.withApply.snd

/-! ### Machine/Errors -/

theorem setHist {kind unit : Nat} {hd : UnitHist} (h : Evolves d₀ d) : Evolves d₀ (d.setHist kind unit hd) := h.withRas

theorem toFlash {f : Flash} (h : Evolves d₀ d) : Evolves d₀ (d.toFlash f) := .ite h h.withFlash

theorem toRegion {f : Flash} (h : Evolves d₀ d) : Evolves d₀ (d.toRegion f) := .ite h.errFire.devEvent h.toFlash

theorem histWrite (h : Evolves d₀ d) : Evolves d₀ d.histWrite := h.toRegion

theorem histCount (h : Evolves d₀ d) : Evolves d₀ d.histCount := .ite h h.withRas.histWrite

theorem calWrite (h : Evolves d₀ d) : Evolves d₀ d.calWrite := h.toRegion

theorem trayReport {bits : Nat} (h : Evolves d₀ d) : Evolves d₀ (d.trayReport bits) :=
  .ite h h.withRas.rsetNat.rsetNat.histWrite.devEvent.alert

theorem trayCheck (h : Evolves d₀ d) : Evolves d₀ d.trayCheck := h.trayReport

theorem deviceError {x : Detection} (h : Evolves d₀ d) : Evolves d₀ (d.deviceError x) := by
  unfold Dev.deviceError
  extract_lets d₁ d₂
  have h₂ : Evolves d₀ d₂ := h.errRecord.foldl fun _ _ h => h.abortCause
  exact .alert (.histWrite (.trayCheck (.rsetNat (.withRas (.frame h₂)))))

theorem preemptCtx {x : Nat} (h : Evolves d₀ d) : Evolves d₀ (d.preemptCtx x) := .ite h h.modCtx.count

theorem coreService {core : Nat} (h : Evolves d₀ d) : Evolves d₀ (d.coreService core) := by
  unfold Dev.coreService
  refine .rsetNat ?_
  split
  · exact h.rsetNat
  · exact h.rsetNat
  · exact h

theorem unitEvent {status : W16} {kind unit : Nat} (h : Evolves d₀ d) : Evolves d₀ (d.unitEvent status kind unit) :=
  h.noteEvent.devEvent

theorem retireCore {core : Nat} (h : Evolves d₀ d) : Evolves d₀ (d.retireCore core) :=
  .ite h (.trayCheck (.histWrite (.coreService (.unitEvent (h.setHist.foldl (fun _ _ h => h.preemptCtx))))))

theorem holdPort {port : Nat} (h : Evolves d₀ d) : Evolves d₀ (d.holdPort port) := h.rsetNat.rsetNat

theorem addEntry {e : W128} (h : Evolves d₀ d) : Evolves d₀ (d.addEntry e) := .ite h h.withRas.calWrite

theorem setUnrepairable {core : Nat} (h : Evolves d₀ d) : Evolves d₀ (d.setUnrepairable core) :=
  .retireCore (.ite h.rsetNat h.rsetNat.errFire)

theorem stageRepair {gen core : Nat} (h : Evolves d₀ d) : Evolves d₀ (d.stageRepair gen core).2 :=
  .iteOn Prod.snd h.setUnrepairable.snd (.iteOn Prod.snd h.snd h.openGen.stageValue.snd)

theorem mergeCores {die : Nat} {cores : List Nat} (h : Evolves d₀ d) : Evolves d₀ (d.mergeCores die cores) :=
  .ite (.count (.requestApply (.foldlOn Prod.snd h.ownGen.snd (fun _ _ h => h.stageRepair.snd))))
    (.foldlOn Prod.snd h.ownGen.snd (fun _ _ h => h.stageRepair.snd))

theorem retireRow {core row : Nat} (h : Evolves d₀ d) : Evolves d₀ (d.retireRow core row) :=
  .mergeCores (.ite h.addEntry h.addEntry.setHist)

theorem unitLost {kind unit : Nat} (h : Evolves d₀ d) : Evolves d₀ (d.unitLost kind unit) := h.deviceError

theorem retireEffect {kind unit : Nat} (h : Evolves d₀ d) : Evolves d₀ (d.retireEffect kind unit) := by
  unfold Dev.retireEffect
  split
  · exact h.retireRow
  · exact h.retireCore
  · exact h.holdPort
  · exact h.foldl fun _ _ h => h.retireCore
  · exact .ite h.unitLost h
  · exact h.unitLost
  · exact h

theorem setService {kind unit : Nat} {s : Service} (h : Evolves d₀ d) : Evolves d₀ (d.setService kind unit s) := by
  unfold Dev.setService
  refine .ite h.retireCore ?_
  extract_lets +onlyGivenNames _ d₁
  have h₁ : Evolves d₀ d₁ := by
    unfold d₁
    split
    · exact h.setHist
    · exact h.setHist.unitEvent
    · exact h.setHist.retireEffect.unitEvent
  refine .trayCheck (.histWrite ?_)
  split
  · exact h₁.coreService
  · exact h₁

theorem confirmFault {kind unit detector : Nat} (h : Evolves d₀ d) :
    Evolves d₀ (d.confirmFault kind unit detector) := by
  unfold Dev.confirmFault
  dsimp only
  split
  · exact h.setHist.setService
  · exact .ite h.setHist.setService h.setHist.histCount
  · exact h.setHist.histCount

theorem transientFault {kind unit detector : Nat} (h : Evolves d₀ d) :
    Evolves d₀ (d.transientFault kind unit detector) :=
  .ite h.setHist.setService h.setHist.histCount

theorem markRecord {kind unit detector flag : Nat} (h : Evolves d₀ d) :
    Evolves d₀ (d.markRecord kind unit detector flag) :=
  h.withRas

theorem settleTransient {kind unit detector : Nat} (h : Evolves d₀ d) :
    Evolves d₀ (d.settleTransient kind unit detector) :=
  h.markRecord.transientFault

theorem scheduleRetest {kind unit detector : Nat} (h : Evolves d₀ d) :
    Evolves d₀ (d.scheduleRetest kind unit detector) := by
  unfold Dev.scheduleRetest
  dsimp only
  split
  · exact h.setHist.modCore
  · exact h.setHist

theorem correctedFault {kind unit detector : Nat} (h : Evolves d₀ d) :
    Evolves d₀ (d.correctedFault kind unit detector) :=
  .ite h.setHist (.ite h.setHist.markRecord.transientFault h.setHist)

theorem noteUnit {x : Detection} (h : Evolves d₀ d) : Evolves d₀ (d.noteUnit x) :=
  .ite h (.ite h.correctedFault h.scheduleRetest)

theorem detect {x : Detection} (h : Evolves d₀ d) : Evolves d₀ (d.detect x) :=
  .ite h.noteUnit.deviceError h.errRecord.noteUnit

theorem detectUnclassed {x : Detection} (h : Evolves d₀ d) : Evolves d₀ (d.detectUnclassed x) :=
  h.drew.newRecord.noteUnit

/-! ### Machine/Tasks -/

theorem ctxPoke {x va : Nat} {bs : List Byte} (h : Evolves d₀ d) : Evolves d₀ (d.ctxPoke x va bs).2 :=
  .iteOn Prod.snd h.snd (.snd (.foldlOn Prod.fst h.fst (fun _ _ h => h.store.fst)))

theorem ringPut {x ring base slots size pos : Nat} {bs : List Byte} (h : Evolves d₀ d) :
    Evolves d₀ (d.ringPut x ring base slots size pos bs).2 :=
  .iteOn Prod.snd h.count.snd (.iteOn Prod.snd h.ctxPoke.snd (.iteOn Prod.snd h.count.snd h.count.modCtx.ctxEvent.snd))

theorem perfRecord {x isl type page : Nat} {body : List Byte} (h : Evolves d₀ d) :
    Evolves d₀ (d.perfRecord x isl type page body).2 :=
  .snd (.modCtx (.ite h.noteEvent.ringPut.count h.noteEvent.ringPut))

theorem taskFail {core : Nat} {t : SlotIx} {status : W16} {desc : Nat} (h : Evolves d₀ d) :
    Evolves d₀ (d.taskFail core t status desc) :=
  h.abortCause.modSlot.errFire

theorem goTo {core : Nat} {t : SlotIx} {pc : Nat} (h : Evolves d₀ d) : Evolves d₀ (d.goTo core t pc) :=
  .ite h.modSlot.count.taskFail h.modSlot.count

theorem semUp {core : Nat} {t : SlotIx} {sem n : Nat} (h : Evolves d₀ d) : Evolves d₀ (d.semUp core t sem n) :=
  .ite h.modSlot h.modSlot.errFire.taskFail

theorem engineError {core : Nat} {t : SlotIx} {engine bit : Nat} {status : W16} (h : Evolves d₀ d) :
    Evolves d₀ (d.engineError core t engine bit status) := by
  unfold Dev.engineError
  split
  · exact h.errFire
  · exact h

theorem engineCount {core engine off n : Nat} (h : Evolves d₀ d) : Evolves d₀ (d.engineCount core engine off n) := by
  unfold Dev.engineCount
  split
  · exact h.count
  · exact h

theorem wordCorrected {core : Nat} {t : SlotIx} {engine : Nat} {m : CoreMem} (h : Evolves d₀ d) :
    Evolves d₀ (d.wordCorrected core t engine m) :=
  .detect (.ite h.count.engineCount h.count)

theorem wordUncorrected {core : Nat} {t : SlotIx} {engine : Nat} {m : CoreMem} (h : Evolves d₀ d) :
    Evolves d₀ (d.wordUncorrected core t engine m) := by
  unfold Dev.wordUncorrected
  refine .detect ?_
  split
  · exact h.errFire
  · exact h.errFire
  · exact h
  · exact h.errFire
  · exact h.engineError

theorem upsetNote {core : Nat} {t : SlotIx} {engine : Nat} {u : Upset} (h : Evolves d₀ d) :
    Evolves d₀ (d.upsetNote core t engine u) := by
  unfold Dev.upsetNote
  split
  · exact h
  · exact h
  · exact h.engineError.detect
  · exact h.wordUncorrected
  · exact h.wordCorrected

theorem withWord {core : Nat} {t : SlotIx} {u : WordEcc} {f : Dev → Dev} (h : Evolves d₀ d)
    (hf : ∀ d, Evolves d₀ d → Evolves d₀ (f d)) : Evolves d₀ (d.withWord core t u f) := by
  unfold Dev.withWord
  split
  · exact hf _ h
  · exact hf _ h.wordCorrected
  · exact h.wordUncorrected.taskFail

theorem addHealth {core : Nat} {t : SlotIx} {ticket : Option W32} {hd : Health} (h : Evolves d₀ d) :
    Evolves d₀ (d.addHealth core t ticket hd) := by
  unfold Dev.addHealth
  split
  · exact h.modCtx
  · exact h.modSlot

theorem postStatus {core : Nat} {t : SlotIx} {sem : Option (Fin 8)} {tag : Option W16} {status : W16}
    {desc : Nat} (h : Evolves d₀ d) : Evolves d₀ (d.postStatus core t sem tag status desc) := by
  unfold Dev.postStatus
  extract_lets _ d₁
  have h₁ : Evolves d₀ d₁ := by
    unfold d₁
    split
    · exact h.modSlot.semUp
    · exact h.modSlot
  exact .ite h₁.modSlot h₁.taskFail

/-! ### Machine/Array -/

theorem failTile {core : Nat} {t : SlotIx} {status : W16} (h : Evolves d₀ d) :
    Evolves d₀ (d.failTile core t status) := by
  unfold Dev.failTile
  refine .modSlot ?_
  split
  · exact h.spoil
  · exact h

theorem fillBad {core : Nat} {t : SlotIx} (h : Evolves d₀ d) : Evolves d₀ (d.fillBad core t) :=
  .ite h.wordUncorrected.failTile h.wordUncorrected.taskFail

theorem fillPlane {core : Nat} {t : SlotIx} {u : WordEcc} (h : Evolves d₀ d) : Evolves d₀ (d.fillPlane core t u) := by
  unfold Dev.fillPlane
  refine .ite h.modSlot ?_
  dsimp only
  split
  · exact h.modSlot
  · exact .ite (.fillBad (.ite h.modSlot.wordCorrected h.modSlot)) (.modSlot (.ite h.modSlot.wordCorrected h.modSlot))

theorem weightPlaneFill {core : Nat} {t : SlotIx} {u : WordEcc} (h : Evolves d₀ d) :
    Evolves d₀ (weightPlaneFillEff core t u d) :=
  h.fillPlane

theorem arrayDetect {core : Nat} {t : SlotIx} {shared : Bool} {det : Nat × Nat} (h : Evolves d₀ d) :
    Evolves d₀ (d.arrayDetect core t shared det) :=
  h.errFire

theorem arrayRecord {core : Nat} {t : SlotIx} {shared : Bool} {dets : List (Nat × Nat)} {code : Nat}
    (h : Evolves d₀ d) : Evolves d₀ (d.arrayRecord core t shared dets code) := by
  unfold Dev.arrayRecord
  split
  · exact h
  · exact h.detect

theorem failHalf {core : Nat} {bits : List Nat} {hd : SlotIx} (h : Evolves d₀ d) :
    Evolves d₀ (d.failHalf core bits hd) :=
  .ite h h.failTile

theorem arrayFail {core : Nat} {t : SlotIx} {dets : List (Nat × Nat)} (h : Evolves d₀ d) :
    Evolves d₀ (d.arrayFail core t dets) :=
  .ite (.failHalf (.foldl (h.foldl (fun _ _ h => h.arrayDetect)) (fun _ _ h => h.arrayRecord)))
    (.ite (.failHalf (.failHalf (.foldl (h.foldl (fun _ _ h => h.arrayDetect)) (fun _ _ h => h.arrayRecord))))
    (.failHalf (.failHalf (.foldl (h.foldl (fun _ _ h => h.arrayDetect)) (fun _ _ h => h.arrayRecord)))))

theorem metadataFail {core : Nat} {t : SlotIx} (h : Evolves d₀ d) : Evolves d₀ (d.metadataFail core t) :=
  h.arrayDetect.failTile

theorem tileDrained {core : Nat} {t : SlotIx} {q : QDesc} {r : TileRun} (h : Evolves d₀ d) :
    Evolves d₀ (d.tileDrained core t q r) :=
  .ite (.ite (.fieldWrite (.ite h.modSlot.abortOpen h.modSlot)) (.ite h.modSlot.abortOpen h.modSlot))
    (.modSlot (.ite (.fieldWrite (.ite h.modSlot.abortOpen h.modSlot)) (.ite h.modSlot.abortOpen h.modSlot)))

theorem openTile {core : Nat} {t : SlotIx} {q : QDesc} {r : TileRun} (h : Evolves d₀ d) :
    Evolves d₀ (d.openTile core t q r) := by
  unfold Dev.openTile
  refine .ite h ?_
  split
  · exact h
  · exact h.metadataFail
  · exact .ite h.modSlot.count.tileDrained h.modSlot.count

theorem matrixTile {core : Nat} {t : SlotIx} (h : Evolves d₀ d) : Evolves d₀ (matrixTileEff core t d) := by
  unfold matrixTileEff
  dsimp only
  split
  · exact h
  · refine .ite h (.ite h.modSlot ?_)
    split
    · exact h.modSlot
    · split
      · exact h
      · exact .ite h.countNbrs.modSlot.openTile h.modSlot

theorem runPass {core : Nat} {t : SlotIx} {q : QDesc} {r : TileRun} {entry : List Byte} {u : ArrayUpset}
    (h : Evolves d₀ d) : Evolves d₀ (d.runPass core t q r entry u) :=
  .ite (.arrayFail (.ite h.upsetNote.drew.modCore.modSlot.count.count.count.count.count.count.count
    h.upsetNote.drew.modCore.modSlot.count.count.count.count.count.count))
    (.ite (.failTile (.ite h.upsetNote.drew.modCore.modSlot.count.count.count.count.count.count.count
    h.upsetNote.drew.modCore.modSlot.count.count.count.count.count.count))
    (.ite (.ite h.upsetNote.drew.modCore.modSlot.count.count.count.count.count.count.count
    h.upsetNote.drew.modCore.modSlot.count.count.count.count.count.count)
    (.ite (.tileDrained (.modSlot (.ite h.upsetNote.drew.modCore.modSlot.count.count.count.count.count.count.count
    h.upsetNote.drew.modCore.modSlot.count.count.count.count.count.count)))
    (.ite h.upsetNote.drew.modCore.modSlot.count.count.count.count.count.count.count
    h.upsetNote.drew.modCore.modSlot.count.count.count.count.count.count))))

theorem arrayPass {core : Nat} {t : SlotIx} {u : ArrayUpset} (h : Evolves d₀ d) :
    Evolves d₀ (arrayPassEff core t u d) := by
  unfold arrayPassEff
  dsimp only
  split
  · refine .ite h ?_
    split
    · exact h.openTile
    · refine .ite h.openTile ?_
      split
      · exact h.openTile
      · exact .ite h.openTile.metadataFail h.openTile.runPass
  · exact h

theorem row {d : ConvOut} {c : Conv} {engine core : Nat} {t : SlotIx} {b : List Byte} {e : Option ℤ}
    {dst dstOff full scales scaleOff index : Nat} {xs : List Num} (h : Evolves d₀ d.d) :
    Evolves d₀ (ConvOut.row d c engine core t b e dst dstOff full scales scaleOff index xs).d :=
  .iteOn ConvOut.d h.rowStore.fieldWrite.convOut h.rowStore.convOut

theorem chain {core : Nat} {t : SlotIx} {q : QDesc} {r : TileRun} (h : Evolves d₀ d) :
    Evolves d₀ (d.chain core t q r).1 := by
  unfold Dev.chain
  refine .fst ?_
  split
  · exact .fieldWrite (.foldlOn ConvOut.d h.convOut (fun _ _ h => h.row))
  · exact .foldlOn ConvOut.d h.convOut fun _ _ h => h.row

theorem chainedConversion {core : Nat} {t : SlotIx} {u : Upset} (h : Evolves d₀ d) :
    Evolves d₀ (chainedConversionEff core t u d) := by
  unfold chainedConversionEff
  dsimp only
  split
  · exact .ite h (.ite h.upsetNote.failTile h.upsetNote.chain.engineCount.modSlot)
  · exact h

/-! ### Machine/Work -/

theorem savedSem {x task sem n : Nat} (h : Evolves d₀ d) : Evolves d₀ (d.savedSem x task sem n) := by
  unfold Dev.savedSem
  split
  · exact h
  · refine .ite h.modCtx ?_
    split
    · exact h.modCtx.errFire.abortCause
    · exact h.modCtx.abortCause

theorem taskSem {x core : Nat} {t : SlotIx} {sem n : Nat} (h : Evolves d₀ d) :
    Evolves d₀ (d.taskSem x core t sem n) := by
  unfold Dev.taskSem
  refine .ite h.semUp ?_
  split
  · exact h
  · exact h.savedSem

theorem releaseSeqs {j : Nat} {g : GStream} {test : GristSeq → Bool} (h : Evolves d₀ d) :
    Evolves d₀ (d.releaseSeqs j g test) :=
  .ite h h.modCluster.count

theorem roundRelease {j ctx queue : Nat} (h : Evolves d₀ d) : Evolves d₀ (d.roundRelease j ctx queue) :=
  h.foldl fun _ _ h => h.releaseSeqs

theorem passRelease {j : Nat} {g : GStream} (h : Evolves d₀ d) : Evolves d₀ (d.passRelease j g) := h.releaseSeqs

theorem roundEnd {j ctx num : Nat} (h : Evolves d₀ d) : Evolves d₀ (d.roundEnd j ctx num) := by
  unfold Dev.roundEnd
  split
  · exact h
  · exact .ite h (.roundRelease (.count (.modCluster (h.foldl (fun _ _ h => h.taskSem)))))

theorem recordClose {core : Nat} {t : SlotIx} {o : OpenTicket} (h : Evolves d₀ d) :
    Evolves d₀ (d.recordClose core t o).2 := by
  unfold Dev.recordClose
  dsimp only
  split
  · exact h.count.snd
  · split
    · exact h.count.snd
    · exact .snd (.roundEnd (.ite h.modCluster h.modCluster.count))

theorem closeTicket {core : Nat} {t : SlotIx} {o : OpenTicket} (h : Evolves d₀ d) :
    Evolves d₀ (d.closeTicket core t o) :=
  .ite h.recordClose.modSlot.modCtx h.recordClose.modSlot

theorem closeDue {core : Nat} {t : SlotIx} (h : Evolves d₀ d) : Evolves d₀ (d.closeDue core t) :=
  h.foldl fun _ _ h => h.closeTicket

theorem returnTicket {core : Nat} {t : SlotIx} {o : OpenTicket} (h : Evolves d₀ d) :
    Evolves d₀ (d.returnTicket core t o) := by
  unfold Dev.returnTicket
  refine .modSlot ?_
  split
  · exact h
  · dsimp only
    split
    · exact h
    · exact h.modCluster.count.roundEnd

theorem returnAll {core : Nat} {t : SlotIx} (h : Evolves d₀ d) : Evolves d₀ (d.returnAll core t) :=
  h.closeDue.foldl fun _ _ h => h.returnTicket

theorem queueParity {core : Nat} {t : SlotIx} (h : Evolves d₀ d) : Evolves d₀ (d.queueParity core t) :=
  h.errFire.detect.abortCause

theorem claimRecord {core : Nat} {t : SlotIx} {parityBad : Bool} (h : Evolves d₀ d) :
    Evolves d₀ (claimRecordEff core t parityBad d) := by
  unfold claimRecordEff
  dsimp only
  split
  · exact h
  · refine .ite h.carry.queueParity ?_
    split
    · exact h.carry.closeDue.errFire.modSlot
    · refine .ite h.carry.closeDue.errFire.modSlot ?_
      split
      · exact h.carry.closeDue.modCluster.count.modSlot.roundEnd
      · exact h.carry.closeDue.modCluster.count.modSlot

theorem claimReply {core : Nat} {t : SlotIx} (h : Evolves d₀ d) : Evolves d₀ (claimReplyEff core t d) := by
  unfold claimReplyEff
  dsimp only
  split
  · exact .ite h.carry.modSlot.taskFail h.carry.modSlot.goTo
  · exact h

theorem ticketClose {core : Nat} {t : SlotIx} {parityBad : Bool} (h : Evolves d₀ d) :
    Evolves d₀ (ticketCloseEff core t parityBad d) := by
  unfold ticketCloseEff
  split
  · exact h
  · exact .ite h.carry.queueParity h.carry.closeTicket

theorem ticketReturn {core : Nat} {t : SlotIx} {parityBad : Bool} (h : Evolves d₀ d) :
    Evolves d₀ (ticketReturnEff core t parityBad d) := by
  unfold ticketReturnEff
  refine .ite ?_ h
  split
  · exact .ite h.carry.queueParity (.ite h.carry.closeTicket h.carry.returnTicket)
  · exact h

theorem queueReset {j ctx num : Nat} (h : Evolves d₀ d) : Evolves d₀ (queueResetEff j ctx num d) := by
  unfold queueResetEff
  split
  · exact h
  · exact .ite h.modCluster h

/-! ### Machine/Cells -/

theorem moved {core : Nat} {t : SlotIx} (h : Evolves d₀ d) : Evolves d₀ (d.moved core t) := h.withMoves

theorem haltCtx {x : Nat} (h : Evolves d₀ d) : Evolves d₀ (d.haltCtx x) := h.modCtx.preemptCtx

theorem cellEvent {core i bit stream : Nat} (h : Evolves d₀ d) : Evolves d₀ (d.cellEvent core i bit stream) :=
  .ite h.errFire.abortCause.ctxEvent.haltCtx h.errFire.abortCause.detect

theorem creditBack {core i port : Nat} (h : Evolves d₀ d) : Evolves d₀ (d.creditBack core i port) := by
  unfold Dev.creditBack
  refine .ite h.modCell ?_
  split
  · exact h.modCell
  · exact h

theorem linkTravel {core i port : Nat} {way : List Nat} (h : Evolves d₀ d) :
    Evolves d₀ (d.linkTravel core i port way) := by
  induction way generalizing d with
  | nil => exact h
  | cons a r ih =>
    cases r with
    | nil => exact h
    | cons b r => exact ih (.ite (.ite h.transferOn h) h.hop)

theorem sendToken {core i port : Nat} {k : Token} (h : Evolves d₀ d) : Evolves d₀ (d.sendToken core i port k) := by
  unfold Dev.sendToken
  split
  · exact h
  · exact h.modCell.linkTravel.modCell.count.moved

theorem takeToken {core i port stream : Nat} (h : Evolves d₀ d) : Evolves d₀ (d.takeToken core i port stream) :=
  h.modCell.creditBack

theorem tokenArrive {core i port : Nat} {parityBad : Bool} (h : Evolves d₀ d) :
    Evolves d₀ (tokenArriveEff core i port parityBad d) := by
  unfold tokenArriveEff
  dsimp only
  split
  · exact h
  · refine .ite h (.ite h.setCell.creditBack.cellEvent (.ite h.setCell.creditBack.cellEvent ?_))
    split
    · exact h.setCell.creditBack.cellEvent.count
    · exact .ite h.setCell.modCell.moved (.ite h.setCell.modCell.moved.count h.setCell.creditBack.cellEvent.count)

theorem stopRoute {core i s : Nat} (h : Evolves d₀ d) : Evolves d₀ (d.stopRoute core i s) := h.modCell.cellEvent

theorem tokenForward {core i port : Nat} {tableBad : Bool} (h : Evolves d₀ d) :
    Evolves d₀ (tokenForwardEff core i port tableBad d) := by
  unfold tokenForwardEff
  refine .ite h ?_
  split
  · exact h
  · exact .ite h.stopRoute h.takeToken.modCell.sendToken

theorem creditReturn {core i port : Nat} (h : Evolves d₀ d) : Evolves d₀ (creditReturnEff core i port d) := by
  unfold creditReturnEff
  refine .ite h ?_
  dsimp only
  split
  · exact h.modCell
  · exact .ite h.linkTravel.modCell h

theorem toBf16 {core i : Nat} {e : W128} {xs : List Nat} (h : Evolves d₀ d) : Evolves d₀ (d.toBf16 core i e xs).2 :=
  h.modCtx.snd

theorem cellArith {core i : Nat} {e a b c : W128} (h : Evolves d₀ d) : Evolves d₀ (d.cellArith core i e a b c).2 :=
  .iteOn Prod.snd h.toBf16.snd h.snd

theorem emit {core i : Nat} {e : W128} {n kind : Nat} {v : W128} (h : Evolves d₀ d) :
    Evolves d₀ (d.emit core i e n kind v) :=
  .ite h.modCell.modCell (.ite h.modCell.sendToken.modCell (.ite h.modCell h))

theorem countFire {core i ix : Nat} {e : W128} {n : Nat} (h : Evolves d₀ d) : Evolves d₀ (d.countFire core i ix e n) :=
  .ite h h.modCell.emit

theorem fireResult {core i ix : Nat} {e a b c : W128} {kinds : Nat × Nat × Nat} (h : Evolves d₀ d) :
    Evolves d₀ (d.fireResult core i ix e a b c kinds) := by
  unfold Dev.fireResult
  split
  · exact h.emit
  · exact h.emit.emit
  · exact .ite h.emit h.emit
  · exact .ite h.emit h.emit
  · exact h.countFire
  · exact .ite h.modCell h.modCell.emit
  · exact h.toBf16.emit
  · exact h.emit.emit
  · exact h.cellArith.emit

theorem fire {core i ix : Nat} {e : W128} {bad : Bool} (h : Evolves d₀ d) : Evolves d₀ (d.fire core i ix e bad) :=
  .ite (.count (.cellEvent (h.foldl (fun _ _ h => h.takeToken))))
    (.ite (.foldl (.moved (.count (.modCell (h.drew.foldl (fun _ _ h => h.takeToken)))))
    (fun _ _ h => .ite h.emit h)) (.fireResult (.moved (.count (.modCell (h.drew.foldl (fun _ _ h => h.takeToken)))))))

theorem cellOp {op core i : Nat} {u : Upset} (h : Evolves d₀ d) : Evolves d₀ (cellOpEff op core i u d) := by
  unfold cellOpEff
  split
  · exact h
  · refine .ite h ?_
    split
    · exact h.fire
    · exact h.fire
    · exact h.count.detect.fire
    · exact h.cellEvent.fire
    · exact h.modCell.cellEvent

theorem setBinding {core n : Nat} {b : BindSt} (h : Evolves d₀ d) : Evolves d₀ (d.setBinding core n b) := h.modCore

theorem withBinding {core n type : Nat} {tableBad : Bool} {f : BindSt → Dev} (h : Evolves d₀ d)
    (hf : ∀ b, Evolves d₀ (f b)) : Evolves d₀ (d.withBinding core n type tableBad f) := by
  unfold Dev.withBinding
  split
  · exact h
  · exact .ite h.setBinding.cellEvent (hf _)

theorem takePortToken {core i s : Nat} {port : Option Nat} (h : Evolves d₀ d) :
    Evolves d₀ (d.takePortToken core i s port) := by
  unfold Dev.takePortToken
  split
  · exact h.takeToken
  · exact h.modCell

theorem semDown {core : Nat} {t : SlotIx} {sem n : Nat} (h : Evolves d₀ d) : Evolves d₀ (d.semDown core t sem n) :=
  h.modSlot

theorem portMoved {core : Nat} {t : SlotIx} (h : Evolves d₀ d) : Evolves d₀ (d.portMoved core t) := h.count.moved

theorem inRing {core n : Nat} {tableBad : Bool} (h : Evolves d₀ d) : Evolves d₀ (inRingEff core n tableBad d) := by
  unfold inRingEff
  refine h.withBinding fun _ => ?_
  dsimp only
  split
  · exact h.semDown.setBinding
  · exact .ite h.semDown.setBinding.takePortToken.cellEvent.count
      (.ite h.semDown.setBinding (.ite h.semDown.setBinding.takePortToken.opWrite.setBinding.portMoved.semUp
      h.semDown.setBinding.takePortToken.opWrite.setBinding.portMoved))

theorem portSend {core : Nat} {b : BindSt} {kind : Nat} {v : W128} (h : Evolves d₀ d) :
    Evolves d₀ (d.portSend core b kind v) :=
  h.modCell.portMoved

theorem outRing {core n : Nat} {tableBad : Bool} (h : Evolves d₀ d) : Evolves d₀ (outRingEff core n tableBad d) :=
  h.withBinding fun _ => .ite h (.ite (.semUp (.portSend (.setBinding (.ite h.semDown h))))
    (.portSend (.setBinding (.ite h.semDown h))))

theorem semIn {core n : Nat} {tableBad : Bool} (h : Evolves d₀ d) : Evolves d₀ (semInEff core n tableBad d) := by
  unfold semInEff
  refine h.withBinding fun _ => ?_
  dsimp only
  split
  · exact h
  · exact .ite h.takePortToken.cellEvent.count h.takePortToken.portMoved.semUp

theorem lenOut {core n : Nat} {tableBad : Bool} (h : Evolves d₀ d) : Evolves d₀ (lenOutEff core n tableBad d) :=
  h.withBinding fun _ => .ite h h.semDown.setBinding.portSend

theorem modSlotCells {core : Nat} {t : SlotIx} {f : Nat → CellSt → CellSt} (h : Evolves d₀ d) :
    Evolves d₀ (d.modSlotCells core t f) :=
  h.foldl fun _ _ h => h.modCell

theorem flushTokens {x : Nat} (h : Evolves d₀ d) : Evolves d₀ (d.flushTokens x) := h.foldl fun _ _ h => h.modSlotCells

theorem deadlock {isl x : Nat} (h : Evolves d₀ d) : Evolves d₀ (d.deadlock isl x) :=
  h.abortCause.flushTokens.ctxEvent.haltCtx

theorem stallProbeReply {isl x : Nat} (h : Evolves d₀ d) : Evolves d₀ (stallProbeReplyEff isl x d) := by
  unfold stallProbeReplyEff
  dsimp only
  split
  · exact h
  · exact .ite h (.ite h.modCtx (.ite (.ite h.modCtx h.modCtx.deadlock) h.modCtx))

theorem sampleRecord {isl x : Nat} (h : Evolves d₀ d) : Evolves d₀ (sampleRecordEff isl x d) :=
  .ite h (.ite (h.perfRecord.foldl (fun _ _ h => h.count)) h.perfRecord)

/-! ### Machine/Hub -/

theorem xlateTouch {j x page : Nat} (h : Evolves d₀ d) : Evolves d₀ (d.xlateTouch j x page) :=
  .ite h h.drew.setCluster.count

theorem hubBytes {j : Nat} {p : Phys} {n : Nat} {write : Bool} (h : Evolves d₀ d) :
    Evolves d₀ (d.hubBytes j p n write) := by
  unfold Dev.hubBytes
  split
  · exact .ite h.count h.count
  · exact h.count

theorem memTrip {j : Nat} {p : Phys} {n : Nat} {write : Bool} (h : Evolves d₀ d) : Evolves d₀ (d.memTrip j p n write) :=
  .hubBytes (h.foldl (fun _ _ h => h.carry.carry))

theorem lineTouch {j line : Nat} (h : Evolves d₀ d) : Evolves d₀ (d.lineTouch j line) :=
  .ite h.count h.drew.setCluster.count.placeRead.memTrip

theorem lineFault {j x va : Nat} (h : Evolves d₀ d) : Evolves d₀ (d.lineFault j x va) := by
  unfold Dev.lineFault
  dsimp only
  split
  · exact h
  · exact h.setCluster.count.errFire.detect

theorem xlateFault {j x page : Nat} (h : Evolves d₀ d) : Evolves d₀ (d.xlateFault j x page) :=
  .ite h.setCluster.errFire h

theorem readTouch {j x va n : Nat} {p : Phys} (h : Evolves d₀ d) : Evolves d₀ (d.readTouch j x va n p) :=
  .ite h.xlateTouch.placeRead.memTrip (h.xlateTouch.foldl (fun _ _ h => h.lineTouch))

theorem hubRead {j x va n : Nat} (h : Evolves d₀ d) : Evolves d₀ (d.hubRead j x va n).2.2 := by
  unfold Dev.hubRead
  dsimp only
  split
  · exact h
  · exact h.drew.foldl fun _ _ h => h.readTouch

theorem hubWritePieces {j x : Nat} {bs : List Byte} {ps : List (Nat × Nat)} (h : Evolves d₀ d) :
    Evolves d₀ (d.hubWritePieces j x bs ps).2 := by
  induction ps generalizing d bs with
  | nil => exact h
  | cons p ps ih => exact .iteOn Prod.snd h.ctxWritePiece (ih h.ctxWritePiece.xlateTouch.memTrip)

theorem hubWrite {j x va : Nat} {bs : List Byte} (h : Evolves d₀ d) : Evolves d₀ (d.hubWrite j x va bs).2 :=
  .iteOn Prod.snd h.hubWritePieces h.snd

/-! ### Machine/Messages -/

theorem revokePartner {p : Nat} (h : Evolves d₀ d) : Evolves d₀ (d.revokePartner p) := h.setPartner

theorem sendMsg {p : Nat} {hd : MsgHdr} {data : List Byte} (h : Evolves d₀ d) : Evolves d₀ (d.sendMsg p hd data) :=
  .ite h (.ite (.ite h.modPort.modPort h.modPort.modPort.revokePartner.devEvent) h.modPort)

theorem sendTo {hd : MsgHdr} {data : List Byte} (h : Evolves d₀ d) : Evolves d₀ (d.sendTo hd data) := by
  unfold Dev.sendTo
  split
  · exact h.drew.sendMsg
  · exact h

theorem popMsg {p : Nat} {vc : Fin 4} (h : Evolves d₀ d) : Evolves d₀ (d.popMsg p vc) := by
  unfold Dev.popMsg
  split
  · exact h.modPort
  · exact h

theorem sendWack {p : Nat} {m : MsgHdr} (h : Evolves d₀ d) : Evolves d₀ (d.sendWack p m) := h.sendMsg

theorem sendNack {p : Nat} {m : MsgHdr} {status : W16} {window gen : Nat} (h : Evolves d₀ d) :
    Evolves d₀ (d.sendNack p m status window gen) :=
  h.sendMsg.count

theorem sendTracked {x port : Nat} {hd : MsgHdr} {data : List Byte} {mark : Bool} {sendId channel : Option Nat}
    {cask rack : Bool} (h : Evolves d₀ d) : Evolves d₀ (d.sendTracked x port hd data mark sendId channel cask rack) :=
  h.modCtx.sendMsg

/-! ### Machine/Memory -/

theorem contextLoss {isl x : Nat} (h : Evolves d₀ d) : Evolves d₀ (d.contextLoss isl x) := h.abortCause.modGyle

theorem gyleLoss {isl x : Nat} (h : Evolves d₀ d) : Evolves d₀ (d.gyleLoss isl x) := h.abortCause

theorem gyleLosses {isl : Nat} {x : Detection} {hs : List Nat} (h : Evolves d₀ d) :
    Evolves d₀ (d.gyleLosses isl x hs) := by
  unfold Dev.gyleLosses
  split
  · exact h.detectUnclassed
  · exact h.detect.foldl fun _ _ h => h.gyleLoss

theorem caskLose {slot : Nat} {older : Bool} (h : Evolves d₀ d) : Evolves d₀ (d.caskLose slot older) := by
  unfold Dev.caskLose
  split
  · exact h
  · exact h.withCasks.errFire.sendTo

theorem hbmCorrected {stack pc frame ctx : Nat} (h : Evolves d₀ d) : Evolves d₀ (d.hbmCorrected stack pc frame ctx) :=
  h.count.count.detect

theorem hbmUncorrected {stack pc frame ctx : Nat} {scrub : Bool} (h : Evolves d₀ d) :
    Evolves d₀ (d.hbmUncorrected stack pc frame ctx scrub) := by
  unfold Dev.hbmUncorrected
  dsimp only
  split
  · exact h.count.count.errFire.detect
  · exact h.count.count.errFire.detect
  · exact h.count.count.errFire.detectUnclassed.caskLose
  · exact h.count.count.errFire.detect.contextLoss
  · exact h.count.count.errFire.detect.contextLoss
  · exact h.count.count.errFire.gyleLosses
  · exact .ite (h.count.count.errFire.detect.foldl (fun _ _ h => h.contextLoss)) h.count.count.errFire.gyleLosses

theorem accessUpset {x va n : Nat} {u : ReadUpset} (h : Evolves d₀ d) : Evolves d₀ (d.accessUpset x va n u).2 := by
  unfold Dev.accessUpset
  dsimp only
  split
  · exact h.snd
  · exact h.snd
  · exact h.snd
  · exact .iteOn Prod.snd h.snd h.snd
  · split
    · exact h.hbmCorrected.snd
    · exact h.snd
  · split
    · exact h.hbmUncorrected.snd
    · exact h.snd

theorem hubReadMeets {j x va n : Nat} {u : ReadUpset} (h : Evolves d₀ d) :
    Evolves d₀ (d.hubReadMeets j x va n u).2.2 := by
  unfold Dev.hubReadMeets
  extract_lets d₁ d₂ r
  have h₂ : Evolves d₀ d₂ := .ite (.xlateFault (.ite h.lineFault h)) (.ite h.lineFault h)
  have hr : Evolves d₀ r.2.2 := h₂.hubRead
  split
  · exact hr
  · exact hr.accessUpset

theorem hubWriteMeets {j x va : Nat} {bs : List Byte} {u : ReadUpset} (h : Evolves d₀ d) :
    Evolves d₀ (d.hubWriteMeets j x va bs u).2 :=
  .iteOn Prod.snd h.snd (.hubWrite (.ite h.xlateFault h))

theorem hubAccess {j x : Nat} {write : Bool} {va : Nat} {data : List Byte} {u : ReadUpset}
    (h : Evolves d₀ d) : Evolves d₀ (hubAccessEff j x write va data u d) :=
  .ite h (.ite h.hubWriteMeets.withAnswer h.hubReadMeets.withAnswer)

theorem scrubStep {stack : Nat} {find : ScrubFind} (h : Evolves d₀ d) : Evolves d₀ (scrubStepEff stack find d) := by
  unfold scrubStepEff
  refine .ite h ?_
  split
  · exact .ite h.count h
  · exact h.hbmCorrected
  · exact h.hbmUncorrected
  · exact h.errFire

theorem fetchTrip {j x va n : Nat} (h : Evolves d₀ d) : Evolves d₀ (d.fetchTrip j x va n) :=
  h.foldl fun _ _ h => h.placeRead.memTrip

theorem gristFetch {j x stream : Nat} {u : ReadUpset} (h : Evolves d₀ d) :
    Evolves d₀ (gristFetchEff j x stream u d) := by
  unfold gristFetchEff
  split
  · exact h
  · refine .ite h (.ite h.modCluster.errFire ?_)
    split
    · exact h.modCluster.errFire
    · exact .ite h.modCluster.errFire (.ite h.modCluster.errFire
        (.ite h (.ite h.modCluster.errFire (.ite h.modCluster.errFire
        (.ite h (.ite h.drew.accessUpset.modCluster.errFire
        h.drew.accessUpset.modCluster.stackReads.fetchTrip.count.count))))))

theorem frameZeroed {die : Nat} (h : Evolves d₀ d) : Evolves d₀ (frameZeroedEff die d) := by
  unfold frameZeroedEff
  refine .ite h ?_
  split
  · exact .ite h.hbmClear.drew.setPool h.hbmClear.drew.setPool
  · exact .ite h.hbmClear.setPool h

/-! ### Machine/Engines -/

theorem engineRun {core : Nat} {t : SlotIx} {engine op : Nat} {u : Upset} {run : Dev → QDesc → EngOut}
    (h : Evolves d₀ d) (hrun : ∀ d q, Evolves d₀ d → Evolves d₀ (run d q).d) :
    Evolves d₀ (d.engineRun core t engine op u run) := by
  unfold Dev.engineRun
  dsimp only
  split
  · exact h
  · exact .ite h (.ite h.modCore.modSlot (.ite (.modSlot (hrun _ _ h.modCore.countNbrs.upsetNote))
      (.modSlot (.spoil (hrun _ _ h.modCore.countNbrs.upsetNote)))))

theorem convRow {d : EngOut} {c : Conv} {code core : Nat} {t : SlotIx} {b : List Byte} {dst off full index : Nat}
    {xs : List Nat} (h : Evolves d₀ d.d) : Evolves d₀ (EngOut.convRow d c code core t b dst off full index xs).d :=
  h.rowStore.engOut

theorem vectorRun {core : Nat} {t : SlotIx} {q : QDesc} (h : Evolves d₀ d) :
    Evolves d₀ (Machine.vectorRun core t d q).d :=
  .iteOn EngOut.d h.engOut (.iteOn EngOut.d (.foldlOn EngOut.d (.foldlOn EngOut.d h.engOut (fun _ _ h => h.convRow))
    (fun _ _ h => h.convRow)) (.foldlOn EngOut.d h.engOut (fun _ _ h => h.convRow)))

theorem vectorDescriptor {core : Nat} {t : SlotIx} {u : Upset} (h : Evolves d₀ d) :
    Evolves d₀ (vectorDescriptorEff core t u d) :=
  h.engineRun fun _ _ h => h.vectorRun

theorem transposeRun {core : Nat} {t : SlotIx} {q : QDesc} (h : Evolves d₀ d) :
    Evolves d₀ (Machine.transposeRun core t d q).d :=
  .engOut (h.foldl (fun _ _ h => h.rowStore))

theorem transpose {core : Nat} {t : SlotIx} {u : Upset} (h : Evolves d₀ d) : Evolves d₀ (transposeEff core t u d) :=
  h.engineRun fun _ _ h => h.transposeRun

theorem smRow {core : Nat} {t : SlotIx} {c : Conv} {q : QDesc} {d : EngOut} {x : SmIn} (h : Evolves d₀ d.d) :
    Evolves d₀ (Machine.smRow core t c q d x).d :=
  .engOut (.ite (.engineCount (.ite (.fieldWrite (.ite h.drew.engOut.convRow.fieldWrite
    h.drew.engOut.convRow.fieldWrite.fieldWrite)) (.ite h.drew.engOut.convRow.fieldWrite
    h.drew.engOut.convRow.fieldWrite.fieldWrite))) (.ite
    (.fieldWrite (.ite h.drew.engOut.convRow.fieldWrite h.drew.engOut.convRow.fieldWrite.fieldWrite))
    (.ite h.drew.engOut.convRow.fieldWrite h.drew.engOut.convRow.fieldWrite.fieldWrite)))

theorem softmaxRun {core : Nat} {t : SlotIx} {q : QDesc} (h : Evolves d₀ d) :
    Evolves d₀ (Machine.softmaxRun core t d q).d :=
  .foldlOn EngOut.d h.engOut fun _ _ h => h.smRow

theorem recomputeRow {core : Nat} {t : SlotIx} {c : Conv} {q : QDesc} {d : EngOut} {x : SmIn}
    (h : Evolves d₀ d.d) : Evolves d₀ (Machine.recomputeRow core t c q d x).d :=
  .engOut (.ite h.convRow.engineCount h.convRow)

theorem recomputeRun {core : Nat} {t : SlotIx} {q : QDesc} (h : Evolves d₀ d) :
    Evolves d₀ (Machine.recomputeRun core t d q).d :=
  .foldlOn EngOut.d h.engOut fun _ _ h => h.recomputeRow

theorem fwdFirst {core : Nat} {t : SlotIx} {u : Upset} (h : Evolves d₀ d) : Evolves d₀ (fwdFirstEff core t u d) :=
  h.engineRun fun _ _ h => h.softmaxRun

theorem fwdNext {core : Nat} {t : SlotIx} {u : Upset} (h : Evolves d₀ d) : Evolves d₀ (fwdNextEff core t u d) :=
  h.engineRun fun _ _ h => h.softmaxRun

theorem fwdLast {core : Nat} {t : SlotIx} {u : Upset} (h : Evolves d₀ d) : Evolves d₀ (fwdLastEff core t u d) :=
  h.engineRun fun _ _ h => h.softmaxRun

theorem fwdOnly {core : Nat} {t : SlotIx} {u : Upset} (h : Evolves d₀ d) : Evolves d₀ (fwdOnlyEff core t u d) :=
  h.engineRun fun _ _ h => h.softmaxRun

theorem recompute {core : Nat} {t : SlotIx} {u : Upset} (h : Evolves d₀ d) : Evolves d₀ (recomputeEff core t u d) :=
  h.engineRun fun _ _ h => h.recomputeRun

theorem tableRead {core : Nat} {t : SlotIx} {b : List Byte} {ix n : Nat} {u : ReadUpset} (h : Evolves d₀ d) :
    Evolves d₀ (d.tableRead core t b ix n u).2.2 := by
  unfold Dev.tableRead
  split
  · exact h.carry.hubReadMeets.carry
  · exact h

theorem tableWrite {core : Nat} {t : SlotIx} {b : List Byte} {ix : Nat} {bs : List Byte} {u : ReadUpset}
    (h : Evolves d₀ d) : Evolves d₀ (d.tableWrite core t b ix bs u).2 :=
  .iteOn Prod.snd h.carry.hubWriteMeets.carry.snd h.fieldWrite.snd

theorem outOfRange {d : EngOut} {core : Nat} {b : List Byte} (h : Evolves d₀ d.d) :
    Evolves d₀ (EngOut.outOfRange d core b).d :=
  h.engineCount.engOut

theorem addRows {o : EngOut} {c : Conv} {b tab dense : List Byte} {ix : Nat} (h : Evolves d₀ o.d) :
    Evolves d₀ (o.addRows c b tab dense ix).1.d := h

theorem moveRow {d : EngOut} {c : Conv} {u : Upset} {core : Nat} {t : SlotIx} {b : List Byte} {i ix : Nat}
    (h : Evolves d₀ d.d) : Evolves d₀ (EngOut.moveRow d c u core t b i ix).d := by
  unfold EngOut.moveRow
  dsimp only
  split
  · exact h.tableWrite.drew.engOut
  · exact .iteOn EngOut.d h.tableRead.engOut h.tableRead.engOut.addRows.tableWrite.drew.engOut
  · exact .iteOn EngOut.d h.tableRead.engOut h.tableRead.fieldWrite.engOut

theorem missRow {d : EngOut} {core : Nat} {t : SlotIx} {b : List Byte} {i : Nat} (h : Evolves d₀ d.d) :
    Evolves d₀ (EngOut.missRow d core t b i).d :=
  .iteOn EngOut.d h.outOfRange (.iteOn EngOut.d h.outOfRange.fieldWrite.engOut
    (.iteOn EngOut.d h.outOfRange.fieldWrite.drew.engOut h.outOfRange))

theorem gatherRun {u : Upset} {core : Nat} {t : SlotIx} {q : QDesc} (h : Evolves d₀ d) :
    Evolves d₀ (Machine.gatherRun u core t d q).d := by
  unfold Machine.gatherRun
  refine .foldlOn EngOut.d h.engOut fun _ _ h => .iteOn EngOut.d h ?_
  split
  · exact h.moveRow
  · exact h.missRow

theorem compactRun {core : Nat} {t : SlotIx} {q : QDesc} (h : Evolves d₀ d) :
    Evolves d₀ (Machine.compactRun core t d q).d :=
  h.fieldWrite.fieldWrite.engOut

theorem dispatchRow {core : Nat} {t : SlotIx} {b : List Byte} {ids : List (Option Nat)} {d : EngOut} {i : Nat}
    (h : Evolves d₀ d.d) : Evolves d₀ (Machine.dispatchRow core t b ids d i).d := by
  unfold Machine.dispatchRow
  refine .iteOn EngOut.d h ?_
  split
  · exact .iteOn EngOut.d h.outOfRange h.outOfRange.fieldWrite.drew.engOut
  · exact .iteOn EngOut.d h.fieldWrite.engineCount.engOut
      (.iteOn EngOut.d h.tableWrite.engOut h.tableWrite.fieldWrite.engOut)

theorem dispatchRun {u : Upset} {core : Nat} {t : SlotIx} {q : QDesc} (h : Evolves d₀ d) :
    Evolves d₀ (Machine.dispatchRun u core t d q).d :=
  .iteOn EngOut.d (.engOut (.fieldWrite (.foldlOn EngOut.d h.engOut (fun _ _ h => h.dispatchRow))))
    (.engOut (.drew (.fieldWrite (.foldlOn EngOut.d h.engOut (fun _ _ h => h.dispatchRow)))))

theorem gather {core : Nat} {t : SlotIx} {u : Upset} (h : Evolves d₀ d) : Evolves d₀ (gatherEff core t u d) :=
  h.engineRun fun _ _ h => h.gatherRun

theorem scatter {core : Nat} {t : SlotIx} {u : Upset} (h : Evolves d₀ d) : Evolves d₀ (scatterEff core t u d) :=
  h.engineRun fun _ _ h => h.gatherRun

theorem scatterAdd {core : Nat} {t : SlotIx} {u : Upset} (h : Evolves d₀ d) : Evolves d₀ (scatterAddEff core t u d) :=
  h.engineRun fun _ _ h => h.gatherRun

theorem compact {core : Nat} {t : SlotIx} {u : Upset} (h : Evolves d₀ d) : Evolves d₀ (compactEff core t u d) :=
  h.engineRun fun _ _ h => h.compactRun

theorem dispatch {core : Nat} {t : SlotIx} {u : Upset} (h : Evolves d₀ d) : Evolves d₀ (dispatchEff core t u d) :=
  h.engineRun fun _ _ h => h.dispatchRun

theorem combine {core : Nat} {t : SlotIx} {u : Upset} (h : Evolves d₀ d) : Evolves d₀ (combineEff core t u d) :=
  h.engineRun fun _ _ h => h.gatherRun

theorem topkRun {core : Nat} {t : SlotIx} {q : QDesc} (h : Evolves d₀ d) : Evolves d₀ (Machine.topkRun core t d q).d :=
  .engOut (h.foldl (fun _ _ h => h.rowStore.fieldWrite.engineCount))

theorem sampleRun {core : Nat} {t : SlotIx} {q : QDesc} (h : Evolves d₀ d) :
    Evolves d₀ (Machine.sampleRun core t d q).d :=
  .engOut (h.foldl (fun _ _ h => h.fieldWrite.engineCount))

theorem topk {core : Nat} {t : SlotIx} {u : Upset} (h : Evolves d₀ d) : Evolves d₀ (topkEff core t u d) :=
  h.engineRun fun _ _ h => h.topkRun

theorem sample {core : Nat} {t : SlotIx} {u : Upset} (h : Evolves d₀ d) : Evolves d₀ (sampleEff core t u d) :=
  h.engineRun fun _ _ h => h.sampleRun

theorem quantiseRun {core : Nat} {t : SlotIx} {q : QDesc} (h : Evolves d₀ d) :
    Evolves d₀ (Machine.quantiseRun core t d q).d := by
  unfold Machine.quantiseRun
  extract_lets _ _ _ _ _ _ _ _ d₁
  have h₁ : Evolves d₀ d₁ := by
    unfold d₁
    split
    · exact .fieldWrite (.foldlOn ConvOut.d h.convOut (fun _ _ h => h.row))
    · exact .foldlOn ConvOut.d h.convOut fun _ _ h => h.row
  exact .engOut (.ite h₁.abortOpen h₁)

theorem quantise {core : Nat} {t : SlotIx} {u : Upset} (h : Evolves d₀ d) : Evolves d₀ (quantiseEff core t u d) :=
  h.engineRun fun _ _ h => h.quantiseRun

theorem bitsRun {w core : Nat} {t : SlotIx} {q : QDesc} (h : Evolves d₀ d) :
    Evolves d₀ (Machine.bitsRun w core t d q).d :=
  h.fieldWrite.engineCount.engOut

theorem genStore {core : Nat} {t : SlotIx} {q : QDesc} {drawn : Nat} {vals : List Nat} (h : Evolves d₀ d) :
    Evolves d₀ (Machine.genStore core t d q drawn vals).d :=
  h.engOut.convRow.engineCount.engOut

theorem uniformRun {core : Nat} {t : SlotIx} {q : QDesc} (h : Evolves d₀ d) :
    Evolves d₀ (Machine.uniformRun core t d q).d :=
  h.genStore

theorem maskRun {core : Nat} {t : SlotIx} {q : QDesc} (h : Evolves d₀ d) : Evolves d₀ (Machine.maskRun core t d q).d :=
  h.rowStore.engineCount.engOut

theorem normalRun {core : Nat} {t : SlotIx} {q : QDesc} (h : Evolves d₀ d) :
    Evolves d₀ (Machine.normalRun core t d q).d :=
  h.genStore

theorem bits8 {core : Nat} {t : SlotIx} {u : Upset} (h : Evolves d₀ d) : Evolves d₀ (bits8Eff core t u d) :=
  h.engineRun fun _ _ h => h.bitsRun

theorem bits16 {core : Nat} {t : SlotIx} {u : Upset} (h : Evolves d₀ d) : Evolves d₀ (bits16Eff core t u d) :=
  h.engineRun fun _ _ h => h.bitsRun

theorem bits32 {core : Nat} {t : SlotIx} {u : Upset} (h : Evolves d₀ d) : Evolves d₀ (bits32Eff core t u d) :=
  h.engineRun fun _ _ h => h.bitsRun

theorem uniform {core : Nat} {t : SlotIx} {u : Upset} (h : Evolves d₀ d) : Evolves d₀ (uniformEff core t u d) :=
  h.engineRun fun _ _ h => h.uniformRun

theorem mask {core : Nat} {t : SlotIx} {u : Upset} (h : Evolves d₀ d) : Evolves d₀ (maskEff core t u d) :=
  h.engineRun fun _ _ h => h.maskRun

theorem normal {core : Nat} {t : SlotIx} {u : Upset} (h : Evolves d₀ d) : Evolves d₀ (normalEff core t u d) :=
  h.engineRun fun _ _ h => h.normalRun

theorem copyRun {core : Nat} {t : SlotIx} {q : QDesc} (h : Evolves d₀ d) : Evolves d₀ (Machine.copyRun core t d q).d :=
  .engOut (h.drew.foldl (fun _ _ h => h.fieldWrite))

theorem copyDescriptor {core : Nat} {t : SlotIx} {u : Upset} (h : Evolves d₀ d) :
    Evolves d₀ (copyDescriptorEff core t u d) :=
  h.engineRun fun _ _ h => h.copyRun

theorem exactCheck {core : Nat} {t : SlotIx} {q : QDesc} {m : Measured} (h : Evolves d₀ d) :
    Evolves d₀ (d.exactCheck core t q m) := by
  unfold Dev.exactCheck
  refine .ite h ?_
  split
  · exact h
  · exact .ite h.count.count.count (.ite h.count.count.count.perfRecord.count h.count.count.count.perfRecord)

theorem descriptorCompletion {core : Nat} {t : SlotIx} {engine : Nat} {m : Measured} (h : Evolves d₀ d) :
    Evolves d₀ (descriptorCompletionEff core t engine m d) := by
  unfold descriptorCompletionEff
  split
  · exact h
  · split
    · exact .postStatus (.addHealth (.modSlot (.exactCheck
        (.ite (.ite h.engineCount.engineCount.engineCount.count h.engineCount.engineCount.engineCount)
        (.engineError (.ite h.engineCount.engineCount.engineCount.count h.engineCount.engineCount.engineCount))))))
    · exact h

/-! ### Machine/Commands -/

theorem setState {x : Nat} {s : CtxState} (h : Evolves d₀ d) : Evolves d₀ (d.setState x s) := by
  unfold Dev.setState
  exact h.noteEvent.modCtx

theorem adminCmd {hd : CmdHdr} {pfOnly : Bool} {f : Dev → Dev} (h : Evolves d₀ d)
    (hf : ∀ d, Evolves d₀ d → Evolves d₀ (f d)) : Evolves d₀ (d.adminCmd hd pfOnly f) :=
  .ite h.complete (.ite h.complete (hf _ h))

theorem ctxCmd {hd : CmdHdr} {f : Dev → Dev} (h : Evolves d₀ d) (hf : ∀ d, Evolves d₀ d → Evolves d₀ (f d)) :
    Evolves d₀ (d.ctxCmd hd f) :=
  .ite h.complete (.ite h.complete (.ite h.complete (hf _ h)))

theorem liveCmd {hd : CmdHdr} {f : Dev → Dev} (h : Evolves d₀ d) (hf : ∀ d, Evolves d₀ d → Evolves d₀ (f d)) :
    Evolves d₀ (d.liveCmd hd f) :=
  h.ctxCmd fun _ h => .ite h.complete (hf _ h)

/-! ### Machine/Objects -/

theorem dropPages {x first n : Nat} (h : Evolves d₀ d) : Evolves d₀ (d.dropPages x first n) := h.withClusters

theorem remap {o : Obj} (h : Evolves d₀ d) : Evolves d₀ (d.remap o) := h.foldl fun _ _ h => h.modCtx.dropPages

theorem objFrames {o : Obj} {logs near : Nat} {r : Obj × Dev} (h : Evolves d₀ d)
    (e : d.objFrames o logs near = some r) : Evolves d₀ r.2 := by
  simp only [Dev.objFrames, Option.bind_eq_some_iff, Option.map_eq_some_iff] at e
  obtain ⟨_, e₁, _, e₂, _, e₃, rfl⟩ := e
  exact ((h.takeFrames e₁).takeFrames e₂).takeFrames e₃

theorem allocate {x : Nat} {bounds : List Nat} {e : AllocEntry} (h : Evolves d₀ d) :
    Evolves d₀ (d.allocate x bounds e).2.2.2 := by
  unfold Dev.allocate
  let π (p : W16 × Nat × Bool × Dev) : Dev := p.2.2.2
  refine .iteOn π h ?_
  split
  · exact .iteOn π h h.setObj.modCtx.snd
  · refine .iteOn π h (.iteOn π h.setObj.withNextObj.modCtx.snd (.iteOn π ?_
      (.iteOn π h.setObj.withNextObj.modCtx.snd ?_)))
    · split
      · exact h
      · exact h.setObj.withNextObj.modCtx.snd
    · split
      · exact h
      · next e => exact (h.objFrames e).setObj.withNextObj.modCtx.snd

theorem objCreate {hd : CmdHdr} {e : AllocEntry} (h : Evolves d₀ d) : Evolves d₀ (objCreateEff hd e d) :=
  h.liveCmd fun _ h => .ite h.complete (.ite h.allocate.modCtx h.allocate.complete)

theorem objAttach {hd : CmdHdr} {e : AllocEntry} (h : Evolves d₀ d) : Evolves d₀ (objAttachEff hd e d) := by
  unfold objAttachEff
  refine h.liveCmd fun _ h => .ite h.complete (.complete ?_)
  split
  · exact h.allocate
  · exact h

theorem dropHold {x num : Nat} {o : Obj} (h : Evolves d₀ d) : Evolves d₀ (d.dropHold x num o) :=
  h.modCtx.setObj.dropPages

theorem freeObj {num : Nat} {o : Obj} (h : Evolves d₀ d) : Evolves d₀ (d.freeObj num o) := h.freeFrameList.withObjs

theorem releaseHold {x num : Nat} {o : Obj} {cmd : Option CmdHdr} (h : Evolves d₀ d) :
    Evolves d₀ (d.releaseHold x num o cmd) :=
  .ite h.dropHold.completeOpt.completeOpt (.ite h.dropHold.completeOpt.freeObj.completeOpt
    h.dropHold.completeOpt.setObj)

theorem objRelease {hd : CmdHdr} {object : W32} (h : Evolves d₀ d) : Evolves d₀ (objReleaseEff hd object d) := by
  unfold objReleaseEff
  refine h.liveCmd fun _ h => ?_
  split
  · exact h.complete
  · exact h.releaseHold

theorem objMoveUp {hd : CmdHdr} {object range : W32} (h : Evolves d₀ d) :
    Evolves d₀ (objMoveUpEff hd object range d) := by
  unfold objMoveUpEff
  refine h.liveCmd fun _ h => ?_
  split
  · exact h.complete
  · refine .ite h.complete (.ite h.complete (.ite h.complete (.ite h.complete ?_)))
    split
    · exact h.complete
    · next _ d e =>
        exact .setObj ((h.takeFrames e).foldl (fun _ _ h => h.modCtx))

theorem objMoveDown {hd : CmdHdr} {object range : W32} (h : Evolves d₀ d) :
    Evolves d₀ (objMoveDownEff hd object range d) := by
  unfold objMoveDownEff
  refine h.liveCmd fun _ h => ?_
  split
  · exact h.complete
  · refine .ite h.releaseHold (.ite h.complete (.ite h.complete ?_))
    dsimp only
    split
    · exact h.complete
    · exact .ite h.complete h.modCtx.setObj

theorem frameTrip {f : Nat} {toHost : Bool} (h : Evolves d₀ d) : Evolves d₀ (d.frameTrip f toHost) :=
  h.foldl fun _ _ h => .ite h.carry h.carry

theorem moveFails {n : Nat} {o : Obj} {status : W16} (h : Evolves d₀ d) : Evolves d₀ (d.moveFails n o status) :=
  .completeOpt (.setObj (h.freeFrameList.foldl (fun _ _ h => h.modCtx)))

theorem objectMoveFrame {n : Nat} {u : ReadUpset} (h : Evolves d₀ d) : Evolves d₀ (objectMoveFrameEff n u d) := by
  unfold objectMoveFrameEff
  split
  · exact h
  · dsimp only
    split
    · exact h
    · exact h.freeObj.completeOpt.completeOpt
    · exact .ite h (.ite h (.ite h.moveFails h.drew.store.frameTrip.setObj))
    · exact .ite h (.ite h (.ite h.moveFails (.ite h.hbmUncorrected.moveFails
        (.setObj (.frameTrip (.store (.placeRead (.ite h.hbmCorrected h))))))))

theorem moveComplete {n : Nat} (h : Evolves d₀ d) : Evolves d₀ (moveCompleteEff n d) := by
  unfold moveCompleteEff
  split
  · exact h
  · refine .ite h ?_
    split
    · exact .completeOpt (.remap (.setObj (h.foldl (fun _ _ h => h.modCtx))))
    · exact .completeOpt (.remap (.setObj (.freeFrameList (h.foldl (fun _ _ h => h.modCtx)))))
    · exact h

/-! ### Machine/Votes -/

theorem decideHere {x job : Nat} {k : Decision} (h : Evolves d₀ d) : Evolves d₀ (d.decideHere x job k) :=
  .ite h.noteEvent.count (.ite h.noteEvent.count.errFire h.noteEvent.modGyle)

theorem sendDecision {c : Nat} {to_ : Nat × Nat} {k : Decision} (h : Evolves d₀ d) :
    Evolves d₀ (d.sendDecision c to_ k) :=
  .ite h.decideHere h.sendTo

theorem coordDecide {c : Nat} {commit : Bool} {cause origin : Nat} {status : W16} (h : Evolves d₀ d) :
    Evolves d₀ (d.coordDecide c commit cause origin status) :=
  h.noteEvent.modGyle.foldl fun _ _ h => h.sendDecision

theorem expireVotes {c : Nat} (h : Evolves d₀ d) : Evolves d₀ (d.expireVotes c) := h.drew.count.coordDecide

theorem countVote {c : Nat} {v : EarlyVote} (h : Evolves d₀ d) : Evolves d₀ (d.countVote c v) :=
  .ite h (.ite h.count.count.coordDecide (.ite h.count.count.coordDecide
    (.ite h.count.count.modGyle.coordDecide h.count.count.modGyle)))

theorem recordVote {c : Nat} {who : Nat × Nat} {b : Ballot} {attempt : Nat} (h : Evolves d₀ d) :
    Evolves d₀ (d.recordVote c who b attempt) := by
  unfold Dev.recordVote
  dsimp only
  split
  · exact .sendDecision (.ite h.noteEvent.expireVotes h.noteEvent)
  · exact .ite (.ite h.noteEvent.expireVotes h.noteEvent)
      (.ite (.modGyle (.ite h.noteEvent.expireVotes h.noteEvent))
      (.ite (.count (.ite h.noteEvent.expireVotes h.noteEvent))
      (.countVote (.ite h.noteEvent.expireVotes h.noteEvent))))

theorem takeEarly {c : Nat} (h : Evolves d₀ d) : Evolves d₀ (d.takeEarly c) := by
  unfold Dev.takeEarly
  refine h.modGyle.foldl fun _ _ h => ?_
  split
  · exact h.sendDecision
  · exact h.countVote

theorem sendVote {x : Nat} (h : Evolves d₀ d) : Evolves d₀ (d.sendVote x) :=
  .ite h.decideHere (.ite (.ite h.recordVote h.sendTo) h.ctxEvent)

theorem castVote {x : Nat} (h : Evolves d₀ d) : Evolves d₀ (d.castVote x) := .ite h.noteEvent.modGyle.sendVote h

/-! ### Machine/Restore -/

theorem captureImage {x : Nat} (h : Evolves d₀ d) : Evolves d₀ (d.captureImage x) := by
  unfold Dev.captureImage
  refine h.modResil.drew.ctxPoke.foldl fun _ _ h => ?_
  split
  · exact h.ctxPoke
  · exact h

theorem sealImage {x : Nat} (h : Evolves d₀ d) : Evolves d₀ (d.sealImage x) := by
  unfold Dev.sealImage
  dsimp only
  split
  · exact h
  · exact h.ctxPoke

theorem putCurrent {x : Nat} {o : Obj} {off g : Nat} {bs : List Byte} (h : Evolves d₀ d) :
    Evolves d₀ (d.putCurrent x o off g bs) := by
  unfold Dev.putCurrent
  split
  · split
    · exact h.modCore
    · exact h
  · split
    · exact h
    · exact .foldlOn Prod.fst h.fst fun _ _ h => h.store.fst

theorem clearDirty {x : Nat} (h : Evolves d₀ d) : Evolves d₀ (d.clearDirty x).2 := h.modCtx.snd

theorem wipeLog {o : Obj} (h : Evolves d₀ d) : Evolves d₀ (d.wipeLog o) :=
  .foldl (h.foldl (fun _ _ h => h.hbmClear.stackWrite)) fun _ _ h => h.store

theorem clearLogs {x : Nat} (h : Evolves d₀ d) : Evolves d₀ (d.clearLogs x).2 :=
  .snd (h.foldl (fun _ _ h => h.wipeLog.setObj))

theorem writeImage {x : Nat} {i : CkptImage} (h : Evolves d₀ d) : Evolves d₀ (d.writeImage x i) := by
  unfold Dev.writeImage
  refine h.clearDirty.clearLogs.foldl fun _ _ h => ?_
  split
  · exact h.putCurrent
  · exact h

theorem atGyle {x gyle : Nat} {seeds : List W64} {proof : W32 × W64} (h : Evolves d₀ d) :
    Evolves d₀ (d.atGyle x gyle seeds proof) :=
  h.modCtx.modResil.count

theorem restoreFailed {x : Nat} {hd : CmdHdr} {st : W16} (h : Evolves d₀ d) : Evolves d₀ (d.restoreFailed x hd st) :=
  h.count.errFire.modGyle.complete

theorem finishRestore {x : Nat} {r : RestoreReq} {i : Option CkptImage} (h : Evolves d₀ d) :
    Evolves d₀ (d.finishRestore x r i) := by
  unfold Dev.finishRestore
  dsimp only
  split
  · exact h.modResil.restoreFailed
  · exact .ite h.modResil.restoreFailed h.modResil.writeImage.atGyle.complete

theorem sendCask {x op version offset bytes : Nat} {data : List Byte} (h : Evolves d₀ d) :
    Evolves d₀ (d.sendCask x op version offset bytes data) :=
  h.sendTracked

theorem readOn {x : Nat} {r : CaskReading} (h : Evolves d₀ d) : Evolves d₀ (d.readOn x r) := h.modResil.sendCask

theorem startReading {x version : Nat} (h : Evolves d₀ d) : Evolves d₀ (d.startReading x version) := h.readOn

theorem rackFailed {x : Nat} {k : Rack} {st : W16} (h : Evolves d₀ d) : Evolves d₀ (d.rackFailed x k st) :=
  h.modResil.errFire.modGyle.complete

theorem heldReads {s : CaskSlot} {older : Bool} {off n : Nat} (h : Evolves d₀ d) :
    Evolves d₀ (d.heldReads s older off n) :=
  h.foldl fun _ _ h => h.placeRead

theorem sendRange {x : Nat} {e : PlanEntry} {data : List Byte} (h : Evolves d₀ d) :
    Evolves d₀ (d.sendRange x e data) := by
  unfold Dev.sendRange
  refine h.foldl fun _ _ h => ?_
  dsimp only
  split
  · exact h.drew.sendTracked
  · exact h.sendTracked

theorem rackSends {x : Nat} {k : Rack} {own : CkptImage} {es : List PlanEntry} (h : Evolves d₀ d) :
    Evolves d₀ (d.rackSends x k own es).2 := by
  induction es generalizing d with
  | nil => exact h
  | cons e es ih =>
    refine .iteOn Prod.snd (ih h) ?_
    dsimp only
    split
    · exact h
    · refine .iteOn Prod.snd h (.iteOn Prod.snd h ?_)
      split
      · exact h
      · exact .iteOn Prod.snd h (ih h.drew.sendRange)

theorem rackWith {x : Nat} {k : Rack} {i : Option CkptImage} (h : Evolves d₀ d) : Evolves d₀ (d.rackWith x k i) := by
  unfold Dev.rackWith
  extract_lets d₁ st
  have h₁ : Evolves d₀ d₁ := h.modResil
  split
  · exact h₁.rackFailed
  · exact h₁.rackFailed
  · refine .ite h₁.rackFailed (.ite h₁.count.errFire.rackFailed (.ite h₁.rackFailed ?_))
    extract_lets k d₂ s
    have hs : Evolves d₀ s.2 := h₁.writeImage.modResil.rackSends
    exact .ite hs hs.rackFailed

theorem resumeRestore {x : Nat} (h : Evolves d₀ d) : Evolves d₀ (d.resumeRestore x) := by
  unfold Dev.resumeRestore
  refine .ite h ?_
  split
  · exact .ite h.startReading (.ite h.finishRestore h.drew.finishRestore)
  · exact .ite h.modGyle.startReading (.ite h.modGyle.rackWith h.modGyle.drew.rackWith)
  · exact h

theorem readDone {x : Nat} {r : CaskReading} (h : Evolves d₀ d) : Evolves d₀ (d.readDone x r) := by
  unfold Dev.readDone
  dsimp only
  split
  · exact h.finishRestore
  · exact .ite h.startReading h.rackWith
  · exact h

theorem readRefused {x : Nat} {r : CaskReading} (h : Evolves d₀ d) : Evolves d₀ (d.readRefused x r) := by
  unfold Dev.readRefused
  dsimp only
  split
  · exact h.finishRestore
  · exact .ite h.startReading h.rackWith
  · exact h

/-! ### Machine/Sched -/

theorem takeSwap {x n : Nat} {t : Dev} (h : Evolves d₀ d) (e : d.takeSwap x n = some t) : Evolves d₀ t := by
  unfold Dev.takeSwap at e
  dsimp only at e
  split at e
  · cases e
  · cases e
    exact h.drew.withSwapUsed

theorem keepSwap {x n : Nat} (h : Evolves d₀ d) : Evolves d₀ (d.keepSwap x n) := h.withSwapUsed.freeFrameList

theorem lockWays {x k : Nat} (h : Evolves d₀ d) : Evolves d₀ (d.lockWays x k) := h.drew.modCluster

theorem installOn {x k : Nat} {qs : List WQueue} {ss : List GStream} (h : Evolves d₀ d) :
    Evolves d₀ (d.installOn x k qs ss) :=
  h.modCluster.lockWays

theorem fillGrant {core base bytes : Nat} {parts : List (Nat × List Byte)} (h : Evolves d₀ d) :
    Evolves d₀ (d.fillGrant core base bytes parts) :=
  h.modCore

theorem placeNear {x : Nat} (h : Evolves d₀ d) : Evolves d₀ (d.placeNear x) := by
  unfold Dev.placeNear
  refine .modCtx (h.foldl fun _ _ h => ?_)
  split
  · exact h
  · next e =>
    obtain ⟨o, -, ho⟩ := Option.bind_eq_some_iff.mp e
    exact (h.objFrames ho).setObj.remap.completeOpt

theorem takePlaces {x : Nat} {m : List (Nat × Nat)} {ps : List TaskPlace} (h : Evolves d₀ d) :
    Evolves d₀ (d.takePlaces x m ps) := by
  unfold Dev.takePlaces
  extract_lets c fresh need d₁ d₂ d₃
  have h₃ : Evolves d₀ d₃ := .foldl (.modCtx (.getD h fun _ e => h.drew.takeSwap e)) fun _ _ h => h.installOn
  refine .ite h₃.modCtx (.resumeRestore (.setState (.placeNear (.modCtx (h₃.foldl fun _ _ h => ?_)))))
  split
  · exact h
  · exact h.fillGrant

theorem dropPlaces {x : Nat} (h : Evolves d₀ d) : Evolves d₀ (d.dropPlaces x) :=
  .withClusters (.modCtx (.ite h h.modCtx))

theorem runTask {x : Nat} {p : TaskPlace} (h : Evolves d₀ d) : Evolves d₀ (d.runTask x p) := by
  unfold Dev.runTask
  dsimp only
  split
  · exact h
  · exact h.modCore.modCtx

theorem requestSplit {cores : List (Nat × Nat)} (h : Evolves d₀ d) : Evolves d₀ (d.requestSplit cores) :=
  .ite h (.requestApply (h.ownGen.foldl (fun _ _ h => h.openGen.stageValue)))

theorem runCtx {x : Nat} (h : Evolves d₀ d) : Evolves d₀ (d.runCtx x) :=
  .setState (.modCtx (.foldl (h.foldl (fun _ _ h => h.lockWays)) (fun _ _ h => h.runTask)))

theorem tryRun {x : Nat} (h : Evolves d₀ d) : Evolves d₀ (d.tryRun x) :=
  .ite h (.ite (.ite h.runCtx h.requestSplit) (.ite (h.foldl (fun _ _ h => h.preemptCtx)) h))

theorem evict {v : Nat} (h : Evolves d₀ d) : Evolves d₀ (d.evict v) := .ite h.modCtx h.preemptCtx

theorem makeRoom {x : Nat} (h : Evolves d₀ d) : Evolves d₀ (d.makeRoom x) := by
  unfold Dev.makeRoom
  refine .ite (.ite h h.modCtx.ctxEvent) (.ite h ?_)
  split
  · exact h.evict
  · exact h

theorem overQuota {x : Nat} (h : Evolves d₀ d) : Evolves d₀ (d.overQuota x) := .ite h h.modCtx.ctxEvent

theorem tryPlace {x : Nat} (h : Evolves d₀ d) : Evolves d₀ (d.tryPlace x) := by
  unfold Dev.tryPlace
  refine .ite h.overQuota ?_
  split
  · exact h.takePlaces
  · exact h.makeRoom

theorem serve {p : Served} {x : Nat} (h : Evolves d₀ p.dev) : Evolves d₀ (Dev.serve p x).dev := by
  unfold Dev.serve
  extract_lets d₁ d₂ c p₂ d₃
  have h₂ : Evolves d₀ d₂ := .ite h h.tryPlace
  exact .iteOn Served.dev h₂ (.iteOn Served.dev h₂ h₂.tryRun)

theorem schedule (h : Evolves d₀ d) : Evolves d₀ d.schedule :=
  .ite h (.count (.foldlOn Served.dev h.noteEvent.served (fun _ _ h => h.serve)))

theorem checkBlocked {x : Nat} (h : Evolves d₀ d) : Evolves d₀ (d.checkBlocked x) := .ite h.setState.schedule h

theorem remoteArrive {x task sem n : Nat} (h : Evolves d₀ d) : Evolves d₀ (d.remoteArrive x task sem n) := by
  unfold Dev.remoteArrive
  extract_lets _ _ d₁
  have h₁ : Evolves d₀ d₁ := by
    unfold d₁
    split
    · exact h.noteEvent.taskSem
    · exact h.noteEvent.savedSem
  exact .schedule (.ite h₁.setState h₁)

theorem clearSlot {core : Nat} {t : SlotIx} (h : Evolves d₀ d) : Evolves d₀ (d.clearSlot core t) := h.modCore.withMoves

theorem leaveCluster {x j : Nat} (h : Evolves d₀ d) : Evolves d₀ (d.leaveCluster x j) := .ite h h.modCluster

theorem allYielded {x : Nat} (h : Evolves d₀ d) : Evolves d₀ (d.allYielded x) := .ite h.modCtx.setState h.modCtx

theorem slotYield {core : Nat} {t : SlotIx} (h : Evolves d₀ d) : Evolves d₀ (slotYieldEff core t d) :=
  .ite h (.schedule (.ite h.returnAll.modCtx.clearSlot.modSlot.leaveCluster.modCore.count.noteEvent.raise.allYielded
    h.returnAll.modCtx.clearSlot.modSlot.leaveCluster.modCore.count.noteEvent.raise))

theorem preemptRequest {core x : Nat} (h : Evolves d₀ d) : Evolves d₀ (preemptRequestEff core x d) :=
  .ite h (h.foldl (fun _ _ h => .ite h.modSlot h))

theorem preemptOverrun {core : Nat} {t : SlotIx} (h : Evolves d₀ d) : Evolves d₀ (preemptOverrunEff core t d) :=
  .ite h h.modSlot.abortCause.modCtx.errFire.count.ctxEvent

theorem contextTableBad {x : Nat} (h : Evolves d₀ d) : Evolves d₀ (d.contextTableBad x) := h.errFire.deviceError

theorem quantumExpiry {x : Nat} {tableBad : Bool} (h : Evolves d₀ d) : Evolves d₀ (quantumExpiryEff x tableBad d) :=
  .ite h.contextTableBad (.ite h.modCtx.schedule h)

theorem swapOutComplete {x : Nat} (h : Evolves d₀ d) : Evolves d₀ (swapOutCompleteEff x d) := by
  unfold swapOutCompleteEff
  refine .ite h ?_
  dsimp only
  split
  · exact h.modCtx.errFire.ctxEvent.schedule
  · next d₁ e =>
    have h₁ : Evolves d₀ d₁ := by
      split at e
      · split at e
        · cases e
          exact h.hostCut.keepSwap
        · cases e
      · exact h.takeSwap e
    exact h₁.dropPlaces.modCtx.setState.count.schedule

theorem swapInComplete {x : Nat} (h : Evolves d₀ d) : Evolves d₀ (swapInCompleteEff x d) := by
  unfold swapInCompleteEff
  refine .ite h (.schedule (.resumeRestore (.count (.setState (.modCtx (.keepSwap (h.foldl (fun _ _ h => ?_))))))))
  split
  · exact h.modCore
  · exact h

/-! ### Machine/ApplyUnit -/

theorem clearPage {base : Nat} (h : Evolves d₀ d) : Evolves d₀ (d.clearPage base) :=
  h.withApply.rsetNat.rsetNat.stageEvent

theorem namePage {gen : Nat} {reverted : Bool} {base : Nat} (h : Evolves d₀ d) :
    Evolves d₀ (d.namePage gen reverted base) :=
  h.rsetNat

theorem closeGen {gen : Nat} (h : Evolves d₀ d) : Evolves d₀ (d.closeGen gen) := h.withApply

theorem applyRequest {gen : Nat} (h : Evolves d₀ d) : Evolves d₀ (applyRequestEff gen d) :=
  .ite (h.atBlock (fun _ h => h.requestApply)) h

theorem discardGen {gen : Nat} (h : Evolves d₀ d) : Evolves d₀ (d.discardGen gen) :=
  .ite h (.closeGen (h.foldl (fun _ _ h => h.clearPage)))

theorem applyDiscard {gen : Nat} (h : Evolves d₀ d) : Evolves d₀ (applyDiscardEff gen d) :=
  .ite (h.atBlock (fun _ h => h.discardGen)) h

theorem applyRevert {gen : Nat} {status : W16} {fail : Option Nat} (h : Evolves d₀ d) :
    Evolves d₀ (d.applyRevert gen status fail) := by
  unfold Dev.applyRevert
  refine .applyResult (.errFire ?_)
  split
  · exact .rsetNat (.count (.closeGen (h.withApply.foldl (fun _ _ h => h.clearPage.namePage))))
  · exact .count (.closeGen (h.withApply.foldl (fun _ _ h => h.clearPage.namePage)))

theorem applyTake (h : Evolves d₀ d) : Evolves d₀ (applyTakeEff d) := by
  unfold applyTakeEff
  split
  · exact .ite (.applyRevert (.ite (.errFire (h.withApply.foldl (fun _ _ h => h.setPageState.stageEvent)))
      (h.withApply.foldl (fun _ _ h => h.setPageState.stageEvent))))
      (.withApply (h.withApply.foldl (fun _ _ h => h.setPageState.stageEvent)))
  · exact h

theorem setRun {r : ApplyRun} (h : Evolves d₀ d) : Evolves d₀ (d.setRun r) := h.withApply

theorem holdSlots {hold : Bool} {core : Nat} (h : Evolves d₀ d) : Evolves d₀ (d.holdSlots hold core) :=
  h.modSlot.modSlot

theorem applyPrepare {isl : Nat} (h : Evolves d₀ d) : Evolves d₀ (applyPrepareEff isl d) := by
  unfold applyPrepareEff
  split
  · exact h
  · exact .ite h (.setRun (h.carry.foldl (fun _ _ h => h.holdSlots)))

theorem applyCommit {r : ApplyRun} (h : Evolves d₀ d) : Evolves d₀ (d.applyCommit r) := h.rsetNat.noteEvent.count.setRun

theorem applyReady {isl : Nat} (h : Evolves d₀ d) : Evolves d₀ (applyReadyEff isl d) := by
  unfold applyReadyEff
  split
  · exact h
  · exact .ite h (.ite (.applyCommit (h.carry.foldl (fun _ _ h => h.modCore)))
      (.setRun (h.carry.foldl (fun _ _ h => h.modCore))))

theorem putWord {w : Nat × Nat} (h : Evolves d₀ d) : Evolves d₀ (d.putWord w) := h.rsetNat.withMirror

theorem putEntry {e : StagedEntry} (h : Evolves d₀ d) : Evolves d₀ (d.putEntry e) := by
  unfold Dev.putEntry
  dsimp only
  split
  · exact h.modCell
  · exact h.modCell
  · exact h.setBinding
  · split
    · exact h
    · exact h.modCtx

theorem markStale {core : Nat} (h : Evolves d₀ d) : Evolves d₀ (d.markStale core) := by
  unfold Dev.markStale
  refine h.foldl fun _ _ h => ?_
  dsimp only
  split
  · exact .ite h.modCtx h
  · exact h

theorem endHold {isl : Nat} (h : Evolves d₀ d) : Evolves d₀ (d.endHold isl) :=
  .withCtxs (h.foldl (fun _ _ h => h.holdSlots))

theorem applySwap {isl : Nat} (h : Evolves d₀ d) : Evolves d₀ (applySwapEff isl d) := by
  unfold applySwapEff
  split
  · exact h
  · exact .ite h (.setRun (.count (.endHold (.foldl
      (.foldl (.foldl (h.carry.foldl (fun _ _ h => h.putWord)) (fun _ _ h => h.putEntry)) (fun _ _ h => h.markStale))
      (fun _ _ h => h.modCore)))))

theorem applyComplete {r : ApplyRun} (h : Evolves d₀ d) : Evolves d₀ (d.applyComplete r) :=
  .schedule (.applyResult (.raise (.closeGen (h.withApply.foldl (fun _ _ h => h.clearPage.namePage)))))

theorem applyDone {isl : Nat} (h : Evolves d₀ d) : Evolves d₀ (applyDoneEff isl d) := by
  unfold applyDoneEff
  split
  · exact h
  · exact .ite h (.ite h.carry.applyComplete h.carry.setRun)

theorem drainTimeout {isl : Nat} (h : Evolves d₀ d) : Evolves d₀ (drainTimeoutEff isl d) := by
  unfold drainTimeoutEff
  split
  · exact h
  · exact .ite h h.setRun

theorem drainFail {isl : Nat} (h : Evolves d₀ d) : Evolves d₀ (drainFailEff isl d) := by
  unfold drainFailEff
  split
  · exact h
  · exact .ite h h.carry.count.applyRevert

theorem applyTimeout (h : Evolves d₀ d) : Evolves d₀ (applyTimeoutEff d) := by
  unfold applyTimeoutEff
  split
  · exact h
  · exact .ite h h.applyRevert

theorem applyAbort {isl : Nat} (h : Evolves d₀ d) : Evolves d₀ (applyAbortEff isl d) :=
  .ite h (.endHold (h.carry.withApply.foldl (fun _ _ h => h.modCore)))

theorem applyLost {isl : Nat} (h : Evolves d₀ d) : Evolves d₀ (d.applyLost isl) := by
  unfold Dev.applyLost
  split
  · exact h
  · exact .ite h h.withApply.rsetNat.errFire.applyResult

/-! ### Machine/Windows -/

theorem winOpen {hd : CmdHdr} {b : WinBody} (h : Evolves d₀ d) : Evolves d₀ (winOpenEff hd b d) :=
  h.liveCmd fun _ h => .ite h.complete (.ite h.complete (.ite h.complete h.drew.setWindow.complete))

theorem winClose {hd : CmdHdr} {window : Nat} (h : Evolves d₀ d) : Evolves d₀ (winCloseEff hd window d) :=
  h.liveCmd fun _ h => .ite h.complete h.setWindow

theorem windowCloseDrained {n : Nat} (h : Evolves d₀ d) : Evolves d₀ (windowCloseDrainedEff n d) :=
  .ite h h.setWindow.completeOpt

theorem spillRedirect {n : Nat} (h : Evolves d₀ d) : Evolves d₀ (spillRedirectEff n d) := .ite h h.noteEvent.setWindow

theorem grantPut {x task off : Nat} {bs : List Byte} (h : Evolves d₀ d) : Evolves d₀ (d.grantPut x task off bs) := by
  unfold Dev.grantPut
  split
  · exact h.modCore
  · exact h

theorem copyIn {n : Nat} (h : Evolves d₀ d) : Evolves d₀ (copyInEff n d) :=
  .ite h (.setWindow (.noteEvent (.ctxWrite (h.foldl (fun _ _ h => .ite h.grantPut h)))))

theorem markSpill {x : Nat} {b : WinBody} {off n : Nat} (h : Evolves d₀ d) : Evolves d₀ (d.markSpill x b off n) :=
  h.foldl fun _ _ h => h.ctxWrite

theorem performWrite {w : Window} {off : Nat} {bs : List Byte} (h : Evolves d₀ d) :
    Evolves d₀ (d.performWrite w off bs).2 :=
  .iteOn Prod.snd h.ctxWrite (.iteOn Prod.snd (.iteOn Prod.snd h.ctxWrite.markSpill.snd h.ctxWrite) h.grantPut.snd)

theorem refuseWrite {p : Nat} {hd : MsgHdr} {st : W16} (h : Evolves d₀ d) : Evolves d₀ (d.refuseWrite p hd st) :=
  h.sendNack.count

theorem doWrite {p : Nat} {m : RxMsg} (h : Evolves d₀ d) : Evolves d₀ (d.doWrite p m) :=
  .ite h.refuseWrite (.ite h.performWrite.refuseWrite
    (.sendWack (.ite h.performWrite.noteEvent.remoteArrive h.performWrite.noteEvent)))

theorem write {p : Nat} (h : Evolves d₀ d) : Evolves d₀ (writeEff p d) := by
  unfold writeEff
  split
  · exact h
  · exact .ite h (.ite h.popMsg.carry.refuseWrite (.ite
      (.ite h.popMsg.carry.modPort (.ite h.popMsg.carry.refuseWrite h)) h.popMsg.carry.doWrite))

theorem abandonColls {x : Nat} (h : Evolves d₀ d) : Evolves d₀ (d.abandonColls x) := h.withChans

theorem layoutSet {hd : CmdHdr} {epoch : W16} {flags : Byte} (h : Evolves d₀ d) :
    Evolves d₀ (layoutSetEff hd epoch flags d) :=
  h.liveCmd fun _ h => .ite h.complete (.ite h.complete (.complete (.modGyle (.ite h.abortOpen.abandonColls h))))

/-! ### Machine/Collectives -/

theorem semTake {x task sem n : Nat} (h : Evolves d₀ d) : Evolves d₀ (d.semTake x task sem n) := by
  unfold Dev.semTake
  split
  · exact h.modSlot
  · exact h.modCtx

theorem semDone {x task sem : Nat} (h : Evolves d₀ d) : Evolves d₀ (d.semDone x task sem) := by
  unfold Dev.semDone
  split
  · exact h.semUp
  · exact h.savedSem

theorem taskStop {x task : Nat} {status : W16} (h : Evolves d₀ d) : Evolves d₀ (d.taskStop x task status) := by
  unfold Dev.taskStop
  split
  · exact h.taskFail
  · exact h.abortCause.modCtx

theorem sendPieces {x id : Nat} {b data : List Byte} (h : Evolves d₀ d) : Evolves d₀ (d.sendPieces x id b data) :=
  h.foldl fun _ _ h => h.sendTracked

theorem fireSend {x : Nat} {b : List Byte} (h : Evolves d₀ d) : Evolves d₀ (d.fireSend x b) :=
  .ite h.taskStop h.modCtx.sendPieces

theorem sendFire {core : Nat} {t : SlotIx} {sem : Nat} (h : Evolves d₀ d) : Evolves d₀ (sendFireEff core t sem d) := by
  unfold sendFireEff
  refine .ite h ?_
  dsimp only
  split
  · exact h.semTake.taskFail
  · exact .ite h (h.semTake.foldl (fun _ _ h => h.fireSend))

theorem sendFail {x id : Nat} {status : W16} (h : Evolves d₀ d) : Evolves d₀ (d.sendFail x id status) := by
  unfold Dev.sendFail
  split
  · exact h
  · exact h.modCtx.taskStop

theorem sendCheck {x id : Nat} (h : Evolves d₀ d) : Evolves d₀ (d.sendCheck x id) := by
  unfold Dev.sendCheck
  dsimp only
  split
  · exact h
  · refine .ite h ?_
    split
    · exact h.modCtx.semDone
    · exact h.modCtx

theorem sendResend {x : Nat} {tag : W32} (h : Evolves d₀ d) : Evolves d₀ (sendResendEff x tag d) := by
  unfold sendResendEff
  split
  · exact h
  · exact h.modCtx.sendMsg

theorem writeTimeout {x : Nat} {tag : W32} (h : Evolves d₀ d) : Evolves d₀ (writeTimeoutEff x tag d) := by
  unfold writeTimeoutEff
  split
  · exact h
  · split
    · exact h.sendFail
    · exact h

theorem modRun {c : Nat} {f : CollRun → CollRun} (h : Evolves d₀ d) : Evolves d₀ (d.modRun c f) := h.setChan

theorem modStep {c i : Nat} {f : CollStep → CollStep} (h : Evolves d₀ d) : Evolves d₀ (d.modStep c i f) := h.modRun

theorem sendCts {c i : Nat} {r : CollRun} {s : CollStep} (h : Evolves d₀ d) : Evolves d₀ (d.sendCts c i r s) :=
  h.modCtx.sendMsg.modStep

theorem sendColl {c i : Nat} {r : CollRun} {s : CollStep} (h : Evolves d₀ d) : Evolves d₀ (d.sendColl c i r s) :=
  .modStep (h.foldl (fun _ _ h => h.sendTracked))

theorem stepGo {c i : Nat} (h : Evolves d₀ d) : Evolves d₀ (d.stepGo c i) := by
  unfold Dev.stepGo
  split
  · exact h
  · split
    · exact h
    · exact .ite (.ite h h.sendCts) (.ite h h.semTake.modRun.sendColl)

theorem stepsDone {c : Nat} (h : Evolves d₀ d) : Evolves d₀ (d.stepsDone c) := h.modRun

theorem collGo {c : Nat} (h : Evolves d₀ d) : Evolves d₀ (d.collGo c) := by
  unfold Dev.collGo
  split
  · exact h
  · refine .ite h ?_
    dsimp only
    split
    · exact h.stepsDone.foldl fun _ _ h => h.stepGo
    · exact .ite (.remoteArrive (.count (.setChan (h.stepsDone.foldl (fun _ _ h => h.stepGo)))))
        (h.stepsDone.foldl (fun _ _ h => h.stepGo))

theorem collPoll (h : Evolves d₀ d) : Evolves d₀ d.collPoll := h.foldl fun _ _ h => h.collGo

theorem collFail {c : Nat} {status : W16} {source : W32} (h : Evolves d₀ d) :
    Evolves d₀ (d.collFail c status source) := by
  unfold Dev.collFail
  split
  · exact h
  · exact .ite h h.modRun.modCtx.abortCause.taskStop

theorem collExpires {c : Nat} {r : CollRun} (h : Evolves d₀ d) : Evolves d₀ (d.collExpires c r) := h.collFail.count

theorem collArrives {c : Nat} (h : Evolves d₀ d) : Evolves d₀ (d.collArrives c) := by
  unfold Dev.collArrives
  split
  · exact h
  · exact .ite h (.ite h.collExpires h.count)

theorem startColl {x : Nat} {recs : List (List Byte)} {b : List Byte} (h : Evolves d₀ d) :
    Evolves d₀ (d.startColl x recs b) := by
  unfold Dev.startColl
  refine .ite h.taskStop ?_
  split
  · exact h
  · exact h.noteEvent.setChan.grantPut.remoteArrive.collGo

theorem collectiveStart {core : Nat} {t : SlotIx} {sem : Nat} (h : Evolves d₀ d) :
    Evolves d₀ (collectiveStartEff core t sem d) := by
  unfold collectiveStartEff
  refine .ite h (.ite h.semTake.taskFail ?_)
  dsimp only
  split
  · exact h
  · exact .ite h h.modCtx.semTake.startColl

theorem collDeadline {c : Nat} (h : Evolves d₀ d) : Evolves d₀ (collDeadlineEff c d) := by
  unfold collDeadlineEff
  split
  · exact h
  · exact .ite h h.collExpires

theorem nackStale {p : Nat} {hd : MsgHdr} (h : Evolves d₀ d) : Evolves d₀ (d.nackStale p hd) := h.count.sendNack

theorem landColl {p : Nat} {m : RxMsg} (h : Evolves d₀ d) : Evolves d₀ (d.landColl p m) := by
  unfold Dev.landColl
  refine .ite h.nackStale (.ite (.sendNack (.ite h.collArrives h)) ?_)
  split
  · exact .ite h.collArrives h
  · exact .collGo (.ite (.remoteArrive (.sendWack (.noteEvent (.modStep (.grantPut (.ite h.collArrives h))))))
      (.sendWack (.noteEvent (.modStep (.grantPut (.ite h.collArrives h))))))

theorem collData {p : Nat} (h : Evolves d₀ d) : Evolves d₀ (collDataEff p d) := by
  unfold collDataEff
  split
  · exact h
  · exact .ite (.ite h.popMsg.modPort h) h.popMsg.landColl

theorem collCts {p : Nat} (h : Evolves d₀ d) : Evolves d₀ (collCtsEff p d) := by
  unfold collCtsEff
  split
  · exact h
  · refine .ite h.popMsg.nackStale (.ite h.popMsg ?_)
    split
    · exact .ite (.ite h.popMsg.sendNack h.popMsg.modRun.collGo) (.ite h.popMsg.setChan h.popMsg)
    · exact .ite h.popMsg.setChan h.popMsg

theorem heldWriteRelease {p : Nat} (h : Evolves d₀ d) : Evolves d₀ (heldWriteReleaseEff p d) := by
  unfold heldWriteReleaseEff
  split
  · exact h
  · exact .ite h.modPort.doWrite h.modPort.landColl

/-! ### Machine/Contexts -/

theorem fnAssign {hd : CmdHdr} {ctx fn : W16} (h : Evolves d₀ d) : Evolves d₀ (fnAssignEff hd ctx fn d) :=
  h.adminCmd fun _ h => .ite h.complete (.ite h.complete (.ite h.complete h.modCtx.complete))

theorem takeTable {x : Nat} (h : Evolves d₀ d) : Evolves d₀ (d.takeTable x).2 := by
  unfold Dev.takeTable
  refine .iteOn Prod.snd h.snd ?_
  split
  · exact h.snd
  · next _ e =>
      exact (h.takeFrames e).modCtx.snd

theorem allocList {x at_ : Nat} {bounds : List Nat} {es : List AllocEntry} (h : Evolves d₀ d) :
    Evolves d₀ (d.allocList x bounds es at_).2 := by
  induction es generalizing d at_ with
  | nil => exact h
  | cons e es ih => exact .iteOn Prod.snd h (ih h.allocate)

theorem loadImage {x : Nat} {i : Image} (h : Evolves d₀ d) : Evolves d₀ (d.loadImage x i).2 := by
  unfold Dev.loadImage
  extract_lets emuOne st d₁ t a d₂ c g
  have h₁ : Evolves d₀ d₁ := h.modCtx
  clear_value st d₁
  have ht : Evolves d₀ t.2 := h₁.takeTable
  clear_value t
  have ha : Evolves d₀ a.2 := ht.allocList
  clear_value a
  exact .iteOn Prod.snd h (.iteOn Prod.snd h₁ (.iteOn Prod.snd ha (.iteOn Prod.snd ha (.iteOn Prod.snd ha
    (.iteOn Prod.snd ha ha)))))

theorem ctxLoad {hd : CmdHdr} {i : Image} (h : Evolves d₀ d) : Evolves d₀ (ctxLoadEff hd i d) :=
  h.ctxCmd fun _ h => .ite h.complete (.ite h.complete (.ite h.complete h.loadImage.drew.modCtx.setState.complete))

theorem endCmds {x : Nat} {status : W16} (h : Evolves d₀ d) : Evolves d₀ (d.endCmds x status) :=
  .withHost (.foldl (h.completeOpt.completeOpt.completeOpt.foldl (fun _ _ h => h.completeOpt))
    (fun _ _ h => h.complete))

theorem releaseAll {x : Nat} (h : Evolves d₀ d) : Evolves d₀ (d.releaseAll x) := by
  unfold Dev.releaseAll
  refine h.modCtx.foldl fun _ _ h => ?_
  split
  · exact h.releaseHold
  · exact h

theorem closeWindowsOf {x : Nat} (h : Evolves d₀ d) : Evolves d₀ (d.closeWindowsOf x) := h.withWindows

theorem dropTraffic {x : Nat} (h : Evolves d₀ d) : Evolves d₀ (d.dropTraffic x) := h.modCtx.withChans

theorem endSlots {x : Nat} (h : Evolves d₀ d) : Evolves d₀ (d.endSlots x) := h.foldl fun _ _ h => h.modSlot

theorem endCtx {x : Nat} {status : W16} {next : CtxState} (h : Evolves d₀ d) : Evolves d₀ (d.endCtx x status next) :=
  h.endCmds.closeWindowsOf.releaseAll.endSlots.dropTraffic.modCtx.setState

theorem kill {x : Nat} {cmd : Option CmdHdr} (h : Evolves d₀ d) : Evolves d₀ (d.kill x cmd) :=
  .ite h (.count (.modCtx (.endCtx (.ite h.abortCause h.abortCause.castVote))))

theorem ctxKill {hd : CmdHdr} (h : Evolves d₀ d) : Evolves d₀ (ctxKillEff hd d) := h.liveCmd fun _ h => h.kill

theorem tasksStopped {x : Nat} (h : Evolves d₀ d) : Evolves d₀ (tasksStoppedEff x d) := .ite h.setState.schedule h

theorem scrubPlace {x : Nat} {p : TaskPlace} (h : Evolves d₀ d) : Evolves d₀ (d.scrubPlace x p) :=
  .fillGrant (.ite h.clearSlot h)

theorem freeCtx {x : Nat} (h : Evolves d₀ d) : Evolves d₀ (d.freeCtx x) :=
  .completeOpt (.completeOpt (.setState (.setCtx (.withChans
    (.dropXlate (.freeFrameList (.keepSwap (.dropPlaces (h.foldl (fun _ _ h => h.scrubPlace))))))))))

theorem spargeComplete {x : Nat} (h : Evolves d₀ d) : Evolves d₀ (spargeCompleteEff x d) := .ite h.freeCtx.schedule h

theorem ctxUnload {hd : CmdHdr} (h : Evolves d₀ d) : Evolves d₀ (ctxUnloadEff hd d) :=
  h.liveCmd fun _ h => .ite h.complete (.ite h.endCtx.modCtx.freeCtx h.endCtx.modCtx)

theorem ctxResume {hd : CmdHdr} (h : Evolves d₀ d) : Evolves d₀ (ctxResumeEff hd d) :=
  h.liveCmd fun _ h => .ite h.modCtx.complete h.complete

theorem grantChans {x mask : Nat} (h : Evolves d₀ d) : Evolves d₀ (d.grantChans x mask) :=
  h.foldl fun _ _ h => .ite (.ite h h.setChan) (.ite h.setChan h)

theorem ctxSet {hd : CmdHdr} {offset : W16} {value : List Byte} (h : Evolves d₀ d) :
    Evolves d₀ (ctxSetEff hd offset value d) :=
  h.ctxCmd fun _ h => .ite h.complete (.ite h.complete
    (.ite h.complete (.ite h.complete (.ite h.complete
    (.ite h.complete (.complete (.ite h.modCtx.grantChans h.modCtx)))))))

/-! ### Machine/Digest -/

theorem passSeen {isl : Nat} {good : Bool} (h : Evolves d₀ d) : Evolves d₀ (d.passSeen isl good) :=
  h.foldl fun _ _ h => h.modGyle

theorem digestFail {isl : Nat} {wrong : List (Option Nat)} (h : Evolves d₀ d) : Evolves d₀ (d.digestFail isl wrong) :=
  h.errFire.detect.foldl fun _ _ h => h.abortCause

theorem digestPass {isl : Nat} {flips : List (Nat × Byte)} (h : Evolves d₀ d) :
    Evolves d₀ (digestPassEff isl flips d) :=
  .ite h.count.passSeen h.count.passSeen.digestFail

/-! ### Machine/Casks -/

theorem takeSchedule {x n : Nat} (h : Evolves d₀ d) : Evolves d₀ (d.takeSchedule x n).2 :=
  .iteOn Prod.snd h.snd h.modResil.snd

theorem sendSched {c n : Nat} (h : Evolves d₀ d) : Evolves d₀ (d.sendSched c n) := by
  unfold Dev.sendSched
  refine h.foldl fun _ _ h => .ite h.takeSchedule ?_
  dsimp only
  split
  · exact h.drew.sendTracked
  · exact h

theorem recordReport {c : Nat} {who : Nat × Nat} {gyle cost : Nat} {sealed : Bool} (h : Evolves d₀ d) :
    Evolves d₀ (d.recordReport c who gyle cost sealed) :=
  .ite h.noteEvent.modResil h.noteEvent.modResil.drew.modResil.sendSched

theorem report {x gyle : Nat} {sealed : Bool} (h : Evolves d₀ d) : Evolves d₀ (d.report x gyle sealed) := by
  unfold Dev.report
  extract_lets _ _ _ d₁
  have h₁ : Evolves d₀ d₁ := .ite h h.count.ctxEvent
  refine .ite h₁.modResil (.ite (.ite h₁.recordReport ?_) (.ite h₁.ctxEvent h₁))
  split
  · exact h₁.drew.sendTracked
  · exact h₁

theorem newInterval {x : Nat} (h : Evolves d₀ d) : Evolves d₀ (d.newInterval x) := by
  unfold Dev.newInterval
  exact h.drew.modResil

theorem firstCask {x : Nat} (h : Evolves d₀ d) : Evolves d₀ (d.firstCask x) := .ite h.modResil h

/-! ### Machine/Gyles -/

theorem endRecords {x : Nat} {commit : Bool} {pages blocks : Nat} (h : Evolves d₀ d) :
    Evolves d₀ (d.endRecords x commit pages blocks).2 :=
  h.ringPut.ringPut.modCtx.snd

theorem resetQueues {x : Nat} (h : Evolves d₀ d) : Evolves d₀ (d.resetQueues x) := h.modCtx.withClusters

theorem startGyle {x : Nat} {replay : Bool} (h : Evolves d₀ d) : Evolves d₀ (d.startGyle x replay) :=
  .takeEarly (.resetQueues (.ite h.noteEvent.modGyle.modResil.modGyle.count h.noteEvent.modGyle.modResil.modGyle))

theorem startSlots {x : Nat} (h : Evolves d₀ d) : Evolves d₀ (d.startSlots x) := h.foldl fun _ _ h => h.modSlot

theorem reloadConfig {x : Nat} (h : Evolves d₀ d) : Evolves d₀ (d.reloadConfig x) := by
  unfold Dev.reloadConfig
  refine .withClusters (h.foldl (fun _ _ h => ?_))
  split
  · exact h
  · exact h.modSlot.modSlotCells.modCore

theorem startCells {x : Nat} (h : Evolves d₀ d) : Evolves d₀ (d.startCells x) :=
  h.foldl fun _ _ h => h.count.modSlotCells.modCore.withMoves

theorem startStreams {x : Nat} (h : Evolves d₀ d) : Evolves d₀ (d.startStreams x) := h.withClusters

theorem startCaches {x : Nat} (h : Evolves d₀ d) : Evolves d₀ (d.startCaches x) := by
  unfold Dev.startCaches
  refine h.foldl fun _ _ h => ?_
  split
  · exact h.withClusters
  · exact h

theorem startSettings {x : Nat} (h : Evolves d₀ d) : Evolves d₀ (d.startSettings x) := by
  unfold Dev.startSettings
  dsimp only
  split
  · exact h.modCtx.modResil.firstCask
  · exact h.modCtx

theorem startFabric {x : Nat} (h : Evolves d₀ d) : Evolves d₀ (d.startFabric x) := h.modCtx.withChans.withPorts.count

theorem startCapture {x : Nat} (h : Evolves d₀ d) : Evolves d₀ (d.startCapture x) :=
  .ite h (.ite h.modResil.count.report (.ite h.modResil.ctxEvent.report h.modResil.modResil))

theorem gyleStart {x : Nat} (h : Evolves d₀ d) : Evolves d₀ (gyleStartEff x d) := by
  refine .ite h (.startCapture (.modGyle (.foldl ?_ fun _ _ h => h.modSlot)))
  exact h.startSlots.startCells.startStreams.startCaches.startSettings.startFabric.reloadConfig

theorem captureComplete {x : Nat} (h : Evolves d₀ d) : Evolves d₀ (captureCompleteEff x d) :=
  .ite h h.captureImage.modResil

theorem sealCapture {x : Nat} (h : Evolves d₀ d) : Evolves d₀ (d.sealCapture x) :=
  .ite h h.sealImage.modResil.newInterval.report

theorem proofFails {x : Nat} (h : Evolves d₀ d) : Evolves d₀ (d.proofFails x) := h.abortCause.modGyle.count.errFire

theorem vote {x : Nat} (h : Evolves d₀ d) : Evolves d₀ (voteEff x d) :=
  .ite h (.ite h.castVote (.ite h (.ite h.modResil (.ite h.castVote h.proofFails.castVote))))

theorem gyleVote {p : Nat} (h : Evolves d₀ d) : Evolves d₀ (gyleVoteEff p d) := by
  unfold gyleVoteEff
  split
  · exact h
  · exact .ite h.popMsg h.popMsg.recordVote

theorem gyleDecideMessage {p : Nat} (h : Evolves d₀ d) : Evolves d₀ (gyleDecideMessageEff p d) := by
  unfold gyleDecideMessageEff
  split
  · exact h
  · exact .ite h.popMsg h.popMsg.decideHere

theorem voteDeadline {x : Nat} (h : Evolves d₀ d) : Evolves d₀ (voteDeadlineEff x d) := .ite h.expireVotes h

theorem decideTimeout {x : Nat} (h : Evolves d₀ d) : Evolves d₀ (decideTimeoutEff x d) :=
  .ite h.noteEvent.sendVote.errFire.ctxEvent h

theorem rewind {x : Nat} (h : Evolves d₀ d) : Evolves d₀ (d.rewind x) :=
  .ite (.setState (.modCtx (h.foldl (fun _ _ h => h.modSlot)))) (.modCtx (h.foldl (fun _ _ h => h.modSlot)))

theorem flipPages {x : Nat} (h : Evolves d₀ d) : Evolves d₀ (d.flipPages x).2 := h.modCtx.snd

theorem restoreLogs {x : Nat} (h : Evolves d₀ d) : Evolves d₀ (d.restoreLogs x).2 :=
  .clearLogs (h.foldl (fun _ _ h => h.foldl fun _ _ h => h.store))

theorem spoilSlots {x g : Nat} (h : Evolves d₀ d) : Evolves d₀ (d.spoilSlots x g) := by
  unfold Dev.spoilSlots
  refine h.foldl fun _ _ h => ?_
  split
  · exact h
  · dsimp only
    split
    · exact h.drew.modCore
    · exact h.drew.modCtx

theorem endStreams {x : Nat} (h : Evolves d₀ d) : Evolves d₀ (d.endStreams x) :=
  h.modCtx.foldl fun _ _ h => h.modCluster.count

theorem gyleCommitApply {x : Nat} (h : Evolves d₀ d) : Evolves d₀ (gyleCommitApplyEff x d) := by
  unfold gyleCommitApplyEff
  dsimp only
  split
  · refine .ite h (.schedule (.resumeRestore (.completeOpt (.rewind (.endStreams (.count ?_))))))
    exact h.noteEvent.flipPages.dropXlate.clearLogs.sealCapture.count.endRecords.modCtx.modResil.modGyle
  · exact h

theorem gyleAbortApply {x : Nat} (h : Evolves d₀ d) : Evolves d₀ (gyleAbortApplyEff x d) := by
  unfold gyleAbortApplyEff
  dsimp only
  split
  · refine .ite h (.ite (.schedule (.startGyle ?_)) (.schedule (.resumeRestore (.completeOpt (.modGyle ?_)))))
    all_goals
      refine .modGyle (.ctxEvent (.modCtx (.rewind (.endStreams (.count (.endRecords (.count ?_)))))))
      exact .spoilSlots (.restoreLogs (.clearDirty (h.noteEvent.foldl fun _ _ h => h.returnAll)))
  · exact h

theorem gyleCmd {hd : CmdHdr} {f : Dev → Dev} (h : Evolves d₀ d) (hf : ∀ d, Evolves d₀ d → Evolves d₀ (f d)) :
    Evolves d₀ (d.gyleCmd hd f) :=
  h.liveCmd fun _ h => .ite h.complete (hf _ h)

theorem gyleBegin {hd : CmdHdr} {gyle hostTime : W64} (h : Evolves d₀ d) :
    Evolves d₀ (gyleBeginEff hd gyle hostTime d) :=
  h.gyleCmd fun _ h => .ite h.complete (.ite h.complete (.ite h.complete (.ite h.complete h.modGyle.startGyle)))

theorem gyleAbort {hd : CmdHdr} {gyle : W64} (h : Evolves d₀ d) : Evolves d₀ (gyleAbortEff hd gyle d) :=
  h.gyleCmd fun _ h => .ite h.complete (.ite h.complete (.ite h.complete h.abortOpen.complete))

theorem hostDecides {x : Nat} {commit : Bool} {cause : Nat} (h : Evolves d₀ d) :
    Evolves d₀ (d.hostDecides x commit cause) :=
  h.drew.decideHere

theorem gyleDecide {hd : CmdHdr} {gyle : W64} {outcome : Byte} (h : Evolves d₀ d) :
    Evolves d₀ (gyleDecideEff hd gyle outcome d) :=
  h.gyleCmd fun _ h => .ite h.complete (.ite h.complete (.ite h.complete h.hostDecides.complete))

theorem gyleResolve {hd : CmdHdr} {gyle : W64} {outcome : Byte} (h : Evolves d₀ d) :
    Evolves d₀ (gyleResolveEff hd gyle outcome d) := by
  unfold gyleResolveEff
  refine h.gyleCmd fun _ h => .ite h.complete (.ite h.hostDecides.complete ?_)
  split
  · exact .ite (.ite h.complete h.errFire.complete) h.complete
  · exact .ite (.ite h.complete h.errFire.complete) h.complete
  · exact .ite (.ite h.complete h.errFire.complete) h.complete
  · exact .ite (.ite h.complete h.errFire.complete) h.complete
  · exact h.complete
  · exact h.complete
  · exact h.complete

theorem gyleReplay {hd : CmdHdr} (h : Evolves d₀ d) : Evolves d₀ (gyleReplayEff hd d) :=
  h.gyleCmd fun _ h => .ite h.complete h.modGyle.startGyle

/-! ### Machine/Power -/

theorem setFreq {die : Nat} (h : Evolves d₀ d) : Evolves d₀ (d.setFreq die) :=
  .ite (h.setDiePower.foldl (fun _ _ h => h.modIsland)) (.count (h.setDiePower.foldl (fun _ _ h => h.modIsland)))

theorem powerDie {exceeds : Bool} {die : Nat} {x : Nat × Nat} (h : Evolves d₀ d) :
    Evolves d₀ (d.powerDie exceeds die x) :=
  h.drew.setDiePower.setFreq.count.count.count

theorem capDuty {exceeds slowest : Bool} (h : Evolves d₀ d) : Evolves d₀ (d.capDuty exceeds slowest) :=
  .ite (.ite (.rsetNat (h.foldl (fun _ _ h => h.setDiePower)))
    (.errFire (.rsetNat (h.foldl (fun _ _ h => h.setDiePower))))) (.rsetNat (h.foldl (fun _ _ h => h.setDiePower)))

theorem powerTick {r : PowerReading} (h : Evolves d₀ d) : Evolves d₀ (powerTickEff r d) :=
  h.rsetNat.capDuty.foldl fun _ _ h => .ite h.powerDie h

theorem powerCap {watts : Nat} (h : Evolves d₀ d) : Evolves d₀ (powerCapEff watts d) := .ite h.rsetNat.withMirror h

theorem powerCapWrite {watts : Nat} (h : Evolves d₀ d) : Evolves d₀ (powerCapWriteEff watts d) :=
  h.atBlock fun _ h => h.powerCap

theorem vrRegulationTimeout {die : Nat} {retryFailed : Bool} (h : Evolves d₀ d) :
    Evolves d₀ (vrRegulationTimeoutEff die retryFailed d) :=
  .ite h.errFire.count.setDiePower.setFreq.drew.deviceError h.errFire.count.setDiePower.setFreq

theorem thermtrip {die sensor : Nat} (h : Evolves d₀ d) : Evolves d₀ (thermtripEff die sensor d) :=
  .errFire (h.withPins.foldl (fun _ _ h => h.modIsland))

theorem stackSample {die j temp : Nat} {ms1 : Bool} (h : Evolves d₀ d) : Evolves d₀ (d.stackSample die j temp ms1) := by
  unfold Dev.stackSample
  dsimp only
  split
  · exact h.rsetNat.setDiePower
  · exact h.rsetNat

theorem thermalSample {die : Nat} {t : DieTemps} {ms1 ms10 : Bool} (h : Evolves d₀ d) :
    Evolves d₀ (thermalSampleEff die t ms1 ms10 d) :=
  .ite (.thermtrip (.foldl (.ite h.errFire h) (fun _ _ h => h.stackSample)))
    (.setFreq (.setDiePower (.foldl (.ite h.errFire h) (fun _ _ h => h.stackSample))))

/-! ### Machine/Islands -/

theorem linkRetry {src dst : Nat} (h : Evolves d₀ d) : Evolves d₀ (d.linkRetry src dst) := h.drew.count.errFire.detect

theorem crossParity {core hub : Nat} (h : Evolves d₀ d) : Evolves d₀ (d.crossParity core hub) := h.drew.errFire

theorem badTransfer {src dst : Nat} (h : Evolves d₀ d) : Evolves d₀ (d.badTransfer src dst) :=
  .ite h.linkRetry (.ite h.crossParity (.ite h.crossParity h))

theorem crossingTransfer {src dst : Nat} {bad : Bool} (h : Evolves d₀ d) :
    Evolves d₀ (crossingTransferEff src dst bad d) :=
  .hop (.ite h.badTransfer h)

theorem sendPulse {src dst : Nat} (h : Evolves d₀ d) : Evolves d₀ (d.sendPulse src dst) := h.setCross.receive.stamp

theorem crossingEvent {src dst : Nat} (h : Evolves d₀ d) : Evolves d₀ (crossingEventEff src dst d) :=
  .ite h (.ite h.sendPulse (.ite h.count h.setCross))

theorem ackEvents (h : Evolves d₀ d) : Evolves d₀ d.ackEvents :=
  h.foldl fun _ _ h => .ite (.ite h.setCross.sendPulse h.setCross) h

theorem lostCrossing {src dst : Nat} (h : Evolves d₀ d) : Evolves d₀ (d.lostCrossing src dst) :=
  .deviceError (.applyLost (.applyLost (.ite h.drew.errFire.errFire.errFire h.drew.errFire.errFire)))

theorem flushLinks {a b : Nat} (h : Evolves d₀ d) : Evolves d₀ (d.flushLinks a b) := h.withCrossings

theorem resetNotice {src dst : Nat} (h : Evolves d₀ d) : Evolves d₀ (resetNoticeEff src dst d) :=
  .ite h (.ite h.receive.flushLinks.setCross.setCross h.receive.flushLinks.setCross.setCross.lostCrossing)

theorem crossingTimeout {src dst : Nat} (h : Evolves d₀ d) : Evolves d₀ (crossingTimeoutEff src dst d) :=
  .ite h h.lostCrossing

theorem frequencyChange {isl mhz : Nat} (h : Evolves d₀ d) : Evolves d₀ (frequencyChangeEff isl mhz d) :=
  .ite h.modIsland h

theorem droopStart {isl : Nat} (h : Evolves d₀ d) : Evolves d₀ (droopStartEff isl d) := .ite h h.setIsland.count

theorem droopEnd {isl stretched : Nat} (h : Evolves d₀ d) : Evolves d₀ (droopEndEff isl stretched d) :=
  .ite h h.setIsland.count

/-! ### Machine/Links -/

theorem setPortState {p code : Nat} (h : Evolves d₀ d) : Evolves d₀ (d.setPortState p code) := h.rsetNat

theorem portDown {p : Nat} (h : Evolves d₀ d) : Evolves d₀ (d.portDown p) :=
  h.modPort.setPortState.count.errFire.devEvent

theorem resendAll {p : Nat} (h : Evolves d₀ d) : Evolves d₀ (d.resendAll p) := .ite h (.ite h.portDown h.setPort)

theorem retryTimeout {p : Nat} (h : Evolves d₀ d) : Evolves d₀ (retryTimeoutEff p d) := .ite h.resendAll h

theorem portTrained {p : Nat} (h : Evolves d₀ d) : Evolves d₀ (portTrainedEff p d) := .ite h.modPort.setPortState h

theorem enablePort {p : Nat} {enable : Bool} (h : Evolves d₀ d) : Evolves d₀ (d.enablePort p enable) :=
  .ite h (.ite (.ite h.rsetNat.withMirror.setPortState h.rsetNat.withMirror) h.rsetNat.withMirror.modPort.setPortState)

theorem tapEnableWrite {p : Nat} {enable : Bool} (h : Evolves d₀ d) : Evolves d₀ (tapEnableWriteEff p enable d) :=
  .ite (h.atBlock (fun _ h => h.enablePort)) h

theorem linkWordSend {p : Nat} (h : Evolves d₀ d) : Evolves d₀ (linkWordSendEff p d) := by
  unfold linkWordSendEff
  refine .ite h ?_
  dsimp only
  split
  · exact h.setPort.count.count
  · exact .ite h h.drew.setPort.count

theorem takeAck {p : Nat} {w : LinkWord} (h : Evolves d₀ d) : Evolves d₀ (d.takeAck p w) :=
  .ite h (.ite (.resendAll (.ite h (.ite h.setPort h.errFire))) (.ite h (.ite h.setPort h.errFire)))

theorem freeFlits {p : Nat} {m : RxMsg} (h : Evolves d₀ d) : Evolves d₀ (d.freeFlits p m) := h.modPort

theorem openMsg {p : Nat} {m : RxMsg} {r : RxMsg × Dev} (h : Evolves d₀ d) (e : d.openMsg p m = some r) :
    Evolves d₀ r.2 := by
  unfold Dev.openMsg at e
  dsimp only at e
  split at e
  · cases e
    exact h
  · split at e
    · cases e
    · split at e
      · cases e
      · obtain ⟨_, -, rfl⟩ := Option.map_eq_some_iff.mp e
        exact h.modPort.snd

theorem decryptFail {m : RxMsg} (h : Evolves d₀ d) : Evolves d₀ (d.decryptFail m) := h.count.errFire.devEvent

theorem admitMsg {p : Nat} {m : RxMsg} {put : Dev → RxMsg → Dev} (h : Evolves d₀ d)
    (hput : ∀ d m, Evolves d₀ d → Evolves d₀ (put d m)) : Evolves d₀ (d.admitMsg p m put) := by
  unfold Dev.admitMsg
  refine .ite h.count.freeFlits ?_
  split
  · exact h.decryptFail.freeFlits
  · next _ d e =>
      exact hput _ _ (h.openMsg e)

theorem recordMsg {p : Nat} {m : RxMsg} (h : Evolves d₀ d) : Evolves d₀ (d.recordMsg p m) := by
  unfold Dev.recordMsg
  refine .ite h.receive.stamp.count.freeFlits (.ite h.receive.stamp.freeFlits ?_)
  split
  · exact h.receive.stamp.modPort
  · exact h.receive.stamp.freeFlits
  · exact h.receive.stamp.admitMsg fun _ _ h => h.modPort

theorem takeFlit {p : Nat} {f : Flit} (h : Evolves d₀ d) : Evolves d₀ (d.takeFlit p f) := by
  unfold Dev.takeFlit
  split
  · exact h
  · dsimp only
    split
    · exact .modPort (.modPort (.modPort (.count (.ite h.errFire h))))
    · exact .ite (.recordMsg (.modPort (.modPort (.count (.ite h.errFire h)))))
        (.modPort (.modPort (.count (.ite h.errFire h))))

theorem groupReceive {p : Nat} {g : Group} (h : Evolves d₀ d) : Evolves d₀ (groupReceiveEff p g d) :=
  .ite h (.ite h.count.count.modPort.detect (.ite h.count.takeAck
    (.ite h.count.takeAck.setPort (h.count.takeAck.setPort.foldl (fun _ _ h => h.takeFlit)))))

theorem partnerParity {id : Nat} (h : Evolves d₀ d) : Evolves d₀ (d.partnerParity id) := h.withSec.errFire.detect

theorem partnerRead {id : Nat} {tableBad cacheBad : Bool} (h : Evolves d₀ d) :
    Evolves d₀ (d.partnerRead id tableBad cacheBad).2 :=
  .iteOn Prod.snd (.snd (.count (.withSec (.ite h.partnerParity h))))
    (.iteOn Prod.snd (.snd (.hbmUncorrected (.errFire (.placeRead (.count (.ite h.partnerParity h))))))
    (.snd (.withSec (.placeRead (.count (.ite h.partnerParity h))))))

theorem partnerLookup {p : Nat} {v : Fin 4} {tableBad cacheBad : Bool} (h : Evolves d₀ d) :
    Evolves d₀ (partnerLookupEff p v tableBad cacheBad d) := by
  unfold partnerLookupEff
  split
  · exact h
  · refine .ite h ?_
    extract_lets r d₁
    have h₁ : Evolves d₀ d₁ := h.carry.partnerRead.carry
    refine .ite (.ite h₁.freeFlits.modPort (.ite ?_ h₁.count.freeFlits.modPort)) (.modPort (.ite h₁.count h₁))
    split
    · next e => exact (h₁.openMsg e).modPort
    · exact h₁.decryptFail.freeFlits.modPort

/-! ### Machine/Resilience -/

theorem resilSet {hd : CmdHdr} {b : ResilBytes} (h : Evolves d₀ d) : Evolves d₀ (resilSetEff hd b d) :=
  h.liveCmd fun _ h => .ite h.complete (.ite h.complete
    (.ite h.complete (.complete (.ite h.setCtx.modResil.modResil h.setCtx.modResil.modResil.firstCask))))

theorem takeCask {n : Nat} {r : List Nat × Dev} (h : Evolves d₀ d) (e : d.takeCask n = some r) : Evolves d₀ r.2 := by
  unfold Dev.takeCask at e
  dsimp only at e
  split at e
  · cases e
  · cases e
    exact h.drew.foldl fun _ _ h => h.setPool

theorem giveCask {fs : List Nat} (h : Evolves d₀ d) : Evolves d₀ (d.giveCask fs) := h.foldl fun _ _ h => h.setPool

theorem caskHost {hd : CmdHdr} {owner ownerCtx size : Nat} (h : Evolves d₀ d) :
    Evolves d₀ (caskHostEff hd owner ownerCtx size d) := by
  unfold caskHostEff
  refine h.adminCmd fun _ h => .ite h.complete (.ite h.complete ?_)
  split
  · exact h.complete
  · next _ d e =>
      exact (h.takeCask e).drew.withCasks.completePay

theorem caskRelease {hd : CmdHdr} {slot : Nat} (h : Evolves d₀ d) : Evolves d₀ (caskReleaseEff hd slot d) := by
  unfold caskReleaseEff
  refine h.adminCmd fun _ h => ?_
  split
  · exact h.complete
  · exact h.withCasks.giveCask.complete

theorem caskPut {s : CaskSlot} {older : Bool} {off : Nat} {bs : List Byte} (h : Evolves d₀ d) :
    Evolves d₀ (d.caskPut s older off bs) :=
  .foldlOn Prod.fst h.fst fun _ _ h => h.store.fst

theorem caskWrite {p : Nat} (h : Evolves d₀ d) : Evolves d₀ (caskWriteEff p d) := by
  unfold caskWriteEff
  split
  · exact h
  · dsimp only
    split
    · exact h.popMsg.sendNack
    · exact .ite h.popMsg.sendNack h.popMsg.caskPut.withCasks.sendWack

theorem caskSeal {p : Nat} (h : Evolves d₀ d) : Evolves d₀ (caskSealEff p d) := by
  unfold caskSealEff
  split
  · exact h
  · dsimp only
    split
    · exact h.popMsg.sendNack
    · exact .ite h.popMsg.sendNack h.popMsg.caskPut.withCasks.sendWack

theorem sendRdata {p : Nat} {m : MsgHdr} {bs : List Byte} (h : Evolves d₀ d) : Evolves d₀ (d.sendRdata p m bs) :=
  h.foldl fun _ _ h => h.sendMsg

theorem caskRead {p : Nat} {u : ReadUpset} (h : Evolves d₀ d) : Evolves d₀ (caskReadEff p u d) := by
  unfold caskReadEff
  split
  · exact h
  · dsimp only
    split
    · exact h.popMsg.sendNack
    · refine .ite h.popMsg.sendNack (.ite h.popMsg.sendNack (.ite h.popMsg.sendNack ?_))
      split
      · exact h.popMsg.heldReads.hbmUncorrected.sendNack
      · exact h.popMsg.heldReads.hbmCorrected.drew.sendRdata
      · exact h.popMsg.heldReads.sendRdata

theorem caskDrain {x : Nat} (h : Evolves d₀ d) : Evolves d₀ (caskDrainEff x d) := by
  unfold caskDrainEff
  dsimp only
  split
  · exact h
  · split
    · exact h.modResil
    · exact .ite h (.ite h.modResil.sendCask h.modResil.sendCask.count)

theorem drainFails {x : Nat} {status : W16} (h : Evolves d₀ d) : Evolves d₀ (d.drainFails x status) :=
  h.modCtx.modResil.ctxEvent

theorem caskDrainTimeout {x : Nat} (h : Evolves d₀ d) : Evolves d₀ (caskDrainTimeoutEff x d) := .ite h.drainFails h

theorem caskLost {p : Nat} (h : Evolves d₀ d) : Evolves d₀ (caskLostEff p d) := by
  unfold caskLostEff
  split
  · exact h
  · exact .ite h.popMsg.sendWack h.popMsg.sendWack.errFire.ctxEvent

theorem caskSched {p : Nat} (h : Evolves d₀ d) : Evolves d₀ (caskSchedEff p d) := by
  unfold caskSchedEff
  split
  · exact h
  · exact .ite h.popMsg.sendWack (.ite h.popMsg.sendWack.takeSchedule.report h.popMsg.sendWack.takeSchedule)

theorem caskReport {p : Nat} (h : Evolves d₀ d) : Evolves d₀ (caskReportEff p d) := by
  unfold caskReportEff
  split
  · exact h
  · exact .ite h.popMsg.sendWack h.popMsg.sendWack.recordReport

theorem caskSchedule {hd : CmdHdr} {gyle : Nat} (h : Evolves d₀ d) : Evolves d₀ (caskScheduleEff hd gyle d) :=
  h.liveCmd fun _ h => .ite h.complete (.complete (.ite h.takeSchedule.report h.takeSchedule))

theorem dropRead {x : Nat} (h : Evolves d₀ d) : Evolves d₀ (d.dropRead x) := h.modCtx

theorem caskRdata {p : Nat} (h : Evolves d₀ d) : Evolves d₀ (caskRdataEff p d) := by
  unfold caskRdataEff
  split
  · exact h
  · dsimp only
    split
    · exact h.popMsg
    · exact .ite h.popMsg (.ite h.popMsg.modResil (.ite h.popMsg.modResil.dropRead.readDone
        h.popMsg.modResil.dropRead.readOn))

theorem ckptExport {hd : CmdHdr} {addr size : Nat} (h : Evolves d₀ d) : Evolves d₀ (ckptExportEff hd addr size d) := by
  unfold ckptExportEff
  refine h.liveCmd fun _ h => ?_
  dsimp only
  split
  · exact h.complete
  · exact .ite h.complete h.hostWrite.count.completePay

theorem stopGyle {x cause : Nat} (h : Evolves d₀ d) : Evolves d₀ (d.stopGyle x cause) := by
  unfold Dev.stopGyle
  dsimp only
  split
  · exact h.abortOpen.castVote.modGyle.modGyle
  · exact h.modGyle
  · exact h.modGyle
  · exact h

theorem restore {hd : CmdHdr} {source version reserved : Nat} {expected : W64} {addr : Nat} {hostFail : Bool}
    (h : Evolves d₀ d) : Evolves d₀ (restoreEff hd source version reserved expected addr hostFail d) :=
  h.liveCmd fun _ h => .ite h.complete (.ite h.complete h.modResil.stopGyle.resumeRestore)

theorem abandonRack {x : Nat} {k : Rack} (h : Evolves d₀ d) : Evolves d₀ (d.abandonRack x k) :=
  h.modCtx.modResil.count.errFire.ctxEvent.complete

theorem rackBegin {hd : CmdHdr} {b : RackBody} {ownFail sendFail : Bool} (h : Evolves d₀ d) :
    Evolves d₀ (rackBeginEff hd b ownFail sendFail d) := by
  unfold rackBeginEff
  refine h.liveCmd fun _ h => .ite h.complete (.ite h.complete (.ite h.complete ?_))
  extract_lets d₁
  have h₁ : Evolves d₀ d₁ := by
    unfold d₁
    split
    · exact h.abandonRack
    · exact h
  exact .resumeRestore (.modResil (.ite h₁.modCtx.modGyle.stopGyle h₁.modCtx.modGyle.stopGyle.modGyle))

theorem rackData {p : Nat} (h : Evolves d₀ d) : Evolves d₀ (rackDataEff p d) := by
  unfold rackDataEff
  split
  · exact h
  · dsimp only
    split
    · exact h.popMsg.sendNack.count
    · split
      · exact h.popMsg.putCurrent.modResil.count.sendWack
      · exact h.popMsg.sendNack.count

theorem rackComplete {x : Nat} (h : Evolves d₀ d) : Evolves d₀ (rackCompleteEff x d) := by
  unfold rackCompleteEff
  dsimp only
  split
  · exact h
  · exact .ite h h.atGyle.modResil.count.complete.noteEvent.schedule

theorem rackTimeout {x : Nat} (h : Evolves d₀ d) : Evolves d₀ (rackTimeoutEff x d) := by
  unfold rackTimeoutEff
  split
  · exact h
  · exact h.modCtx.ctxEvent.rackFailed

theorem dropMsg {x : Nat} {tag : W32} (h : Evolves d₀ d) : Evolves d₀ (d.dropMsg x tag) := h.modCtx

theorem drainDone {x : Nat} (h : Evolves d₀ d) : Evolves d₀ (d.drainDone x) := h.modResil.count

theorem wack {p : Nat} (h : Evolves d₀ d) : Evolves d₀ (wackEff p d) := by
  unfold wackEff
  split
  · exact h
  · refine .ite h.popMsg.count ?_
    split
    · exact h.popMsg
    · dsimp only
      split
      · exact h.popMsg.dropMsg.noteEvent.sendCheck
      · exact h.popMsg.dropMsg.noteEvent.collArrives.collGo
      · exact .ite h.popMsg.dropMsg.noteEvent.drainDone h.popMsg.dropMsg.noteEvent

theorem nack {p : Nat} (h : Evolves d₀ d) : Evolves d₀ (nackEff p d) := by
  unfold nackEff
  split
  · exact h
  · refine .ite h.popMsg.count.count ?_
    split
    · split
      · exact h.popMsg.count.collFail
      · exact h.popMsg.count
    · split
      · exact .ite h.popMsg.count.modCtx (.sendFail (.ite h.popMsg.count.abortCause h.popMsg.count))
      · exact h.popMsg.count.collFail
      · refine .ite h.popMsg.count.drainFails (.ite ?_ (.ite h.popMsg.count h.popMsg.count.dropMsg))
        dsimp only
        split
        · exact h.popMsg.count.dropRead.readRefused
        · exact h.popMsg.count.dropRead

theorem answerTimeout {x : Nat} {tag : W32} (h : Evolves d₀ d) : Evolves d₀ (answerTimeoutEff x tag d) := by
  unfold answerTimeoutEff
  split
  · exact h.dropRead.readRefused
  · exact h.writeTimeout

/-! ### Machine/Signing -/

theorem raiseRollback {cls n : Nat} (h : Evolves d₀ d) : Evolves d₀ (d.raiseRollback cls n) := by
  unfold Dev.raiseRollback
  split
  · exact h.burn (OnlyBlown.rollback_max _ _ _ _)
  · exact h

theorem dirWrite {bankB : Bool} {testSlot : Nat} (h : Evolves d₀ d) : Evolves d₀ (d.dirWrite bankB testSlot) :=
  h.toFlash

theorem loadPack {pack : Signed} {stepping : Nat} {formGood : Bool} (h : Evolves d₀ d) :
    Evolves d₀ (d.loadPack pack stepping formGood).2 :=
  .iteOn Prod.snd h.snd (.iteOn Prod.snd h.snd (.iteOn Prod.snd h.toFlash.snd
    (.iteOn Prod.snd h.toFlash.snd h.toFlash.dirWrite.withSec.snd)))

/-! ### Machine/Tests -/

theorem coreTestDue {core : Nat} {retest : Bool} (h : Evolves d₀ d) : Evolves d₀ (coreTestDueEff core retest d) := by
  unfold coreTestDueEff
  refine .ite h ?_
  split
  · exact h.modCore
  · exact .ite h h.modCore
  · exact h

theorem coreTestStart {core : Nat} (h : Evolves d₀ d) : Evolves d₀ (coreTestStartEff core d) :=
  .ite h (.ite h.noteEvent.modCore (.ite (h.foldl (fun _ _ h => h.preemptCtx)) h))

theorem testRecord {isl page kind unit : Nat} (h : Evolves d₀ d) : Evolves d₀ (d.testRecord isl page kind unit) :=
  h.drew.newRecord

theorem testFailure {core : Nat} {f : Nat × Nat} (h : Evolves d₀ d) : Evolves d₀ (d.testFailure core f) :=
  h.errFire.testRecord.confirmFault

theorem settleRetest {core : Nat} {fails : List (Nat × Nat)} {e : Nat × Nat × Nat} (h : Evolves d₀ d) :
    Evolves d₀ (d.settleRetest core fails e) :=
  .ite h.markRecord.setHist h.settleTransient

theorem testBreaks {core : Nat} (h : Evolves d₀ d) : Evolves d₀ (d.testBreaks core) := h.withRas

theorem injectMiss {core : Nat} {misses : List Nat} (h : Evolves d₀ d) : Evolves d₀ (d.injectMiss core misses) :=
  .retireCore (h.errFire.errRecord.count.foldl (fun _ _ h => h.abortCause))

theorem packRuns (h : Evolves d₀ d) : Evolves d₀ d.packRuns := by
  unfold Dev.packRuns
  split
  · exact h
  · exact h.raiseRollback

theorem packEffect {core : Nat} (h : Evolves d₀ d) : Evolves d₀ (d.packEffect core) := h.rset.packRuns

theorem testCounts {core : Nat} {r : TestOutcome} (h : Evolves d₀ d) : Evolves d₀ (d.testCounts core r) :=
  .rsetNat (.ite h.count.count.count.count.modCore h.count.count.count.count)

theorem testResults {core : Nat} {r : TestOutcome} (h : Evolves d₀ d) : Evolves d₀ (d.testResults core r) :=
  .ite (.modCore (.ite (.foldl (h.testCounts.packEffect.foldl (fun _ _ h => h.testFailure))
    (fun _ _ h => h.settleRetest)) (.injectMiss (.foldl (h.testCounts.packEffect.foldl (fun _ _ h => h.testFailure))
    (fun _ _ h => h.settleRetest))))) (.testBreaks (.ite
    (.foldl (h.testCounts.packEffect.foldl (fun _ _ h => h.testFailure)) (fun _ _ h => h.settleRetest))
    (.injectMiss (.foldl (h.testCounts.packEffect.foldl (fun _ _ h => h.testFailure)) (fun _ _ h => h.settleRetest)))))

theorem coreTestComplete {core : Nat} {r : TestOutcome} (h : Evolves d₀ d) :
    Evolves d₀ (coreTestCompleteEff core r d) :=
  .ite h (.schedule (.noteEvent (.modCore (h.testResults.foldl (fun _ _ h => h.complete)))))

theorem unitTest {kind unit : Nat} (h : Evolves d₀ d) : Evolves d₀ (d.unitTest kind unit).2 := by
  unfold Dev.unitTest
  extract_lets waiting found d₁ home d₂ d₃ d₄
  clear_value waiting found
  have h₃ : Evolves d₀ d₃ := by
    unfold d₃
    split
    · exact h.drew.packRuns
    · exact .ite h.drew.packRuns.testRecord.confirmFault h.drew.packRuns.testRecord
  clear_value d₃
  refine .snd ?_
  unfold d₄
  split
  · exact h₃
  · exact .ite h₃.markRecord h₃.settleTransient

theorem testRequest {hd : CmdHdr} {kind unit : Nat} (h : Evolves d₀ d) :
    Evolves d₀ (testRequestEff hd kind unit d) := by
  unfold testRequestEff
  refine h.adminCmd fun _ h => .ite h.complete ?_
  split
  · exact h.modCore
  · exact h.unitTest.complete

theorem testpackLoad {hd : CmdHdr} {pack : Signed} {stepping : Nat} {formGood : Bool} (h : Evolves d₀ d) :
    Evolves d₀ (testpackLoadEff hd pack stepping formGood d) :=
  h.adminCmd fun _ h => h.loadPack.complete

theorem recover {key : Nat} {hd : UnitHist} (h : Evolves d₀ d) : Evolves d₀ (d.recover key hd) := .ite h.setService h

theorem operatingHour (h : Evolves d₀ d) : Evolves d₀ (operatingHourEff d) :=
  .histWrite (h.withRas.noteEvent.foldl (fun _ _ h => h.recover))

theorem overlayChanged {e : W128} (h : Evolves d₀ d) : Evolves d₀ (d.overlayChanged e) :=
  .ite h.mergeCores (.ite h h.setFreq)

theorem calOverlayAdd {hd : CmdHdr} {e : W128} (h : Evolves d₀ d) : Evolves d₀ (calOverlayAddEff hd e d) :=
  h.adminCmd fun _ h => .ite h.complete (.ite h.complete
    (.complete (.ite h.addEntry.overlayChanged.setService h.addEntry.overlayChanged)))

theorem calOverlayRemove {hd : CmdHdr} {e : W128} (h : Evolves d₀ d) : Evolves d₀ (calOverlayRemoveEff hd e d) :=
  h.adminCmd fun _ h => .ite h.complete (.ite h.complete (.ite h.complete h.withRas.calWrite.overlayChanged.complete))

/-! ### Machine/Registers -/

theorem setMirror {key : Nat} {v : W32} (h : Evolves d₀ d) : Evolves d₀ (d.setMirror key v) := h.withMirror

theorem mirrorWord {key : Nat} (h : Evolves d₀ d) : Evolves d₀ (d.mirrorWord key) := h.setMirror

theorem mirrorAll (h : Evolves d₀ d) : Evolves d₀ d.mirrorAll := h.withMirror

theorem hostErr {bit fn : Nat} (h : Evolves d₀ d) : Evolves d₀ (d.hostErr bit fn) := h.errFire

theorem mirrorUpdate {offset : Nat} {parityBad : Bool} (h : Evolves d₀ d) :
    Evolves d₀ (mirrorUpdateEff offset parityBad d) := by
  unfold mirrorUpdateEff
  split
  · exact h
  · exact .ite h (.ite (.hostErr (.toMirror (h.foldl (fun _ _ h => h.mirrorWord))))
      (.toMirror (h.foldl (fun _ _ h => h.mirrorWord))))

theorem counterSnapshot {page : Nat} (h : Evolves d₀ d) : Evolves d₀ (counterSnapshotEff page d) := by
  unfold counterSnapshotEff
  split
  · exact h
  · exact .ite h (.toMirror (h.foldl (fun _ _ h => h.setMirror)))

theorem selectTable {key : Nat} (h : Evolves d₀ d) : Evolves d₀ (d.selectTable key) :=
  .ite (h.foldl (fun _ _ h => h.setMirror)) (.ite (h.foldl (fun _ _ h => h.setMirror))
    (.ite (h.foldl (fun _ _ h => h.setMirror)) h))

theorem badAccess {fn : Nat} (h : Evolves d₀ d) : Evolves d₀ (d.badAccess fn) := h.count.hostErr

theorem adminQueue {q base log vector : Nat} (h : Evolves d₀ d) : Evolves d₀ (d.adminQueue q base log vector) :=
  h.setQueue

theorem adminQueues {fn page : Nat} (h : Evolves d₀ d) : Evolves d₀ (d.adminQueues fn page) :=
  h.adminQueue.adminQueue.adminQueue

theorem afterWrite {fn key off : Nat} {p : PageAt} (h : Evolves d₀ d) : Evolves d₀ (d.afterWrite fn key off p) := by
  unfold Dev.afterWrite
  split
  · exact .ite h.adminQueues h
  · exact .ite h.adminQueues h
  · exact h.selectTable

theorem errStatusClear {offset : Nat} {v : W32} (h : Evolves d₀ d) : Evolves d₀ (errStatusClearEff offset v d) := by
  unfold errStatusClearEff
  dsimp only
  split
  · exact .ite h (h.setMirror.atBlock (fun _ h => h.errClear))
  · exact h

theorem stageGenWrite {offset : Nat} {gen : W32} (h : Evolves d₀ d) : Evolves d₀ (stageGenWriteEff offset gen d) := by
  unfold stageGenWriteEff
  dsimp only
  split
  · exact .ite (h.atBlock (fun _ h => h.openGen)) h
  · exact h

theorem winDataWrite {core : Nat} {value : W32} (h : Evolves d₀ d) : Evolves d₀ (winDataWriteEff core value d) := by
  unfold winDataWriteEff
  refine .ite h (.ite (.setMirror (.rset ?_)) ?_)
  all_goals
    exact .ite (.ite h.toBlock.rset.setMirror.withApply h.toBlock.rset.setMirror.withApply.setPageState.stageEvent)
      h.toBlock.count

theorem probeSelect {core : Nat} {test : Bool} {value : W32} (h : Evolves d₀ d) :
    Evolves d₀ (probeSelectEff core test value d) :=
  .ite h (h.setMirror.atBlock (fun _ h => h.rset))

theorem stageWrite {base key shadow : Nat} {v : W32} (h : Evolves d₀ d) : Evolves d₀ (d.stageWrite base key shadow v) :=
  .ite h.stageValue.setMirror h.stageValue

theorem writeWord {fn key : Nat} {value : W32} (h : Evolves d₀ d) : Evolves d₀ (d.writeWord fn key value) := by
  unfold Dev.writeWord
  split
  · exact .ite h.stageGenWrite (.ite h.errStatusClear
      (.ite (.ite h.powerCapWrite h) (.ite h.tapEnableWrite
      (.ite h.winDataWrite (.ite h.probeSelect (.ite h.probeSelect
      (.ite (.ite h h.setMirror) (.ite (.ite h.toBlock.rset.setMirror h.toBlock.count)
      (.ite h.toBlock.stageWrite (.ite h.toBlock.stageWrite
      (.ite (.ite h.toBlock h.toBlock.rset.setMirror.afterWrite) h.toBlock)))))))))))
  · exact h

theorem registerWrite {fn offset size : Nat} {value : W64} (h : Evolves d₀ d) :
    Evolves d₀ (registerWriteEff fn offset size value d) := by
  unfold registerWriteEff
  refine .ite h (.ite h.badAccess ?_)
  split
  · exact h
  · exact .ite h.writeWord.writeWord h.writeWord

theorem counterLowRead {offset : Nat} (h : Evolves d₀ d) : Evolves d₀ (counterLowReadEff offset d) := by
  unfold counterLowReadEff
  refine .ite h (.ite h.badAccess ?_)
  dsimp only
  split
  · exact h.count
  · exact .ite h.count.withLatch h.count

theorem probeAnswer {core : Nat} {test : Bool} (h : Evolves d₀ d) : Evolves d₀ (probeAnswerEff core test d) :=
  .ite h (.toMirror (h.foldl (fun _ _ h => h.rset.setMirror)))

theorem hostTrip (h : Evolves d₀ d) : Evolves d₀ d.hostTrip := h.carry.carry

theorem memwinRead {offset len : Nat} {u : ReadUpset} (h : Evolves d₀ d) : Evolves d₀ (memwinReadEff offset len u d) :=
  .ite h (.ite (.ite h (.ite h.hostTrip.hubReadMeets.withHost h.hostTrip.hubReadMeets.drew.withHost)) h.count.withHost)

theorem hostPut {x : Nat} {bs : List Byte} {ps : List (Nat × Nat)} (h : Evolves d₀ d) :
    Evolves d₀ (d.hostPut x bs ps) := by
  induction ps generalizing d bs with
  | nil => exact h
  | cons p ps ih => exact .ite (ih h.count) (ih h.store.memTrip)

theorem memwinWrite {offset : Nat} {data : List Byte} (h : Evolves d₀ d) : Evolves d₀ (memwinWriteEff offset data d) :=
  .ite h (.ite (.ite h h.hostTrip.hostPut) h.count)

/-! ### Machine/HostQueues -/

theorem interrupt {q : Nat} (h : Evolves d₀ d) : Evolves d₀ (d.interrupt q) :=
  .ite h.setQueue.withHost h.setQueue.withHost

theorem badDoorbell {fn ctx : Nat} (h : Evolves d₀ d) : Evolves d₀ (d.badDoorbell fn ctx) := h.hostErr.fnEvent

theorem sqTail {fn : Nat} {ctx : Option CtxId} {index : Nat} (h : Evolves d₀ d) :
    Evolves d₀ (sqTailEff fn ctx index d) := by
  unfold sqTailEff
  split
  · exact h
  · exact .ite h (.ite h.badDoorbell h.setQueue.count)

theorem headBell {fn q x index : Nat} (h : Evolves d₀ d) : Evolves d₀ (d.headBell fn q x index) :=
  .ite h (.ite h.badDoorbell h.setQueue.count)

theorem cqHead {fn : Nat} {ctx : Option CtxId} {index : Nat} (h : Evolves d₀ d) :
    Evolves d₀ (cqHeadEff fn ctx index d) := by
  unfold cqHeadEff
  split
  · exact h
  · exact h.headBell

theorem eqHead {fn index : Nat} (h : Evolves d₀ d) : Evolves d₀ (eqHeadEff fn index d) := .ite h.headBell h

theorem nextEntry? {q : Nat} {r : Entry × Dev} (h : Evolves d₀ d) (e : d.nextEntry? q = some r) : Evolves d₀ r.2 := by
  unfold Dev.nextEntry? at e
  dsimp only at e
  split at e
  · cases e
    exact h.setQueue
  · split at e
    · split at e
      · cases e
        exact h.withRas
      · cases e
    · cases e

theorem completionPost {q : Nat} (h : Evolves d₀ d) : Evolves d₀ (completionPostEff q d) := by
  unfold completionPostEff
  refine .ite h ?_
  split
  · exact h
  · next _ d e =>
      exact .ite (.interrupt (.ite (.count (.setQueue (.ite (h.nextEntry? e).ctxWrite (h.nextEntry? e).hostWrite)))
        (.setQueue (.ite (h.nextEntry? e).ctxWrite (h.nextEntry? e).hostWrite))))
        (.ite (.count (.setQueue (.ite (h.nextEntry? e).ctxWrite (h.nextEntry? e).hostWrite)))
        (.setQueue (.ite (h.nextEntry? e).ctxWrite (h.nextEntry? e).hostWrite)))

theorem coalesceTimeout {q : Nat} (h : Evolves d₀ d) : Evolves d₀ (coalesceTimeoutEff q d) := .ite h h.interrupt

theorem commandFetch {fn : Nat} {ctx : Option CtxId} {entry : List Byte} (h : Evolves d₀ d) :
    Evolves d₀ (commandFetchEff fn ctx entry d) := by
  unfold commandFetchEff
  split
  · exact h
  · exact .ite h (.ite h.setQueue.withHost h.setQueue.withHost.complete)

theorem queueCreate {hd : CmdHdr} {ctx kind location base entries vector coalCount coalUs : Nat}
    (h : Evolves d₀ d) : Evolves d₀ (queueCreateEff hd ctx kind location base entries vector coalCount coalUs d) :=
  h.adminCmd fun _ h => .ite h.complete (.ite h.complete h.setQueue.complete)

theorem queueDelete {hd : CmdHdr} {ctx kind : Nat} (h : Evolves d₀ d) : Evolves d₀ (queueDeleteEff hd ctx kind d) :=
  h.adminCmd fun _ h => .ite h.complete (.ite h.complete (.ite h.complete h.setQueue.complete))

theorem hostRegister {hd : CmdHdr} {addr size : Nat} (h : Evolves d₀ d) : Evolves d₀ (hostRegisterEff hd addr size d) :=
  h.adminCmd fun _ h => .ite h.complete h.withHost.complete

theorem hostUnregister {hd : CmdHdr} {range : Nat} (h : Evolves d₀ d) : Evolves d₀ (hostUnregisterEff hd range d) := by
  unfold hostUnregisterEff
  refine h.adminCmd fun _ h => ?_
  split
  · exact h.complete
  · exact .ite h.complete h.withHost.complete

theorem copy {hd : CmdHdr} {src dst bytes flags : Nat} (h : Evolves d₀ d) :
    Evolves d₀ (copyEff hd src dst bytes flags d) :=
  h.liveCmd fun _ h => .ite h.complete (.ite h.complete h.withHost)

theorem endCopy {n : Nat} {c : CopyRun} {st : W16} (h : Evolves d₀ d) : Evolves d₀ (d.endCopy n c st) :=
  h.withHost.complete

theorem copyPiece {n : Nat} {hostData : List Byte} {fault : Bool} {u : ReadUpset} (h : Evolves d₀ d) :
    Evolves d₀ (copyPieceEff n hostData fault u d) := by
  unfold copyPieceEff
  split
  · exact h
  · refine .ite h.endCopy (.ite h ?_)
    extract_lets r w d₁ d₂ d₃
    have hr : Evolves d₀ r.2.2 := by
      unfold r
      split
      · exact h.hostTrip.hubReadMeets
      · exact h
    have h₃ : Evolves d₀ d₃ := .count (.ite hr.drew.hostTrip.hostPut hr.drew.store)
    exact .ite hr.endCopy (.ite hr.endCopy (.ite h₃.endCopy h₃.withHost))

theorem pcieCompletionTimeout {copyId : Option Nat} (h : Evolves d₀ d) :
    Evolves d₀ (pcieCompletionTimeoutEff copyId d) := by
  unfold pcieCompletionTimeoutEff
  dsimp only
  split
  · exact h.count.hostErr
  · split
    · exact .ite h.count.hostErr h.count.hostErr.endCopy
    · exact h.count.hostErr

theorem resetFn {fn : Nat} (h : Evolves d₀ d) : Evolves d₀ (d.resetFn fn) :=
  .ite (.setQueue (.withHost (h.foldl (fun _ _ h => h.kill)))) (.withHost (h.foldl (fun _ _ h => h.kill)))

theorem functionLevelReset {fn : Nat} (h : Evolves d₀ d) : Evolves d₀ (functionLevelResetEff fn d) :=
  .ite (.withHost (h.foldl (fun _ _ h => h.resetFn))) (.ite h.resetFn h)

theorem d3hotRequest {fn : Nat} (h : Evolves d₀ d) : Evolves d₀ (d3hotRequestEff fn d) := .ite h h.withHost

theorem vfEnableWrite {enable : Bool} {numVfs : Nat} (h : Evolves d₀ d) :
    Evolves d₀ (vfEnableWriteEff enable numVfs d) :=
  .withHost (h.foldl (fun _ _ h => h.resetFn))

theorem pcieLinkTrained {rate width : Nat} (h : Evolves d₀ d) : Evolves d₀ (pcieLinkTrainedEff rate width d) :=
  .ite h.withHost h

theorem replyWith {bs : List Byte} (h : Evolves d₀ d) : Evolves d₀ (d.replyWith bs) := h.drew.withHost

theorem reply (h : Evolves d₀ d) : Evolves d₀ d.reply := h.replyWith

theorem sensorAnswer {n : Nat} (h : Evolves d₀ d) : Evolves d₀ (d.sensorAnswer n) := by
  unfold Dev.sensorAnswer
  split
  · exact h.reply
  · exact h.replyWith

theorem bankWrite {offset : Nat} {data : List Byte} (h : Evolves d₀ d) : Evolves d₀ (d.bankWrite offset data) :=
  h.toFlash.withSec

theorem bankVerify {image : Signed} (h : Evolves d₀ d) : Evolves d₀ (d.bankVerify image).2 := h.toFlash.withSec.snd

theorem bankActivate (h : Evolves d₀ d) : Evolves d₀ d.bankActivate := h.dirWrite

theorem mctpMessage {m : Mctp} (h : Evolves d₀ d) : Evolves d₀ (mctpMessageEff m d) := by
  unfold mctpMessageEff
  refine .ite h ?_
  split
  · exact h.withHost.reply
  · exact h.reply
  · exact h.reply
  · exact h.count.sensorAnswer
  · exact .ite h.bankWrite.withSec.reply h.reply
  · exact .ite (.reply (.ite h.withSec.bankVerify.bankActivate h.withSec.bankVerify)) h.reply
  · exact .ite h.loadPack.reply h.reply
  · exact h

theorem pldmPowerCapWrite {watts : Nat} (h : Evolves d₀ d) : Evolves d₀ (pldmPowerCapWriteEff watts d) :=
  .ite h (.ite h.powerCap.reply h.reply)

theorem dynamicAddressAssignment {_setdasa : Bool} {addr : BitVec 7} (h : Evolves d₀ d) :
    Evolves d₀ (dynamicAddressAssignmentEff _setdasa addr d) :=
  .ite h.withHost h

theorem spdmRequest {doe : Bool} {r : Spdm} (h : Evolves d₀ d) : Evolves d₀ (spdmRequestEff doe r d) := by
  unfold spdmRequestEff
  refine .ite h ?_
  split
  · exact h.withHost.reply
  · exact .ite h.withHost.reply h.reply
  · exact .ite h.withHost.count.reply h.reply
  · exact h.withHost.reply
  · exact .ite h.replyWith h.reply
  · exact h.reply

theorem ideKmRequest {r : IdeKm} {secureSession : Bool} (h : Evolves d₀ d) :
    Evolves d₀ (ideKmRequestEff r secureSession d) := by
  unfold ideKmRequestEff
  refine .ite h ?_
  split
  · exact h.reply
  · exact h.withHost.reply
  · exact .ite h.withHost.reply h.reply
  · exact h.withHost.reply

theorem jtagInstruction {j : Jtag} (h : Evolves d₀ d) : Evolves d₀ (jtagInstructionEff j d) := by
  unfold jtagInstructionEff
  refine .ite h ?_
  split
  · exact h.withSec
  · exact h.drew.withSec
  · exact h.drew.withSec
  · exact h.withSec
  · exact .ite h.drew.withSec h.withSec

/-! ### Machine/StartUp -/

theorem startUp (h : Evolves d₀ d) : Evolves d₀ d.startUp := .ite h.withSec h

theorem sysRstNAssert (h : Evolves d₀ d) : Evolves d₀ (sysRstNAssertEff d) := h.deviceReset

theorem sysRstNDeassert {sbMode : Bool} (h : Evolves d₀ d) : Evolves d₀ (sysRstNDeassertEff sbMode d) :=
  .ite h h.withPins.withHost.startUp

theorem pwrOkDeassert (h : Evolves d₀ d) : Evolves d₀ (pwrOkDeassertEff d) := h.deviceReset

theorem pwrOkAssert (h : Evolves d₀ d) : Evolves d₀ (pwrOkAssertEff d) := .ite h h.withPins.startUp

theorem powerLoss (h : Evolves d₀ d) : Evolves d₀ (powerLossEff d) := h.deviceReset

theorem perstAssert (h : Evolves d₀ d) : Evolves d₀ (perstAssertEff d) := by
  unfold perstAssertEff
  refine .ite h (.ite h.withHost ?_)
  extract_lets d₁
  have h₁ : Evolves d₀ d₁ := h.functionLevelReset
  clear_value d₁
  exact .setIsland (.frame h₁)

theorem bringUp {isls : List Nat} (h : Evolves d₀ d) : Evolves d₀ (d.bringUp isls) :=
  .withCrossings (h.foldl (fun _ _ h => h.modIsland))

theorem perstDeassert (h : Evolves d₀ d) : Evolves d₀ (perstDeassertEff d) :=
  .ite h (.ite h.withHost (.ite h.withHost h.withHost.bringUp.mirrorAll))

theorem setDieState {die st : Nat} (h : Evolves d₀ d) : Evolves d₀ (d.setDieState die st) := h.rsetNat

theorem nextStep (h : Evolves d₀ d) : Evolves d₀ d.nextStep := h.withSec

theorem startFailed (h : Evolves d₀ d) : Evolves d₀ d.startFailed := h.withSec

theorem showService (h : Evolves d₀ d) : Evolves d₀ d.showService := by
  unfold Dev.showService
  refine h.foldl fun _ _ h => ?_
  dsimp only
  split
  · exact h.coreService
  · exact .ite h.holdPort h

theorem readHistory {badA badB : Bool} (h : Evolves d₀ d) : Evolves d₀ (d.readHistory badA badB) := by
  unfold Dev.readHistory
  dsimp only
  split
  · exact h.trayReport
  · exact .showService (.ite h.withRas.rsetNat.rsetNat h.withRas)

theorem fuseCheck {bad : Bool} {nonce : BitVec 256} (h : Evolves d₀ d) : Evolves d₀ (fuseCheckEff bad nonce d) :=
  .ite h (.ite h.bringUp.setDieState.withSec.readHistory.errFire.deviceError.trayReport.setDieState.startFailed
    h.bringUp.setDieState.withSec.nextStep)

theorem readOverlay (h : Evolves d₀ d) : Evolves d₀ d.readOverlay := by
  unfold Dev.readOverlay
  dsimp only
  split
  · exact h
  · exact h.withRas

theorem firmwareVerify {historyABad historyBBad stuck : Bool} (h : Evolves d₀ d) :
    Evolves d₀ (firmwareVerifyEff historyABad historyBBad stuck d) :=
  .ite h (.ite h.withFlash.readHistory.readOverlay.withSec.withSec.rset.rset.nextStep
    (.ite h.withFlash.readHistory.readOverlay.withSec.errFire.withSec.withSec.rset.rset.nextStep.devEvent
    h.withFlash.readHistory.readOverlay.withSec.errFire.withSec))

theorem startIslands {isls : List Nat} {stuck : Option Nat} (h : Evolves d₀ d) :
    Evolves d₀ (d.startIslands isls stuck) := by
  unfold Dev.startIslands
  split
  · exact h.bringUp
  · exact .ite h.bringUp.setDieState.startFailed h.bringUp

theorem supervisorStart {failed : Option DieId} (h : Evolves d₀ d) : Evolves d₀ (supervisorStartEff failed d) := by
  unfold supervisorStartEff
  refine .ite h ?_
  extract_lets _ _ d₁
  have h₁ : Evolves d₀ d₁ := h.foldl fun _ _ h => .ite h.errFire.setDieState h.bringUp.setDieState.rset
  exact .ite h₁.startFailed h₁.nextStep

theorem dieLinkTraining {failed : Option Isl} (h : Evolves d₀ d) : Evolves d₀ (dieLinkTrainingEff failed d) :=
  .ite h h.startIslands.nextStep

theorem trainStack {failed : Bool} {rows n : Nat} (h : Evolves d₀ d) : Evolves d₀ (d.trainStack failed rows n) :=
  .rsetNat (.ite h.errFire h)

theorem trainPort {up : Bool} {p : Nat} (h : Evolves d₀ d) : Evolves d₀ (d.trainPort up p) :=
  .ite h (.ite h.setPortState.portTrained h.setPortState)

theorem hbmTraining {failed : List StackId} {pprRows : List Nat} {portsUp : List PortId} {stuck : Option Nat}
    (h : Evolves d₀ d) : Evolves d₀ (hbmTrainingEff failed pprRows portsUp stuck d) :=
  .ite h (.ite h.startIslands.withSec (.nextStep (.foldl (h.startIslands.withSec.foldl (fun _ _ h => h.trainStack))
    (fun _ _ h => h.trainPort))))

theorem repairApply (h : Evolves d₀ d) : Evolves d₀ (repairApplyEff d) :=
  .ite h (.ite h.startIslands (.nextStep (.foldl (.foldl (h.startIslands.foldl (fun _ _ h => h.setFreq))
    (fun _ _ h => h.retireCore)) (fun _ _ h => h.mergeCores))))

theorem selfTest {fails : List (CoreId × Nat × Nat)} (h : Evolves d₀ d) : Evolves d₀ (selfTestEff fails d) :=
  .ite h (.nextStep (h.foldl (fun _ _ h => .ite h h.drew.drew.testResults)))

theorem identify (h : Evolves d₀ d) : Evolves d₀ d.identify := h.withSec

theorem identityDerive (h : Evolves d₀ d) : Evolves d₀ (identityDeriveEff d) :=
  .ite h (.mirrorAll (.trayCheck (.withSec (h.identify.foldl (fun _ _ h => h.setDieState)))))

/-! ### Machine/Security -/

theorem shutDown (h : Evolves d₀ d) : Evolves d₀ d.shutDown :=
  .foldl (.withWindows (h.foldl (fun _ _ h => h.kill))) fun _ _ h => h.revokePartner

theorem tokenActs {t : Signed} {perms : Nat} (h : Evolves d₀ d) : Evolves d₀ (d.tokenActs t perms) := by
  unfold Dev.tokenActs
  exact .ite (h.count.raiseRollback.burn (OnlyBlown.lifecycle_max _ _))
    (.ite (.burn h.count.raiseRollback.shutDown.withSec (OnlyBlown.lifecycle_max _ _))
      h.count.raiseRollback.shutDown.withSec)

theorem tokenPresent {via : TokenVia} {token : Signed} {body : TokenBody} (h : Evolves d₀ d) :
    Evolves d₀ (tokenPresentEff via token body d) :=
  .ite h (.ite h.tokenActs h.count.errFire)

theorem debugEntry (h : Evolves d₀ d) : Evolves d₀ (debugEntryEff d) := by
  unfold debugEntryEff
  split
  · exact h
  · exact .ite h (.ite h.withSec.identify.withRas.showService.histWrite h.withSec.identify)

theorem setAdmission {p : Nat} {a : Admission} (h : Evolves d₀ d) : Evolves d₀ (d.setAdmission p a) := h.withSec

theorem endAdmission {p : Nat} (h : Evolves d₀ d) : Evolves d₀ (d.endAdmission p) := h.withSec

theorem sendAdmit {port p op flags : Nat} {data : List Byte} (h : Evolves d₀ d) :
    Evolves d₀ (d.sendAdmit port p op flags data) :=
  h.sendMsg

theorem admitFails {p : Nat} {st : W16} (h : Evolves d₀ d) : Evolves d₀ (d.admitFails p st) :=
  h.endAdmission.count.errFire.devEvent

theorem admitRefuse {port p : Nat} (h : Evolves d₀ d) : Evolves d₀ (d.admitRefuse port p) := h.sendAdmit.admitFails

theorem sendProof {p : Nat} {a : Admission} (h : Evolves d₀ d) : Evolves d₀ (d.sendProof p a) := h.sendAdmit

theorem admitReq {p port : Nat} {encrypt : Bool} {nonce : BitVec 256} (h : Evolves d₀ d) :
    Evolves d₀ (admitReqEff p port encrypt nonce d) :=
  .ite h h.toBlock.drew.setAdmission.sendAdmit

theorem offer {port : Nat} {o : AdmitData} {nonce : BitVec 256} (h : Evolves d₀ d) :
    Evolves d₀ (offerEff port o nonce d) := by
  unfold offerEff
  split
  · exact h
  · exact .ite h.popMsg (.ite h.popMsg.admitRefuse h.popMsg.drew.setAdmission.sendAdmit.sendProof)

theorem answer {port : Nat} {o : AdmitData} (h : Evolves d₀ d) : Evolves d₀ (answerEff port o d) := by
  unfold answerEff
  split
  · exact h
  · dsimp only
    split
    · exact h.popMsg
    · exact .ite h.popMsg (.ite h.popMsg.admitRefuse h.popMsg.setAdmission.sendProof)

theorem admitDone {p : Nat} {a : Admission} (h : Evolves d₀ d) : Evolves d₀ (d.admitDone p a) :=
  h.noteEvent.drew.setPartner.withPorts.endAdmission.count.devEvent

theorem admitGo {p : Nat} {a : Admission} (h : Evolves d₀ d) : Evolves d₀ (d.admitGo p a) :=
  .ite h.admitDone h.setAdmission

theorem proof {port : Nat} {signature : List Byte} (h : Evolves d₀ d) : Evolves d₀ (proofEff port signature d) := by
  unfold proofEff
  split
  · exact h
  · dsimp only
    split
    · exact h.popMsg
    · split
      · exact h.popMsg
      · exact .ite h.popMsg (.ite h.popMsg.sendAdmit.admitGo h.popMsg.admitRefuse)

theorem done {port : Nat} {status : W16} (h : Evolves d₀ d) : Evolves d₀ (doneEff port status d) := by
  unfold doneEff
  split
  · exact h
  · dsimp only
    split
    · exact h.popMsg
    · exact .ite h.popMsg (.ite (.ite h.popMsg.admitGo h.popMsg) h.popMsg.admitFails)

theorem admitTimeout {p : Nat} (h : Evolves d₀ d) : Evolves d₀ (admitTimeoutEff p d) := .ite h.admitFails h

theorem revoke {p : Nat} (h : Evolves d₀ d) : Evolves d₀ (revokeEff p d) :=
  .ite (h.atBlock (fun _ h => h.noteEvent.revokePartner)) h

theorem fwCmd {hd : CmdHdr} {recovery : Bool} {f : Dev → Dev} (h : Evolves d₀ d)
    (hf : ∀ d, Evolves d₀ d → Evolves d₀ (f d)) : Evolves d₀ (d.fwCmd hd recovery f) :=
  .ite h.complete (.ite h.complete (.ite h.complete (hf _ h)))

theorem fwUpdateWrite {hd : CmdHdr} {offset : Nat} {data : List Byte} (h : Evolves d₀ d) :
    Evolves d₀ (fwUpdateWriteEff hd offset data d) :=
  h.fwCmd fun _ h => .ite h.complete h.bankWrite.complete

theorem fwUpdateVerify {hd : CmdHdr} {image : Signed} (h : Evolves d₀ d) : Evolves d₀ (fwUpdateVerifyEff hd image d) :=
  h.fwCmd fun _ h => h.bankVerify.complete

theorem fwUpdateActivate {hd : CmdHdr} (h : Evolves d₀ d) : Evolves d₀ (fwUpdateActivateEff hd d) :=
  h.fwCmd fun _ h => .ite h.bankActivate.complete h.complete

theorem fwUpdateCommit {hd : CmdHdr} (h : Evolves d₀ d) : Evolves d₀ (fwUpdateCommitEff hd d) :=
  h.fwCmd fun _ h => .ite h.raiseRollback.complete h.complete

theorem blobActs {hd : CmdHdr} {blob : Signed} {serial : W64} {refused : W16} {f : Dev → Dev} (h : Evolves d₀ d)
    (hf : Evolves d₀ (f d)) : Evolves d₀ (d.blobActs hd blob serial refused f) := by
  unfold Dev.blobActs
  exact .ite h.complete (.ite h.complete (.ite h.complete hf.raiseRollback.complete))

theorem revokeSlot {hd : CmdHdr} {blob : Signed} {serial : W64} {slot : Nat} (h : Evolves d₀ d) :
    Evolves d₀ (revokeSlotEff hd blob serial slot d) := by
  unfold revokeSlotEff
  exact h.fwCmd fun _ h => h.blobActs (h.burn (OnlyBlown.revoke _ _))

theorem ownerEnrol {hd : CmdHdr} {blob : Signed} {serial : W64} {root : BitVec 512} (h : Evolves d₀ d) :
    Evolves d₀ (ownerEnrolEff hd blob serial root d) := by
  unfold ownerEnrolEff
  refine h.fwCmd fun d h => .ite h.complete ?_
  split
  · exact h.complete
  · next hfree => exact h.blobActs (h.burn (OnlyBlown.enrol _ _ (by simpa using hfree)))

/-! ### Machine/Sequencer -/

theorem onInstr {core : Nat} {t : SlotIx} {op : Nat} {u : WordEcc} {f : Slot → W64 → Dev → Dev}
    (h : Evolves d₀ d) (hf : ∀ s w d, Evolves d₀ d → Evolves d₀ (f s w d)) : Evolves d₀ (d.onInstr core t op u f) := by
  unfold Dev.onInstr
  refine .ite h ?_
  split
  · exact h.taskFail
  · exact .ite (h.withWord (fun _ h => hf _ _ _ h)) h

theorem nextInstr {core : Nat} {t : SlotIx} (h : Evolves d₀ d) : Evolves d₀ (d.nextInstr core t) := h.goTo

theorem stallAt {core : Nat} {t : SlotIx} {k : Stall} (h : Evolves d₀ d) : Evolves d₀ (d.stallAt core t k) := h.modSlot

theorem nop {core : Nat} {t : SlotIx} {u : WordEcc} (h : Evolves d₀ d) : Evolves d₀ (nopEff core t u d) :=
  h.onInstr fun _ _ _ h => h.nextInstr

theorem addi {core : Nat} {t : SlotIx} {u : WordEcc} (h : Evolves d₀ d) : Evolves d₀ (addiEff core t u d) :=
  h.onInstr fun _ _ _ h => h.modSlot.nextInstr

theorem movi {core : Nat} {t : SlotIx} {u : WordEcc} (h : Evolves d₀ d) : Evolves d₀ (moviEff core t u d) :=
  h.onInstr fun _ _ _ h => h.modSlot.nextInstr

theorem setlen {core : Nat} {t : SlotIx} {u : WordEcc} (h : Evolves d₀ d) : Evolves d₀ (setlenEff core t u d) :=
  h.onInstr fun _ _ _ h => h.modSlot.nextInstr

theorem loop {core : Nat} {t : SlotIx} {u : WordEcc} (h : Evolves d₀ d) : Evolves d₀ (loopEff core t u d) :=
  h.onInstr fun _ _ _ h => h.modSlot.goTo

theorem brz {core : Nat} {t : SlotIx} {u : WordEcc} (h : Evolves d₀ d) : Evolves d₀ (brzEff core t u d) :=
  h.onInstr fun _ _ _ h => h.goTo

theorem loadg {core : Nat} {t : SlotIx} {u : WordEcc} (h : Evolves d₀ d) : Evolves d₀ (loadgEff core t u d) :=
  h.onInstr fun _ _ _ h => .ite h.taskFail h.modSlot.nextInstr

theorem wait {core : Nat} {t : SlotIx} {u : WordEcc} (h : Evolves d₀ d) : Evolves d₀ (waitEff core t u d) :=
  h.onInstr fun _ _ _ h => .ite h.modSlot.nextInstr h.stallAt.checkBlocked

theorem waitRelease {core : Nat} {t : SlotIx} (h : Evolves d₀ d) : Evolves d₀ (waitReleaseEff core t d) := by
  unfold waitReleaseEff
  dsimp only
  split
  · exact .ite h.modSlot.nextInstr h
  · exact h

theorem fence {core : Nat} {t : SlotIx} {u : WordEcc} (h : Evolves d₀ d) : Evolves d₀ (fenceEff core t u d) :=
  h.onInstr fun _ _ _ h => .ite h.nextInstr h.stallAt

theorem fenceRelease {core : Nat} {t : SlotIx} (h : Evolves d₀ d) : Evolves d₀ (fenceReleaseEff core t d) :=
  .ite h.nextInstr h

theorem claim {core : Nat} {t : SlotIx} {u : WordEcc} (h : Evolves d₀ d) : Evolves d₀ (claimEff core t u d) :=
  h.onInstr fun _ _ _ h => h.modSlot.stallAt

theorem startLoadw {core : Nat} {t : SlotIx} {sem off : Nat} (h : Evolves d₀ d) :
    Evolves d₀ (d.startLoadw core t sem off) := by
  unfold Dev.startLoadw
  exact .ite h.taskFail h.modSlot.nextInstr

theorem loadw {core : Nat} {t : SlotIx} {u : WordEcc} (h : Evolves d₀ d) : Evolves d₀ (loadwEff core t u d) :=
  h.onInstr fun _ _ _ h => .ite h.stallAt h.startLoadw

theorem loadwComplete {core : Nat} {t : SlotIx} (h : Evolves d₀ d) : Evolves d₀ (loadwCompleteEff core t d) := by
  unfold loadwCompleteEff
  dsimp only
  split
  · exact h
  · exact h.modSlot.semUp

theorem nameSeq {core : Nat} {t : SlotIx} {b : List Byte} (h : Evolves d₀ d) : Evolves d₀ (d.nameSeq core t b) := by
  unfold Dev.nameSeq
  refine .ite h ?_
  dsimp only
  split
  · exact h
  · exact h.modCluster.passRelease

theorem issueNow {core : Nat} {t : SlotIx} {w : W64} (h : Evolves d₀ d) : Evolves d₀ (d.issueNow core t w) := by
  unfold Dev.issueNow
  dsimp only
  split
  · exact h.stallAt
  · exact .nextInstr (.postStatus (.engineError (.ite (.errFire (.ite h.modSlot h)) (.ite h.modSlot h))))
  · exact h.nameSeq.count.postStatus.nextInstr
  · exact h.modSlot.nameSeq.nextInstr

theorem issue {core : Nat} {t : SlotIx} {u : WordEcc} (h : Evolves d₀ d) : Evolves d₀ (issueEff core t u d) :=
  h.onInstr fun _ _ _ h => h.issueNow

theorem issueStallEnd {core : Nat} {t : SlotIx} (h : Evolves d₀ d) : Evolves d₀ (issueStallEndEff core t d) := by
  unfold issueStallEndEff
  refine .ite h ?_
  split
  · exact h.issueNow
  · exact .ite h h.startLoadw
  · exact h

theorem gristStarved {core : Nat} {t : SlotIx} (h : Evolves d₀ d) : Evolves d₀ (gristStarvedEff core t d) := by
  unfold gristStarvedEff
  dsimp only
  split
  · exact .ite h h.modSlot.noteEvent.count.ctxEvent
  · exact h

theorem endProgram {core : Nat} {t : SlotIx} {u : WordEcc} (h : Evolves d₀ d) : Evolves d₀ (endProgramEff core t u d) :=
  h.onInstr fun _ _ _ h => .ite h.modSlot.modSlot h.modSlot.stallAt

theorem endCompletion {core : Nat} {t : SlotIx} (h : Evolves d₀ d) : Evolves d₀ (endCompletionEff core t d) :=
  .ite h.modSlot.count.modGyle h

/-! ### Machine/Signals -/

theorem polled {f : Dev → Dev} (h : Evolves d₀ d) (hf : ∀ d, Evolves d₀ d → Evolves d₀ (f d)) :
    Evolves d₀ (Machine.polled f d) :=
  .collPoll (hf _ h)

theorem completed {core : Nat} {t : SlotIx} {f : Dev → Dev} (h : Evolves d₀ d)
    (hf : ∀ d, Evolves d₀ d → Evolves d₀ (f d)) : Evolves d₀ (Machine.completed core t f d) :=
  .checkBlocked (h.polled (fun _ h => hf _ h))

/-! ### Machine/Tick -/

theorem countCycles (h : Evolves d₀ d) : Evolves d₀ d.countCycles := h.withIslands

theorem idleCountLimit {isl x : Nat} (h : Evolves d₀ d) : Evolves d₀ (idleCountLimitEff isl x d) :=
  .ite h (.modCtx (h.foldl (fun _ _ h => h.withMoves)))

theorem countIdle (h : Evolves d₀ d) : Evolves d₀ d.countIdle := h.withMoves

theorem unitTests (h : Evolves d₀ d) : Evolves d₀ d.unitTests := .ite h (h.foldl (fun _ _ h => h.unitTest))

theorem countHours (h : Evolves d₀ d) : Evolves d₀ d.countHours := .ite h h.withRas

theorem idleTick (h : Evolves d₀ d) : Evolves d₀ (Machine.idleTick d) :=
  h.countIdle.countCycles.countHours.ackEvents.unitTests

end Evolves

/-! ## Commands and steps -/

/-- Where the outcome of a command is a next state, its device has evolved from the one the command found. -/
def Answers (s : State) (o : Host.Outcome State Fault Refusal) : Prop := ∀ t, o = .next t → Evolves s.dev t.dev

namespace Answers

open Evolves (refl)

variable {s : State} {f : Dev → Dev}

theorem onDev (h : Evolves s.dev (f s.dev)) : Answers s (onDev s f) := by
  rintro _ ⟨⟩
  exact h

theorem onCmd (h : Evolves s.dev (f s.dev)) : Answers s (onCmd s f) := onDev h.schedule

theorem onIsland {isl : Nat} (h : Evolves s.dev (f s.dev)) : Answers s (onIsland s isl f) := by
  unfold Machine.onIsland
  split
  · rintro _ ⟨⟩
    exact refl
  · exact onDev h

theorem onCore {core : Nat} (h : Evolves s.dev (f s.dev)) : Answers s (onCore s core f) := onIsland (refl.ite h)

theorem onHub {cluster : Nat} (h : Evolves s.dev (f s.dev)) : Answers s (onHub s cluster f) := onIsland (refl.ite h)

theorem onNamed {isl : Isl} (h : Evolves s.dev (f s.dev)) : Answers s (onNamed s isl f) := by
  unfold Machine.onNamed
  split
  · rintro _ ⟨⟩
  · exact onIsland h

theorem onPair {src dst : Isl} (h : Evolves s.dev (f s.dev)) : Answers s (onPair s src dst f) := by
  unfold Machine.onPair
  split
  · rintro _ ⟨⟩
  · exact onNamed h

/-- Every command of the table keeps the relation. -/
theorem exec (c : Instr) : Answers s (exec c s) := by
  cases c with
  | nop => exact .onCore refl.nop
  | issue => exact .onCore (refl.polled fun _ h => h.issue)
  | issueStallEnd => exact .onCore (refl.polled fun _ h => h.issueStallEnd)
  | wait => exact .onCore refl.wait
  | waitRelease => exact .onCore refl.waitRelease
  | claim => exact .onCore refl.claim
  | claimRecord => exact .onCore (refl.polled fun _ h => h.claimRecord)
  | claimReply => exact .onCore refl.claimReply
  | loop => exact .onCore refl.loop
  | addi => exact .onCore refl.addi
  | brz => exact .onCore refl.brz
  | loadg => exact .onCore refl.loadg
  | setlen => exact .onCore refl.setlen
  | movi => exact .onCore refl.movi
  | fence => exact .onCore refl.fence
  | fenceRelease => exact .onCore refl.fenceRelease
  | loadw => exact .onCore refl.loadw
  | loadwComplete => exact .onCore (refl.polled fun _ h => h.loadwComplete)
  | endProgram => exact .onCore refl.endProgram
  | endCompletion => exact .onCore refl.endCompletion
  | weightPlaneFill => exact .onCore refl.weightPlaneFill
  | matrixTile => exact .onCore refl.matrixTile
  | arrayPass => exact .onCore refl.arrayPass
  | chainedConversion => exact .onCore refl.chainedConversion
  | vectorDescriptor => exact .onCore refl.vectorDescriptor
  | transpose => exact .onCore refl.transpose
  | fwdFirst => exact .onCore refl.fwdFirst
  | fwdNext => exact .onCore refl.fwdNext
  | fwdLast => exact .onCore refl.fwdLast
  | fwdOnly => exact .onCore refl.fwdOnly
  | recompute => exact .onCore refl.recompute
  | gather => exact .onCore refl.gather
  | scatter => exact .onCore refl.scatter
  | scatterAdd => exact .onCore refl.scatterAdd
  | compact => exact .onCore refl.compact
  | dispatch => exact .onCore refl.dispatch
  | combine => exact .onCore refl.combine
  | topk => exact .onCore refl.topk
  | sample => exact .onCore refl.sample
  | quantise => exact .onCore refl.quantise
  | bits8 => exact .onCore refl.bits8
  | bits16 => exact .onCore refl.bits16
  | bits32 => exact .onCore refl.bits32
  | uniform => exact .onCore refl.uniform
  | mask => exact .onCore refl.mask
  | normal => exact .onCore refl.normal
  | copyDescriptor => exact .onCore refl.copyDescriptor
  | descriptorCompletion => exact .onCore (refl.completed fun _ h => h.descriptorCompletion)
  | ticketClose => exact .onCore (refl.polled fun _ h => h.ticketClose)
  | ticketReturn => exact .onCore (refl.polled fun _ h => h.ticketReturn)
  | queueReset => exact .onHub refl.queueReset
  | tokenArrive => exact .onCore refl.tokenArrive
  | tokenForward => exact .onCore refl.tokenForward
  | creditReturn => exact .onCore refl.creditReturn
  | mov => exact .onCore refl.cellOp
  | add => exact .onCore refl.cellOp
  | sub => exact .onCore refl.cellOp
  | mul => exact .onCore refl.cellOp
  | fma => exact .onCore refl.cellOp
  | max => exact .onCore refl.cellOp
  | min => exact .onCore refl.cellOp
  | abs => exact .onCore refl.cellOp
  | neg => exact .onCore refl.cellOp
  | cmpgt => exact .onCore refl.cellOp
  | sel => exact .onCore refl.cellOp
  | rcp => exact .onCore refl.cellOp
  | rsqrt => exact .onCore refl.cellOp
  | exp2 => exact .onCore refl.cellOp
  | log2 => exact .onCore refl.cellOp
  | cvtDown => exact .onCore refl.cellOp
  | cvtUp => exact .onCore refl.cellOp
  | dup => exact .onCore refl.cellOp
  | steer => exact .onCore refl.cellOp
  | merge => exact .onCore refl.cellOp
  | count => exact .onCore refl.cellOp
  | acc => exact .onCore refl.cellOp
  | inRing => exact .onCore (refl.polled fun _ h => h.inRing)
  | outRing => exact .onCore (refl.polled fun _ h => h.outRing)
  | semIn => exact .onCore (refl.polled fun _ h => h.semIn)
  | lenOut => exact .onCore refl.lenOut
  | idleCountLimit => exact .onNamed refl.idleCountLimit
  | stallProbeReply => exact .onNamed refl.stallProbeReply
  | sampleRecord => exact .onNamed refl.sampleRecord
  | hubAccess => exact .onHub refl.hubAccess
  | scrubStep => exact .onDev refl.scrubStep
  | gristFetch => exact .onHub refl.gristFetch
  | gristStarved => exact .onCore refl.gristStarved
  | frameZeroed => exact .onDev refl.frameZeroed
  | objCreate => exact .onCmd refl.objCreate
  | objAttach => exact .onCmd refl.objAttach
  | objRelease => exact .onCmd refl.objRelease
  | objMoveUp => exact .onCmd refl.objMoveUp
  | objMoveDown => exact .onCmd refl.objMoveDown
  | moveComplete => exact .onDev refl.moveComplete
  | fnAssign => exact .onCmd refl.fnAssign
  | ctxLoad => exact .onCmd refl.ctxLoad
  | ctxUnload => exact .onCmd refl.ctxUnload
  | ctxKill => exact .onCmd refl.ctxKill
  | ctxResume => exact .onCmd refl.ctxResume
  | ctxSet => exact .onCmd refl.ctxSet
  | tasksStopped => exact .onDev refl.tasksStopped
  | spargeComplete => exact .onDev refl.spargeComplete
  | quantumExpiry => exact .onDev refl.quantumExpiry
  | preemptRequest => exact .onCore refl.preemptRequest
  | slotYield => exact .onCore refl.slotYield
  | preemptOverrun => exact .onCore refl.preemptOverrun
  | swapOutComplete => exact .onDev refl.swapOutComplete
  | swapInComplete => exact .onDev refl.swapInComplete
  | gyleBegin => exact .onCmd refl.gyleBegin
  | gyleAbort => exact .onCmd refl.gyleAbort
  | gyleDecide => exact .onCmd refl.gyleDecide
  | gyleResolve => exact .onCmd refl.gyleResolve
  | gyleReplay => exact .onCmd refl.gyleReplay
  | gyleStart => exact .onDev refl.gyleStart
  | captureComplete => exact .onDev refl.captureComplete
  | vote => exact .onDev refl.vote
  | gyleVote => exact .onDev refl.gyleVote
  | gyleDecideMessage => exact .onDev refl.gyleDecideMessage
  | voteDeadline => exact .onDev refl.voteDeadline
  | decideTimeout => exact .onDev refl.decideTimeout
  | gyleCommitApply => exact .onDev refl.gyleCommitApply
  | gyleAbortApply => exact .onDev refl.gyleAbortApply
  | linkWordSend => exact .onDev refl.linkWordSend
  | groupReceive => exact .onDev refl.groupReceive
  | retryTimeout => exact .onDev refl.retryTimeout
  | portTrained => exact .onDev refl.portTrained
  | partnerLookup => exact .onDev refl.partnerLookup
  | write => exact .onDev (refl.polled fun _ h => h.write)
  | wack => exact .onDev (refl.polled fun _ h => h.wack)
  | nack => exact .onDev refl.nack
  | collData => exact .onDev refl.collData
  | collCts => exact .onDev refl.collCts
  | winOpen => exact .onCmd refl.winOpen
  | winClose => exact .onCmd refl.winClose
  | windowCloseDrained => exact .onDev refl.windowCloseDrained
  | spillRedirect => exact .onDev refl.spillRedirect
  | copyIn => exact .onDev refl.copyIn
  | heldWriteRelease => exact .onDev (refl.polled fun _ h => h.heldWriteRelease)
  | sendFire => exact .onCore refl.sendFire
  | sendResend => exact .onDev refl.sendResend
  | writeTimeout => exact .onDev refl.answerTimeout
  | collectiveStart => exact .onCore refl.collectiveStart
  | collDeadline => exact .onDev refl.collDeadline
  | layoutSet => exact .onCmd refl.layoutSet
  | coreTestDue => exact .onDev refl.coreTestDue
  | coreTestStart => exact .onDev refl.coreTestStart
  | coreTestComplete => exact .onCore refl.coreTestComplete
  | digestPass => exact .onNamed refl.digestPass
  | calOverlayAdd => exact .onCmd refl.calOverlayAdd
  | calOverlayRemove => exact .onCmd refl.calOverlayRemove
  | testRequest => exact .onCmd refl.testRequest
  | testpackLoad => exact .onCmd refl.testpackLoad
  | resilSet => exact .onCmd refl.resilSet
  | caskHost => exact .onCmd refl.caskHost
  | caskRelease => exact .onCmd refl.caskRelease
  | caskSchedule => exact .onCmd refl.caskSchedule
  | caskDrain => exact .onDev refl.caskDrain
  | caskWrite => exact .onDev refl.caskWrite
  | caskSeal => exact .onDev refl.caskSeal
  | caskRead => exact .onDev refl.caskRead
  | caskRdata => exact .onDev refl.caskRdata
  | caskLost => exact .onDev refl.caskLost
  | caskSched => exact .onDev refl.caskSched
  | caskReport => exact .onDev refl.caskReport
  | ckptExport => exact .onCmd refl.ckptExport
  | restore => exact .onCmd refl.restore
  | rackBegin => exact .onCmd refl.rackBegin
  | rackData => exact .onDev refl.rackData
  | rackComplete => exact .onDev refl.rackComplete
  | rackTimeout => exact .onDev refl.rackTimeout
  | crossingTransfer => exact .onPair refl.crossingTransfer
  | crossingEvent => exact .onPair refl.crossingEvent
  | resetNotice => exact .onPair refl.resetNotice
  | crossingTimeout => exact .onPair refl.crossingTimeout
  | frequencyChange => exact .onNamed refl.frequencyChange
  | droopStart => exact .onNamed refl.droopStart
  | droopEnd => exact .onNamed refl.droopEnd
  | registerWrite => exact .onDev refl.registerWrite
  | errStatusClear => exact .onDev refl.errStatusClear
  | counterLowRead => exact .onDev refl.counterLowRead
  | stageGenWrite => exact .onDev refl.stageGenWrite
  | winDataWrite => exact .onDev refl.winDataWrite
  | probeSelect => exact .onDev refl.probeSelect
  | probeAnswer => exact .onIsland refl.probeAnswer
  | mirrorUpdate => exact .onDev refl.mirrorUpdate
  | counterSnapshot => exact .onDev refl.counterSnapshot
  | memwinRead => exact .onDev refl.memwinRead
  | memwinWrite => exact .onDev refl.memwinWrite
  | sqTail => exact .onDev refl.sqTail
  | cqHead => exact .onDev refl.cqHead
  | eqHead => exact .onDev refl.eqHead
  | commandFetch => exact .onDev refl.commandFetch
  | completionPost => exact .onDev refl.completionPost
  | coalesceTimeout => exact .onDev refl.coalesceTimeout
  | queueCreate => exact .onCmd refl.queueCreate
  | queueDelete => exact .onCmd refl.queueDelete
  | hostRegister => exact .onCmd refl.hostRegister
  | hostUnregister => exact .onCmd refl.hostUnregister
  | copy => exact .onCmd refl.copy
  | copyPiece => exact .onDev refl.copyPiece
  | pcieCompletionTimeout => exact .onDev refl.pcieCompletionTimeout
  | functionLevelReset => exact .onDev refl.functionLevelReset
  | d3hotRequest => exact .onDev refl.d3hotRequest
  | mctpMessage => exact .onDev refl.mctpMessage
  | pldmPowerCapWrite => exact .onDev refl.pldmPowerCapWrite
  | spdmRequest => exact .onDev refl.spdmRequest
  | ideKmRequest => exact .onDev refl.ideKmRequest
  | sysRstNDeassert => exact .onDev refl.sysRstNDeassert
  | fuseCheck => exact .onDev refl.fuseCheck
  | firmwareVerify => exact .onDev refl.firmwareVerify
  | supervisorStart => exact .onDev refl.supervisorStart
  | dieLinkTraining => exact .onDev refl.dieLinkTraining
  | hbmTraining => exact .onDev refl.hbmTraining
  | selfTest => exact .onDev refl.selfTest
  | tokenPresent => exact .onDev refl.tokenPresent
  | admitReq => exact .onDev refl.admitReq
  | offer => exact .onDev refl.offer
  | answer => exact .onDev refl.answer
  | proof => exact .onDev refl.proof
  | done => exact .onDev refl.done
  | admitTimeout => exact .onDev refl.admitTimeout
  | revoke => exact .onDev refl.revoke
  | fwUpdateWrite => exact .onCmd refl.fwUpdateWrite
  | fwUpdateVerify => exact .onCmd refl.fwUpdateVerify
  | fwUpdateActivate => exact .onCmd refl.fwUpdateActivate
  | fwUpdateCommit => exact .onCmd refl.fwUpdateCommit
  | revokeSlot => exact .onCmd refl.revokeSlot
  | ownerEnrol => exact .onCmd refl.ownerEnrol
  | applyRequest => exact .onDev refl.applyRequest
  | applyDiscard => exact .onDev refl.applyDiscard
  | applyPrepare => exact .onNamed refl.applyPrepare
  | applyReady => exact .onNamed refl.applyReady
  | applySwap => exact .onNamed refl.applySwap
  | applyDone => exact .onNamed refl.applyDone
  | drainTimeout => exact .onNamed refl.drainTimeout
  | drainFail => exact .onNamed refl.drainFail
  | applyAbort => exact .onNamed refl.applyAbort
  | powerTick => exact .onDev refl.powerTick
  | vrRegulationTimeout => exact .onDev refl.vrRegulationTimeout
  | powerCapWrite => exact .onDev refl.powerCapWrite
  | thermalSample => exact .onDev refl.thermalSample
  | thermtrip => exact .onDev refl.thermtrip
  | tapEnableWrite => exact .onDev refl.tapEnableWrite
  | pcieLinkTrained => exact .onDev refl.pcieLinkTrained
  | vfEnableWrite => exact .onDev refl.vfEnableWrite
  | jtagInstruction => exact .onDev refl.jtagInstruction
  | dynamicAddressAssignment => exact .onDev refl.dynamicAddressAssignment
  | caskDrainTimeout => exact .onDev refl.caskDrainTimeout
  | objectMoveFrame => exact .onDev refl.objectMoveFrame
  | operatingHour => exact .onDev refl.operatingHour
  | sysRstNAssert => exact .onDev refl.sysRstNAssert
  | pwrOkDeassert => exact .onDev refl.pwrOkDeassert
  | perstAssert => exact .onDev refl.perstAssert
  | perstDeassert => exact .onDev refl.perstDeassert
  | repairApply => exact .onDev refl.repairApply
  | identityDerive => exact .onDev refl.identityDerive
  | debugEntry => exact .onDev refl.debugEntry
  | applyTake => exact .onDev refl.applyTake
  | applyTimeout => exact .onDev refl.applyTimeout
  | pwrOkAssert => exact .onDev refl.pwrOkAssert
  | powerLoss => exact .onDev refl.powerLoss

end Answers

theorem step_evolves {s t : State} (h : step s = .next t) : Evolves s.dev t.dev := by
  unfold step at h
  split at h
  · cases h
    exact Evolves.refl.idleTick
  · next c rest _ => exact @Answers.exec { s with pending := rest } c t h

/-- Settles O5: the memories of the device after a step have evolved from those before it. -/
theorem everyStepKeepsMemoriesGood : Obligations.EveryStepKeepsMemoriesGood := by
  intro s t hgood hstep
  have h := step_evolves hstep
  exact ⟨h.hbm hgood.hbm, h.host hgood.host⟩

end Sys2Proof.Machine

/-! # O21: routers move tokens under credits

Each command of a router is a core's command: on a clocked island in service it answers its effect on the device. The
effects have one equation per case of the statement: a token that enters and one that is discarded (R155, R159, R172), a
token that is forwarded and a route that stops (R158, R172), a credit that comes home and one that meets a closed
crossing (R17). -/

namespace Sys2Proof.Machine

open Sys2Proof.Claims

variable {d : Dev} {core i port : Nat}

/-- A core on a clocked island, on a device not in the error state, answers its effect (R329, R479). -/
theorem onCore_of_serving {p : List Instr} {f : Dev → Dev} {t : Dev} (h : Serving d (islOfCore core)) (heff : f d = t) :
    onCore ⟨p, d⟩ core f = .next ⟨p, t⟩ := by
  obtain ⟨hclocked, hstate⟩ := h
  simp [onCore, onIsland, onDev, Dev.inService, hclocked, hstate, heff]

/-! ## Arrival -/

/-- The device once the oldest token on its way to an input port has come in, the rest still on their way. -/
def Dev.inboundLeft (d : Dev) (core i port : Nat) (rest : List Token) : Dev :=
  d.setCell core i ((d.cell core i).setComing port rest)

section Arrive

variable {k : Token} {rest : List Token}
  (hcoming : (d.cell core i).coming port = k :: rest) (hroom : ((d.cell core i).queue port).length < 8)

include hcoming hroom

/-- A token with bad parity that finds room is discarded: its credit goes back and the cell records event 3. -/
theorem tokenArriveEff_discards_badParity :
    tokenArriveEff core i port true d
      = ((d.inboundLeft core i port rest).creditBack core i port).cellEvent core i 3 k.stream := by
  simp [tokenArriveEff, hcoming, hroom, Dev.inboundLeft]

/-- A good token of its stream's epoch that finds room enters the queue. -/
theorem tokenArriveEff_enters
    (hepoch : ((d.inboundLeft core i port rest).core core).epochAt i k.stream = some k.epoch) :
    tokenArriveEff core i port false d =
      ((d.inboundLeft core i port rest).modCell core i
        (fun x => x.setQueue port (x.queue port ++ [k]))).moved core
          ((d.inboundLeft core i port rest).cellSlot core i) := by
  rw [Dev.inboundLeft] at hepoch ⊢
  simp [tokenArriveEff, hcoming, Nat.not_le.mpr hroom, hepoch]

end Arrive

/-! ## Forwarding -/

/-- The input port and token whose turn on an output link it is. -/
def CellSt.contender (c : CellSt) (port : Nat) : Option (Nat × Token) :=
  (rotation 6 (c.served port)).findSome? (fun p =>
    if p = port ∨ p = 5 then none else (c.forwardable p port).map (fun k => (p, k)))

/-- Under a credit the token whose turn it is goes on, or its route stops where the entry's parity fails. -/
theorem tokenForwardEff_of_contender {inp : Nat} {k : Token} (hcredit : d.hasCredit core i port = true)
    (hturn : (d.cell core i).contender port = some (inp, k)) (tableBad : Bool) :
    tokenForwardEff core i port tableBad d =
      if tableBad then d.stopRoute core i k.stream
      else ((d.takeToken core i inp k.stream).modCell core i (fun s => s.setServed port inp)).sendToken core i port k := by
  rw [CellSt.contender] at hturn
  simp [tokenForwardEff, hcredit, hturn]

/-! ## Credits -/

/-- A credit home at its cell: one fewer on its way and one fewer spent. -/
def Dev.creditHome (d : Dev) (core i port : Nat) : Dev :=
  d.modCell core i (fun c => (c.setBack port (c.backOn port - 1)).setSpent port (c.spentOn port - 1))

section Credit

variable (hback : (d.cell core i).backOn port ≠ 0)

include hback

/-- A credit of the core's own link crosses nothing. -/
theorem creditReturnEff_of_noWay (hway : creditWay core i port = none) :
    creditReturnEff core i port d = d.creditHome core i port := by
  simp [creditReturnEff, hback, hway, Dev.creditHome]

/-- A credit of a link between cells travels the link's way, where that is open. -/
theorem creditReturnEff_of_way {n j : Nat} {way : List Nat} (hway : creditWay core i port = some (n, j, way)) :
    creditReturnEff core i port d =
      if d.pathOpen way then (d.linkTravel n j (farPort port) way).creditHome core i port else d := by
  simp [creditReturnEff, hback, hway, Dev.creditHome]

end Credit

/-! ## The statement -/

/-- Settles O21: on a serving core each router command answers its effect, and each case is that effect's equation. -/
theorem routersMoveTokens : Obligations.RoutersMoveTokens := by
  intro p d core i port hserving
  refine ⟨fun k rest hcoming hroom => ⟨?badParity, fun hepoch => ?enters⟩,
    fun inp k hcredit hturn => ⟨?forwarded, ?stopped⟩,
    fun hback => ⟨fun hway => ?ownLink, fun n j way hway => ⟨fun hopen => ?openWay, fun hclosed => ?closedWay⟩⟩⟩
  case badParity => exact onCore_of_serving hserving (tokenArriveEff_discards_badParity hcoming hroom)
  case enters => exact onCore_of_serving hserving (tokenArriveEff_enters hcoming hroom hepoch)
  case forwarded => exact onCore_of_serving hserving (tokenForwardEff_of_contender hcredit hturn false)
  case stopped => exact onCore_of_serving hserving (tokenForwardEff_of_contender hcredit hturn true)
  case ownLink => exact onCore_of_serving hserving (creditReturnEff_of_noWay hback hway)
  case openWay => exact onCore_of_serving hserving ((creditReturnEff_of_way hback hway).trans (if_pos hopen))
  case closedWay =>
    have hshut : ¬ d.pathOpen way = true := Bool.eq_false_iff.mp hclosed
    exact onCore_of_serving hserving ((creditReturnEff_of_way hback hway).trans (if_neg hshut))

end Sys2Proof.Machine

/-! # O17: the matrix array fills its planes and runs its tiles

The commands of the array are a core's commands, so on a serving core each answers its effect on the device. A fill is
one equation for every source and every finding of the scratchpad's code: the cases of the statement are its branches. The
one frame fact that the statement needs is that a chained conversion writes no slot. -/

namespace Sys2Proof.Machine

variable {d : Dev} {core : Nat} {t : SlotIx}

/-! ## Filling a plane -/

/-- The sources of a slot's planes in the order in which they are filled: the LOADWs that their tile consumed before
their last byte was copied, then those that tiles are yet to need (R93, R495). -/
def Slot.fillSources (s : Slot) : List WSource :=
  (s.loadws.filter (fun l => l.consumed && !l.done)).map (fun l => WSource.loadw l.id)
    ++ fillOrder s.descs (s.loadws.filter (fun l => !l.consumed))

/-- The first source of a slot that has bytes to copy, with their position and contents. -/
def Dev.nextFill (d : Dev) (core : Nat) (t : SlotIx) : Option (WSource × Nat × List Byte) :=
  (d.slot core t).fillSources.findSome? (fun src => (d.fillBytes core t src).map (fun x => (src, x)))

/-- A slot whose plane has taken bytes of a source: a LOADW that its tile has consumed is copied into no plane. -/
def Slot.takeFill (src : WSource) (pos : Nat) (bs : List Byte) (s : Slot) : Slot :=
  { s with
    planes := if s.loadws.any (fun l => WSource.loadw l.id == src && l.consumed) then s.planes
      else s.planes ++ [{ source := src, start := pos, bytes := bs }]
    loadws := s.loadws.map (fun l => if WSource.loadw l.id = src then { l with copied := pos + bs.length } else l) }

/-- The device once a plane has been filled: only what a LOADW copies passes the code of the scratchpad. -/
def Dev.fillFrom (d : Dev) (core : Nat) (t : SlotIx) (src : WSource) (pos : Nat) (bs : List Byte) (u : WordEcc) : Dev :=
  match src, u with
  | .loadw _, .corrected => (d.wordCorrected core t 0 .scratchpad).modSlot core t (Slot.takeFill src pos bs)
  | .loadw _, .uncorrected => d.fillBad core t
  | _, _ => d.modSlot core t (Slot.takeFill src pos bs)

theorem Dev.fillFrom_clean (src : WSource) (pos : Nat) (bs : List Byte) :
    d.fillFrom core t src pos bs .clean = d.modSlot core t (Slot.takeFill src pos bs) := by
  cases src <;> rfl

/-- Once the planes that the loader has read are returned, a slot with a free plane fills it from its next source. -/
theorem Dev.fillPlane_of_nextFill {src : WSource} {pos : Nat} {bs : List Byte}
    (hvalid : ((d.modSlot core t Slot.reap).slot core t).valid = true)
    (hfree : ((d.modSlot core t Slot.reap).slot core t).planes.length < 2)
    (hnext : (d.modSlot core t Slot.reap).nextFill core t = some (src, pos, bs)) (u : WordEcc) :
    d.fillPlane core t u = (d.modSlot core t Slot.reap).fillFrom core t src pos bs u := by
  unfold Dev.fillPlane
  generalize d.modSlot core t Slot.reap = d1 at hvalid hfree hnext ⊢
  have hroom : ¬ (!(d1.slot core t).valid || decide (2 ≤ (d1.slot core t).planes.length)) = true := by
    simp [hvalid, hfree]
  rw [Dev.nextFill, Slot.fillSources] at hnext
  dsimp only
  rw [if_neg hroom, hnext]
  cases src <;> cases u <;> rfl

/-! ## Starting a tile -/

/-- A tile at its first pass. -/
def TileRun.start (q : QDesc) (src : WSource) (hdr : List Byte) (width : Nat) : TileRun :=
  { npass := 0, pass := 0, hdr := hdr, wpos := npassStart q.bytes hdr width 0, source := src, sub := 0, strips := []
    opened := false, amax := .fin false ⟨0, 0⟩, drained := false, converted := false, cycles := 0 }

/-- A tile that finds its sequence's header in the weight buffer, and in agreement with it, starts. -/
theorem matrixTileEff_starts {q : QDesc} {src : WSource} {hdr : List Byte}
    (htile : (d.slot core t).tileDesc = some q) (hidle : (d.slot core t).tile = none)
    (hwork : d.startsWork core t = true) (hsound : d.unrepairable core = false)
    (hsequence : opTarget (dN q.bytes 0x14 4) = 7 ∨ ∃ l, (d.slot core t).nextSeq = some l
      ∧ l.offset = opOffset (dN q.bytes 0x14 4) ∧ 64 ≤ l.length)
    (hsrc : tileSource q.bytes (d.slot core t).nextSeq = some src)
    (hread : (d.slot core t).planeRead src 0 64 = some hdr)
    (hagrees : headerOk q.bytes hdr (foldWidth (d.slot core t).kind) = true) :
    matrixTileEff core t d =
      let r := TileRun.start q src hdr (foldWidth (d.slot core t).kind)
      ((d.countNbrs core t q.bytes).modSlot core t (fun s =>
        { (s.modTileDesc (fun q => { q with st := .running })) with tile := some r })).openTile core t q r := by
  obtain hgrist | ⟨l, hl, hoffset, hlength⟩ := hsequence
  · simp [matrixTileEff, htile, hidle, hwork, hsound, hgrist, hsrc, hread, hagrees, TileRun.start]
  · rw [hl] at hsrc
    simp [matrixTileEff, htile, hidle, hwork, hsound, hl, hoffset, Nat.not_lt.mpr hlength, hsrc, hread, hagrees,
      TileRun.start]

/-! ## Running a pass -/

/-- A tile whose N-pass is open runs the pass whose block is in the weight buffer. -/
theorem arrayPassEff_runs {q : QDesc} {r : TileRun} {entry : List Byte} (u : ArrayUpset)
    (htile : (d.slot core t).tileDesc = some q) (hrun : (d.slot core t).tile = some r) (hleft : r.drained = false)
    (hstays : d.openTile core t q r = d) (hopen : r.opened = true)
    (hread : (d.slot core t).planeRead r.source (passStart q.bytes r.hdr (foldWidth (d.slot core t).kind) r.npass r.pass)
      (entryBytes (dInFmt q.bytes) (dInMx q.bytes) (dSparsity q.bytes) (foldWidth (d.slot core t).kind)) = some entry)
    (horder : dSparsity q.bytes = 1 → indexOrderOk (foldWidth (d.slot core t).kind) entry = true) :
    arrayPassEff core t u d = d.runPass core t q r entry u := by
  have hsound : ¬ (dSparsity q.bytes = 1 ∧ indexOrderOk (foldWidth (d.slot core t).kind) entry = false) :=
    fun ⟨hsparse, hbad⟩ => by simp [horder hsparse] at hbad
  simp [arrayPassEff, htile, hrun, hleft, hstays, hopen, hread, hsound]

/-! ## The chained conversion

A conversion writes operands, which lie in scratchpads and the accumulator: the slots, and so the descriptor of the tile
that drained, stay as they are while it runs. -/

section Frame

variable {n : Nat} {x : SlotIx}

/-- A core whose slots an update leaves as they were. -/
theorem Dev.slot_modCore_of_slots {f : Core → Core} (hf : ∀ c, (f c).slots = c.slots) (m : Nat) :
    (d.modCore m f).slot n x = d.slot n x := by
  by_cases h : n = m
  · subst h
    simp [Dev.slot, Dev.modCore, hf]
  · simp [Dev.slot, Dev.modCore, Dev.core_setCore_ne d _ h]

@[simp] theorem Dev.slot_count (key k : Nat) : (d.count key k).slot n x = d.slot n x := by
  unfold Dev.count
  split <;> rfl

@[simp] theorem Dev.slot_engineCount (engine off k : Nat) : (d.engineCount core engine off k).slot n x = d.slot n x := by
  unfold Dev.engineCount
  split
  · exact Dev.slot_count _ k
  · rfl

@[simp] theorem Dev.slot_opWrite (target off : Nat) (bs : List Byte) :
    (d.opWrite core t target off bs).slot n x = d.slot n x := by
  unfold Dev.opWrite
  dsimp only
  split <;> exact Dev.slot_modCore_of_slots (by exact fun _ => rfl) _

@[simp] theorem Dev.slot_fieldWrite (b : List Byte) (field off : Nat) (bs : List Byte) :
    (d.fieldWrite core t b field off bs).slot n x = d.slot n x :=
  Dev.slot_opWrite _ _ bs

@[simp] theorem Dev.slot_rowStore (b : List Byte) (field off w full : Nat) (xs : List Nat) :
    (d.rowStore core t b field off w full xs).slot n x = d.slot n x := by
  unfold Dev.rowStore
  dsimp only
  split <;> exact Dev.slot_fieldWrite b field off _

@[simp] theorem Dev.slot_convRow (o : ConvOut) (c : Conv) (engine : Nat) (b : List Byte) (e : Option Int)
    (dst dstOff full scales scaleOff index : Nat) (xs : List Num) :
    (o.row c engine core t b e dst dstOff full scales scaleOff index xs).d.slot n x = o.d.slot n x := by
  unfold ConvOut.row
  split <;> simp

theorem Dev.slot_foldl_conv {f : ConvOut → Nat → ConvOut} (hf : ∀ o m, (f o m).d.slot n x = o.d.slot n x) (o : ConvOut)
    (ms : List Nat) : (ms.foldl f o).d.slot n x = o.d.slot n x :=
  List.foldlRecOn (motive := fun a => a.d.slot n x = o.d.slot n x) ms f rfl (fun a ha m _ => (hf a m).trans ha)

@[simp] theorem Dev.slot_chain (q : QDesc) (r : TileRun) : (d.chain core t q r).1.slot n x = d.slot n x := by
  unfold Dev.chain
  dsimp only
  split <;> simp [Dev.slot_foldl_conv]

end Frame

/-- What changes the first that is found depends on that one alone. -/
theorem modFirst_congr {α : Type} {p : α → Bool} {f g : α → α} {a : α} {l : List α} (hfind : l.find? p = some a)
    (hsame : f a = g a) : modFirst p f l = modFirst p g l := by
  induction l with
  | nil => rfl
  | cons x l ih =>
    cases hx : p x
    · rw [List.find?_cons_of_neg (by simp [hx])] at hfind
      simp [modFirst, hx, ih hfind]
    · rw [List.find?_cons_of_pos hx] at hfind
      cases hfind
      simp [modFirst, hx, hsame]

theorem Slot.modTileDesc_congr {s : Slot} {q : QDesc} {f g : QDesc → QDesc} (htile : s.tileDesc = some q)
    (hsame : f q = g q) : s.modTileDesc f = s.modTileDesc g := by
  simp only [Slot.modTileDesc, modFirst_congr htile hsame]

/-- A drained tile whose values go on converts them and ends with SUCCESS; the descriptor that takes the health counts
is the one that drained, since the conversion leaves the slot's descriptors as they are. -/
theorem chainedConversionEff_converts {q : QDesc} {r : TileRun}
    (htile : (d.slot core t).tileDesc = some q) (hrun : (d.slot core t).tile = some r) (hdrained : r.drained = true)
    (honce : r.converted = false) (hout : dOutEn q.bytes = true) :
    chainedConversionEff core t .none d =
      ((d.chain core t q r).1.engineCount core 1 0x820 1).modSlot core t
        (fun s => (s.modTileDesc (fun q => { q with health := (d.chain core t q r).2 })).endTile 0) := by
  have hkept : (((d.chain core t q r).1.engineCount core 1 0x820 1).slot core t).tileDesc = some q := by
    simp [htile]
  have heff : chainedConversionEff core t .none d =
      ((d.chain core t q r).1.engineCount core 1 0x820 1).modSlot core t
        (fun s => (s.modTileDesc (fun k => { k with health := (d.chain core t q r).2 })).endTile 0) := by
    simp [chainedConversionEff, htile, hrun, hdrained, honce, hout, upsetStatus, Dev.upsetNote]
  rw [heff]
  exact congrArg (fun s => Dev.setSlot _ core t (Slot.endTile s 0)) (Slot.modTileDesc_congr hkept rfl)

/-! ## The statement -/

/-- Settles O17: on a serving core each command of the array answers its effect, and each case is that effect's
equation. -/
theorem arrayCommandsComplete : Obligations.ArrayCommandsComplete := by
  intro p d core x hserving
  refine ⟨fun src pos bs hvalid hfree hnext => ?fill,
    fun q src hdr htile hidle hwork hsound hsequence hsrc hread hagrees => ?start,
    fun q r u entry htile hrun hleft hstays hopen hread horder => ?pass,
    fun q r htile hrun hdrained honce hout => ?chained⟩
  case fill =>
    have hfill := Dev.fillPlane_of_nextFill hvalid hfree hnext
    refine ⟨onCore_of_serving hserving ((hfill .clean).trans (Dev.fillFrom_clean src pos bs)), ?loadw, ?grist⟩
    case loadw =>
      rintro ⟨id, rfl⟩
      exact ⟨onCore_of_serving hserving (hfill .corrected), onCore_of_serving hserving (hfill .uncorrected)⟩
    case grist =>
      rintro ⟨st, n, rfl⟩ u
      exact onCore_of_serving hserving (hfill u)
  case start =>
    exact onCore_of_serving hserving
      (matrixTileEff_starts htile hidle hwork hsound hsequence hsrc hread hagrees)
  case pass =>
    exact onCore_of_serving hserving (arrayPassEff_runs u htile hrun hleft hstays hopen hread horder)
  case chained =>
    exact onCore_of_serving hserving (chainedConversionEff_converts htile hrun hdrained honce hout)

end Sys2Proof.Machine

/-! # O47: the register mirror, the latch of a counter and the memory window

Each command answers its effect on the device, and each effect has one equation for the states in which it acts: an
update or a snapshot whose way to the mirror is open (R396, R446), an access of the host where it reaches the device
(R81, R398). -/

namespace Sys2Proof.Machine

variable {d : Dev}

/-! ## Updates and snapshots -/

/-- The words that change with a word, updated together. -/
theorem mirrorUpdateEff_of_updates {offset : Nat} {pg : PageAt} (hpage : pageOfKey offset = some pg)
    (hword : offset % 0x1000 < 0x800) (hopen : d.updates pg.island = true) (parityBad : Bool) :
    mirrorUpdateEff offset parityBad d =
      let sent := ((updateOf offset).foldl Dev.mirrorWord d).toMirror pg.island
      if parityBad then sent.errFire (hostifKey 0) 4 4 else sent := by
  simp [mirrorUpdateEff, hpage, Nat.not_le.mpr hword, hopen, Dev.hostErr]

/-- The counters of a page, in one snapshot. -/
theorem counterSnapshotEff_of_updates {page : Nat} {pg : PageAt} (haligned : page % 0x1000 = 0)
    (hpage : pageOfKey page = some pg) (hopen : d.updates pg.island = true) :
    counterSnapshotEff page d =
      (((pg.kind.regs.filter (fun r => decide (0x800 ≤ r.off))).map (fun r => page + r.off)).foldl
        (fun d k => d.setMirror k (d.live k)) d).toMirror pg.island := by
  have hbase : page / 0x1000 * 0x1000 = page := Nat.div_mul_cancel (Nat.dvd_of_mod_eq_zero haligned)
  simp [counterSnapshotEff, hbase, hpage, hopen]

/-! ## Reads of a counter -/

/-- A read of a counter's low word latches the high word that the mirror shows. -/
theorem counterLowReadEff_latches {key : Nat} (hup : d.hostUp = true) (hkey : windowKey 0 key = some key)
    (hcounter : 0x800 ≤ key % 0x1000) (hlow : key % 8 = 0) (hrow : (regRow key).isSome = true) :
    counterLowReadEff key d =
      let d1 := d.count (hostifKey 0x800) 1
      { d1 with latch := tset d1.latch (key + 4) (d1.mirrored (key + 4)) } := by
  have haligned : key % 4 = 0 := by omega
  simp [counterLowReadEff, hup, haligned, hkey, hcounter, hlow, hrow]

/-! ## The memory window -/

/-- The bytes that a read of the memory window answers, held for the host. -/
def Dev.answerMemwin (d : Dev) (bs : List Byte) : Dev := { d with host := { d.host with memwinData := bs } }

section Window

variable {offset : Nat} (hup : d.hostUp = true)

include hup

/-- A read that the window shows answers what the hub reads, where that delivers data. -/
theorem memwinReadEff_of_good (len : Nat) (u : ReadUpset) (hgood : d.memwinGood offset len false = true)
    (hopen : d.hostMemOpen (d.memwinAt offset).1 (d.memwinAt offset).2 len = true)
    (hdata : (d.hostTrip.hubReadMeets hostHub (d.memwinAt offset).1 (d.memwinAt offset).2 len u).1 = 0) :
    memwinReadEff offset len u d =
      (d.hostTrip.hubReadMeets hostHub (d.memwinAt offset).1 (d.memwinAt offset).2 len u).2.2.answerMemwin
        (d.hostTrip.hubReadMeets hostHub (d.memwinAt offset).1 (d.memwinAt offset).2 len u).2.1 := by
  simp [memwinReadEff, hup, hgood, hopen, hdata, Dev.answerMemwin]

/-- A read that the window does not show answers ones and is counted. -/
theorem memwinReadEff_of_bad {len : Nat} (u : ReadUpset) (hbad : d.memwinGood offset len false = false) :
    memwinReadEff offset len u d = (d.count (hostifKey 0x828) 1).answerMemwin (List.replicate len 0xFF) := by
  simp [memwinReadEff, hup, hbad, Dev.answerMemwin]

/-- A write that the window shows is put, piece by piece. -/
theorem memwinWriteEff_of_good {data : List Byte} (hgood : d.memwinGood offset data.length true = true)
    (hopen : d.hostMemOpen (d.memwinAt offset).1 (d.memwinAt offset).2 data.length = true) :
    memwinWriteEff offset data d =
      d.hostTrip.hostPut (d.memwinAt offset).1 data (piecesOf (d.memwinAt offset).2 data.length) := by
  simp [memwinWriteEff, hup, hgood, hopen]

end Window

/-! ## The statement -/

/-- The device answers an effect with what the effect makes of it. -/
theorem onDev_of_eff {p : List Instr} {f : Dev → Dev} {t : Dev} (heff : f d = t) : onDev ⟨p, d⟩ f = .next ⟨p, t⟩ :=
  heff ▸ rfl

/-- Settles O47: each command answers its effect on the device, and each case is that effect's equation. -/
theorem mirrorCompletes : Obligations.MirrorCompletes := by
  intro p d
  refine ⟨fun offset pg hpage hword hopen => ⟨?update, ?refresh⟩, fun page pg haligned hpage hopen => ?snapshot,
    fun hup => ⟨fun key hkey hcounter hlow hrow => ?latch, fun offset len u hgood hopen hdata => ?read,
      fun offset len u hbad => ?readOutside, fun offset data hgood hopen => ?write⟩⟩
  case update => exact onDev_of_eff (mirrorUpdateEff_of_updates hpage hword hopen false)
  case refresh => exact onDev_of_eff (mirrorUpdateEff_of_updates hpage hword hopen true)
  case snapshot => exact onDev_of_eff (counterSnapshotEff_of_updates haligned hpage hopen)
  case latch => exact onDev_of_eff (counterLowReadEff_latches hup hkey hcounter hlow hrow)
  case read => exact onDev_of_eff (memwinReadEff_of_good hup len u hgood hopen hdata)
  case readOutside => exact onDev_of_eff (memwinReadEff_of_bad hup u hbad)
  case write => exact onDev_of_eff (memwinWriteEff_of_good hup hgood hopen)

end Sys2Proof.Machine

/-! # O10, O11, O12: the sequencer's registers, branches, waits and fences

An instruction at its word answers what it does to the slot. All of these leave the slot as some `v` and go on at some pc
of the program: `Dev.wentOn` is that device, and its frame is proved once for all of them. -/

namespace Sys2Proof.Machine

open Sys2Proof.Claims

variable {d : Dev}

/-! ## A table entry written twice, and the two words of a counter -/

theorem tset_tset_self {α : Type} (t : Table α) (k : Nat) (a b : α) : tset (tset t k a) k b = tset t k b := by
  induction t with
  | nil => simp [tset]
  | cons e r ih =>
    by_cases heq : e.1 = k
    · simp [tset, heq]
    · by_cases hlt : k < e.1
      · simp [tset, heq, hlt]
      · simp [tset, heq, hlt, ih]

theorem Dev.setCore_setCore_self (n : Nat) (a b : Core) : (d.setCore n a).setCore n b = d.setCore n b := by
  simp [Dev.setCore, tset_tset_self]

theorem Core.setSlot_setSlot_self (c : Core) (t : SlotIx) (a b : Slot) : (c.setSlot t a).setSlot t b = c.setSlot t b := by
  simp [Core.setSlot]

/-- The last of two changes to a slot is the change that stays. -/
theorem Dev.setSlot_modSlot_self (n : Nat) (t : SlotIx) (f : Slot → Slot) (v : Slot) :
    (d.modSlot n t f).setSlot n t v = d.setSlot n t v := by
  simp [Dev.setSlot, Dev.setCore_setCore_self, Core.setSlot_setSlot_self]

theorem Dev.slot_modSlot_self (n : Nat) (t : SlotIx) (f : Slot → Slot) : (d.modSlot n t f).slot n t = f (d.slot n t) := by
  simp

/-- A counter reads as it was set. -/
theorem Dev.rget64_rset64 {key v : Nat} (hfits : v < 2 ^ 64) : (d.rset64 key v).rget64 key = v := by
  have hlow : ((d.rsetNat key v).rset (key + 4) (BitVec.ofNat 32 (v / 2 ^ 32))).rget key = BitVec.ofNat 32 v := by
    rw [Dev.rget_rset_ne _ _ (by omega)]
    simp
  simp only [Dev.rset64, Dev.rget64, Dev.rnat]
  rw [Dev.rsetNat_eq _ (key + 4), hlow, Dev.rget_rset, BitVec.toNat_ofNat, BitVec.toNat_ofNat]
  omega

theorem Dev.rget_rset64_ne {key v k : Nat} (hlow : k ≠ key) (hhigh : k ≠ key + 4) :
    (d.rset64 key v).rget k = d.rget k := by
  simp [Dev.rset64, Dev.rget_rset_ne _ _ hhigh, Dev.rget_rset_ne _ _ hlow]

theorem Dev.count_one (key : Nat) : d.count key 1 = d.rset64 key (min (d.rget64 key + 1) (2 ^ 64 - 1)) := if_neg one_ne_zero

/-! ## What the sequencer's registers leave as it was -/

section Registers

variable (s : Slot) (i : Nat)

theorem Slot.setG_keeps (v : W32) : (s.setG i v).program = s.program ∧ (s.setG i v).seq.pc = s.seq.pc := by
  unfold Slot.setG
  split <;> exact ⟨rfl, rfl⟩

theorem Slot.setLen_keeps (v : W32) : (s.setLen i v).program = s.program ∧ (s.setLen i v).seq.pc = s.seq.pc := by
  unfold Slot.setLen
  split <;> exact ⟨rfl, rfl⟩

theorem Slot.setSem_keeps (v : Nat) : (s.setSem i v).program = s.program ∧ (s.setSem i v).seq.pc = s.seq.pc := by
  unfold Slot.setSem
  split <;> exact ⟨rfl, rfl⟩

end Registers

/-! ## Going on -/

/-- The device once a slot has executed an instruction that leaves it as `v`, and goes on at `pc` of its program. -/
def Dev.wentOn (d : Dev) (core : Nat) (t : SlotIx) (v : Slot) (pc : Nat) : Dev :=
  (d.setSlot core t (Slot.onward v pc)).count (coreKey core 1 0x800) 1

section GoesOn

variable {core pc : Nat} {t : SlotIx} {f : Slot → Slot}

/-- A pc inside the tile program does not stop the task (R118). -/
theorem Dev.goTo_of_inside (hinside : pc < (d.slot core t).program.length) :
    d.goTo core t pc = d.wentOn core t (d.slot core t) pc := by
  have hslot : (d.wentOn core t (d.slot core t) pc).slot core t = Slot.onward (d.slot core t) pc := by
    simp [Dev.wentOn, Dev.setSlot]
  have hmore : ¬ ((d.wentOn core t (d.slot core t) pc).slot core t).program.length ≤ pc := by
    rw [hslot]
    exact Nat.not_le.mpr hinside
  exact if_neg hmore

/-- A slot that an instruction has changed, its program left as it was, goes on. -/
theorem Dev.modSlot_goTo (hprogram : (f (d.slot core t)).program = (d.slot core t).program)
    (hinside : pc < (d.slot core t).program.length) :
    (d.modSlot core t f).goTo core t pc = d.wentOn core t (f (d.slot core t)) pc := by
  have hslot := d.slot_modSlot_self core t f
  rw [Dev.goTo_of_inside (by rw [hslot, hprogram]; exact hinside), hslot, Dev.wentOn, Dev.setSlot_modSlot_self, Dev.wentOn]

theorem Dev.nextInstr_of_inside (hnext : (d.slot core t).seq.pc + 1 < (d.slot core t).program.length) :
    d.nextInstr core t = d.wentOn core t (d.slot core t) ((d.slot core t).seq.pc + 1) :=
  Dev.goTo_of_inside hnext

/-- A slot whose register an instruction has changed goes on with the next word. -/
theorem Dev.modSlot_nextInstr
    (hkeeps : (f (d.slot core t)).program = (d.slot core t).program ∧ (f (d.slot core t)).seq.pc = (d.slot core t).seq.pc)
    (hnext : (d.slot core t).seq.pc + 1 < (d.slot core t).program.length) :
    (d.modSlot core t f).nextInstr core t = d.wentOn core t (f (d.slot core t)) ((d.slot core t).seq.pc + 1) := by
  obtain ⟨hprogram, hpc⟩ := hkeeps
  rw [Dev.nextInstr, d.slot_modSlot_self, hpc, Dev.modSlot_goTo hprogram hnext]

/-- The whole frame of an instruction that goes on: the slot and the count of instructions. -/
theorem onlySlot_wentOn (p : List Instr) (v : Slot) :
    OnlySlot ⟨p, d⟩ ⟨p, d.wentOn core t v pc⟩ core t (Slot.onward v pc) := by
  rw [Dev.wentOn, Dev.count_one]
  refine ⟨rfl, rfl, ?slot, ?otherCores, ?counter, ?otherRegisters⟩
  case slot => exact Dev.core_setCore d core _
  case otherCores => exact fun n hn => Dev.core_setCore_ne d _ hn
  case counter => exact Dev.rget64_rset64 (by omega)
  case otherRegisters => exact fun k hlow hhigh => Dev.rget_rset64_ne hlow (by simpa [coreKey, pageKey] using hhigh)

end GoesOn

/-! ## An instruction at its word -/

section AtWord

variable {core : CoreId} {x : SlotIx} {w : W64} {op : Nat}

/-- A slot at a word of the instruction's opcode fetches it and does what the instruction does. -/
theorem Dev.onInstr_of_atWord (hword : AtWord d core x op w) (u : WordEcc) (f : Slot → W64 → Dev → Dev) :
    d.onInstr core.1 x op u f = d.withWord core.1 x u (f (d.slot core.1 x) w) := by
  obtain ⟨-, hexecutes, hstall, hfetch, hop⟩ := hword
  simp [Dev.onInstr, hexecutes, hstall, hfetch, hop]

/-- A command of a serving core whose effect is that a slot goes on answers it, with the whole frame. -/
theorem onCore_goesOn {s : State} {f : Dev → Dev} {v : Slot} {pc : Nat} (hserving : Serving s.dev (islOfCore core.1))
    (heff : f s.dev = s.dev.wentOn core.1 x v pc) :
    ∃ t, onCore s core.1 f = .next t ∧ OnlySlot s t core.1 x (Slot.onward v pc) :=
  ⟨⟨s.pending, s.dev.wentOn core.1 x v pc⟩, onCore_of_serving hserving heff, onlySlot_wentOn s.pending v⟩

/-! ## Registers -/

section Next

variable (hnext : (d.slot core.1 x).seq.pc + 1 < (d.slot core.1 x).program.length)

include hnext

theorem nopEff_goesOn (hword : AtWord d core x 0 w) :
    nopEff core.1 x .clean d = d.wentOn core.1 x (d.slot core.1 x) ((d.slot core.1 x).seq.pc + 1) :=
  (Dev.onInstr_of_atWord hword .clean _).trans (Dev.nextInstr_of_inside hnext)

theorem addiEff_goesOn (hword : AtWord d core x 5 w) :
    addiEff core.1 x .clean d = d.wentOn core.1 x
      ((d.slot core.1 x).setG (wordG w) ((d.slot core.1 x).g (wordG w) + w.setWidth 32)) ((d.slot core.1 x).seq.pc + 1) :=
  (Dev.onInstr_of_atWord hword .clean _).trans (Dev.modSlot_nextInstr (Slot.setG_keeps _ _ _) hnext)

theorem moviEff_goesOn (hword : AtWord d core x 9 w) :
    moviEff core.1 x .clean d = d.wentOn core.1 x
      ((d.slot core.1 x).setG (wordG w) (w.setWidth 32)) ((d.slot core.1 x).seq.pc + 1) :=
  (Dev.onInstr_of_atWord hword .clean _).trans (Dev.modSlot_nextInstr (Slot.setG_keeps _ _ _) hnext)

theorem setlenEff_goesOn (hword : AtWord d core x 8 w) :
    setlenEff core.1 x .clean d = d.wentOn core.1 x
      ((d.slot core.1 x).setLen (bitsOf w.toNat 42 40) ((d.slot core.1 x).g (wordG w))) ((d.slot core.1 x).seq.pc + 1) :=
  (Dev.onInstr_of_atWord hword .clean _).trans (Dev.modSlot_nextInstr (Slot.setLen_keeps _ _ _) hnext)

/-! ## Branches and LOADG -/

theorem loopEff_goesOn (htarget : bitsOf w.toNat 11 0 < (d.slot core.1 x).program.length) (hword : AtWord d core x 4 w) :
    loopEff core.1 x .clean d = d.wentOn core.1 x
      ((d.slot core.1 x).setG (wordG w) ((d.slot core.1 x).g (wordG w) - 1))
      (if (d.slot core.1 x).g (wordG w) - 1 = 0 then (d.slot core.1 x).seq.pc + 1 else bitsOf w.toNat 11 0) :=
  (Dev.onInstr_of_atWord hword .clean _).trans
    (Dev.modSlot_goTo (Slot.setG_keeps _ _ _).1 (by split; exacts [hnext, htarget]))

theorem brzEff_goesOn (htarget : bitsOf w.toNat 11 0 < (d.slot core.1 x).program.length) (hword : AtWord d core x 6 w) :
    brzEff core.1 x .clean d = d.wentOn core.1 x (d.slot core.1 x)
      (if (d.slot core.1 x).g (wordG w) = 0 then bitsOf w.toNat 11 0 else (d.slot core.1 x).seq.pc + 1) :=
  (Dev.onInstr_of_atWord hword .clean _).trans (Dev.goTo_of_inside (by split; exacts [htarget, hnext]))

/-- A LOADG whose word lies inside the grant takes it (R85). -/
theorem loadgEff_goesOn (hword : AtWord d core x 7 w)
    (hgrant : (d.slot core.1 x).boundStatus 0 (bitsOf w.toNat 21 0) 4 = 0) :
    loadgEff core.1 x .clean d = d.wentOn core.1 x
      ((d.slot core.1 x).setG (wordG w) (BitVec.ofNat 32 (leNat (d.opRead core.1 x 0 (bitsOf w.toNat 21 0) 4))))
      ((d.slot core.1 x).seq.pc + 1) := by
  have htakes : loadgEff core.1 x .clean d = (d.modSlot core.1 x (fun s => s.setG (wordG w)
      (BitVec.ofNat 32 (leNat (d.opRead core.1 x 0 (bitsOf w.toNat 21 0) 4))))).nextInstr core.1 x := by
    simp [loadgEff, Dev.onInstr_of_atWord hword, Dev.withWord, hgrant]
  exact htakes.trans (Dev.modSlot_nextInstr (Slot.setG_keeps _ _ _) hnext)

/-! ## Waits and fences -/

theorem waitEff_goesOn (hword : AtWord d core x 2 w) (hmet : w.toNat % 2 ^ 16 ≤ (d.slot core.1 x).sem (wordG w)) :
    waitEff core.1 x .clean d = d.wentOn core.1 x
      ((d.slot core.1 x).setSem (wordG w) ((d.slot core.1 x).sem (wordG w) - w.toNat % 2 ^ 16))
      ((d.slot core.1 x).seq.pc + 1) :=
  (Dev.onInstr_of_atWord hword .clean _).trans
    ((if_pos hmet).trans (Dev.modSlot_nextInstr (Slot.setSem_keeps _ _ _) hnext))

/-- A stalled WAIT goes on once its semaphore meets it. -/
theorem waitReleaseEff_goesOn {sem n : Nat} (hexecutes : d.executes core.1 x = true)
    (hstall : (d.slot core.1 x).stall = .wait sem n) (hmet : n ≤ (d.slot core.1 x).sem sem) :
    waitReleaseEff core.1 x d = d.wentOn core.1 x
      ((d.slot core.1 x).setSem sem ((d.slot core.1 x).sem sem - n)) ((d.slot core.1 x).seq.pc + 1) := by
  have hrelease : waitReleaseEff core.1 x d
      = (d.modSlot core.1 x (fun s => s.setSem sem (s.sem sem - n))).nextInstr core.1 x := by
    simp [waitReleaseEff, hstall, hexecutes, hmet]
  exact hrelease.trans (Dev.modSlot_nextInstr (Slot.setSem_keeps _ _ _) hnext)

theorem fenceEff_goesOn (hword : AtWord d core x 10 w) (hquiet : (d.slot core.1 x).quiet = true) :
    fenceEff core.1 x .clean d = d.wentOn core.1 x (d.slot core.1 x) ((d.slot core.1 x).seq.pc + 1) :=
  (Dev.onInstr_of_atWord hword .clean _).trans ((if_pos hquiet).trans (Dev.nextInstr_of_inside hnext))

/-- A stalled FENCE goes on once nothing of the slot is queued, running or loading. -/
theorem fenceReleaseEff_goesOn (hexecutes : d.executes core.1 x = true) (hstall : (d.slot core.1 x).stall = .fence)
    (hquiet : (d.slot core.1 x).quiet = true) :
    fenceReleaseEff core.1 x d = d.wentOn core.1 x (d.slot core.1 x) ((d.slot core.1 x).seq.pc + 1) := by
  have hrelease : fenceReleaseEff core.1 x d = d.nextInstr core.1 x := by
    simp [fenceReleaseEff, hstall, hexecutes, hquiet]
  exact hrelease.trans (Dev.nextInstr_of_inside hnext)

end Next

/-! ## A word that its code finds wrong -/

/-- Every sequencer instruction is one that its core does at its word; those that may raise a semaphore then let the
collectives go on. -/
theorem exec_of_fetched {c : Instr} {u : WordEcc} (hfetched : fetched c = some (core, x, u, op)) :
    ∃ (f : Slot → W64 → Dev → Dev) (g : Dev → Dev),
      (∀ s, exec c s = onCore s core.1 (fun d => g (d.onInstr core.1 x op u f))) ∧ (g = id ∨ g = Dev.collPoll) := by
  unfold fetched at hfetched
  split at hfetched <;> cases hfetched
  -- ISSUE, the one of them after which the collectives go on
  case h_2 => exact ⟨_, Dev.collPoll, fun _ => rfl, .inr rfl⟩
  all_goals exact ⟨_, id, fun _ => rfl, .inl rfl⟩

/-- An instruction whose word has an uncorrected error stops its task, whatever the instruction (R89, assumption 16). -/
theorem exec_of_uncorrected {s : State} {c : Instr} (hfetched : fetched c = some (core, x, .uncorrected, op))
    (hword : AtWord s.dev core x op w) :
    ∃ f : Dev → Dev, exec c s
        = .next ⟨s.pending, f ((s.dev.wordUncorrected core.1 x 0 .instruction).taskFail core.1 x Code.memUncorrected 0)⟩
      ∧ (f = id ∨ f = Dev.collPoll) := by
  obtain ⟨f, g, hexec, hpolls⟩ := exec_of_fetched hfetched
  have hstops := congrArg g (Dev.onInstr_of_atWord hword .uncorrected f)
  exact ⟨g, (hexec s).trans (onCore_of_serving hword.1 hstops), hpolls⟩

end AtWord

/-! ## The statements -/

/-- Settles O10: the four instructions go on with the next word; a corrected word is noted first, and an uncorrected one
stops the task. -/
theorem registerInstructionsComplete : Obligations.RegisterInstructionsComplete := by
  intro s core x w hnext
  refine ⟨fun hword => ?nop, fun hword => ?corrected, fun c op hfetched hword => exec_of_uncorrected hfetched hword,
    fun hword => ?addi, fun hword => ?movi, fun hword => ?setlen⟩
  case nop => exact onCore_goesOn hword.1 (nopEff_goesOn hnext hword)
  case corrected => exact onCore_of_serving hword.1 (Dev.onInstr_of_atWord hword .corrected _)
  case addi => exact onCore_goesOn hword.1 (addiEff_goesOn hnext hword)
  case movi => exact onCore_goesOn hword.1 (moviEff_goesOn hnext hword)
  case setlen => exact onCore_goesOn hword.1 (setlenEff_goesOn hnext hword)

/-- Settles O11: both words that a branch may go on at lie inside the program, and LOADG's bytes inside the grant. -/
theorem branchesAndLoadgComplete : Obligations.BranchesAndLoadgComplete := by
  refine ⟨fun s core x w hnext htarget => ⟨fun hword => ?loop, fun hword => ?brz⟩,
    fun s core x w hword hnext hgrant => ?loadg⟩
  case loop => exact onCore_goesOn hword.1 (loopEff_goesOn hnext htarget hword)
  case brz => exact onCore_goesOn hword.1 (brzEff_goesOn hnext htarget hword)
  case loadg => exact onCore_goesOn hword.1 (loadgEff_goesOn hnext hword hgrant)

/-- Settles O12: where its condition holds, at once or after a stall, the instruction goes on with the next word. -/
theorem waitsAndFencesComplete : Obligations.WaitsAndFencesComplete := by
  intro s core x w hnext
  refine ⟨fun hword hmet => ?wait, fun sem n hserving hexecutes hstall hmet => ?waitRelease,
    fun hword hquiet => ?fence, fun hserving hexecutes hstall hquiet => ?fenceRelease⟩
  case wait => exact onCore_goesOn hword.1 (waitEff_goesOn hnext hword hmet)
  case waitRelease => exact onCore_goesOn hserving (waitReleaseEff_goesOn hnext hexecutes hstall hmet)
  case fence => exact onCore_goesOn hword.1 (fenceEff_goesOn hnext hword hquiet)
  case fenceRelease => exact onCore_goesOn hserving (fenceReleaseEff_goesOn hnext hexecutes hstall hquiet)

end Sys2Proof.Machine

/-! # O14, O15: ISSUE and LOADW

An ISSUE that its checks let through joins its engine's queue, at its word or once a stall of it ends; a LOADW inside the
grant is recorded, and completes with its last byte. Commands that may raise a semaphore let the collectives go on. -/

namespace Sys2Proof.Machine

open Sys2Proof.Claims

variable {d : Dev} {core : CoreId} {x : SlotIx} {w : W64}

/-! ## ISSUE -/

/-- A slot with one more descriptor queued, which its ticket counts (R97). -/
def Slot.enqueue (q : QDesc) (s : Slot) : Slot :=
  { s with
    descs := s.descs ++ [q]
    tickets := s.tickets.map (fun o => if some o.ticket = q.ticket then { o with running := o.running + 1 } else o) }

/-- An ISSUE that finds its descriptor good queues it and goes on. -/
theorem Dev.issueNow_of_queue {n : Nat} {q : QDesc} (hfind : d.issueFind n x w = .queue q) :
    d.issueNow n x w = ((d.modSlot n x (Slot.enqueue q)).nameSeq n x q.bytes).nextInstr n x := by
  unfold Dev.issueNow
  simp only [hfind]
  rfl

/-- A stalled ISSUE is tried again. -/
theorem issueStallEndEff_of_issue {n : Nat} (hexecutes : d.executes n x = true) (hstall : (d.slot n x).stall = .issue)
    (hfetch : (d.slot n x).program[(d.slot n x).seq.pc]? = some w) : issueStallEndEff n x d = d.issueNow n x w := by
  simp [issueStallEndEff, hexecutes, hstall, hfetch]

/-- A command of a serving core that may raise a semaphore answers its effect, after which the collectives go on. -/
theorem onCore_polled {p : List Instr} {f : Dev → Dev} {t : Dev} {n : Nat} (hserving : Serving d (islOfCore n))
    (heff : f d = t) : onCore ⟨p, d⟩ n (polled f) = .next ⟨p, t.collPoll⟩ :=
  onCore_of_serving hserving (congrArg Dev.collPoll heff)

/-! ## LOADW -/

/-- A slot with one more LOADW sequence to copy (R495). -/
def Slot.recordLoadw (off sem len : Nat) (s : Slot) : Slot :=
  { s with
    nextLoadw := s.nextLoadw + 1
    loadws := s.loadws ++ [{ id := s.nextLoadw, offset := off, sem := sem, length := len, copied := 0, done := false
                             consumed := false }] }

/-- A sequence whose header and whole range lie inside the grant is recorded. -/
theorem Dev.startLoadw_of_inside {n sem off : Nat} (hheader : (d.slot n x).boundStatus 0 off 64 = 0)
    (hrange : (d.slot n x).boundStatus 0 off (dN (d.opRead n x 0 off 64) 8 4) = 0) :
    d.startLoadw n x sem off =
      (d.modSlot n x (Slot.recordLoadw off sem (dN (d.opRead n x 0 off 64) 8 4))).nextInstr n x := by
  simp [Dev.startLoadw, firstFail, hheader, hrange, Slot.recordLoadw]

/-- The slot once the last byte of a sequence is in: its record stays while its tile has not consumed it. -/
def Slot.loadwDone (l : LoadwRec) (s : Slot) : Slot :=
  { s with
    loadws := (s.loadws.map (fun k => if k.id = l.id then { k with done := true } else k)).filter
      (fun k => !(k.consumed && k.done)) }

/-- The first sequence copied whole is done, and its semaphore rises. -/
theorem loadwCompleteEff_of_copied {n : Nat} {l : LoadwRec}
    (hcopied : (d.slot n x).loadws.find? (fun l => !l.done && decide (l.length ≤ l.copied)) = some l) :
    loadwCompleteEff n x d = (d.modSlot n x (Slot.loadwDone l)).semUp n x l.sem 1 := by
  unfold loadwCompleteEff
  simp only [hcopied]
  rfl

/-! ## The statements -/

/-- Settles O14: at its word and at the end of a stall the same ISSUE is done, which the checks let through. -/
theorem issueCompletes : Obligations.IssueCompletes := by
  intro p d core x w q hfind
  have hqueues := Dev.issueNow_of_queue hfind
  refine ⟨fun hword => ?atOnce, fun hserving hexecutes hstall hfetch => ?stalled⟩
  case atOnce => exact onCore_polled hword.1 ((Dev.onInstr_of_atWord hword .clean _).trans hqueues)
  case stalled => exact onCore_polled hserving ((issueStallEndEff_of_issue hexecutes hstall hfetch).trans hqueues)

/-- Settles O15: a LOADW with room and inside the grant is recorded; one copied whole is done. -/
theorem loadwCompletes : Obligations.LoadwCompletes := by
  intro p d core x
  refine ⟨fun w hword hroom hheader hrange => ?recorded, fun l hserving hcopied => ?done⟩
  case recorded =>
    have hstarts : ¬ (d.slot core.1 x).loadwFull = true := Bool.eq_false_iff.mp hroom
    exact onCore_of_serving hword.1 ((Dev.onInstr_of_atWord hword .clean _).trans
      ((if_neg hstarts).trans (Dev.startLoadw_of_inside hheader hrange)))
  case done => exact onCore_polled hserving (loadwCompleteEff_of_copied hcopied)

end Sys2Proof.Machine

/-! # O18, O19: the descriptor engines

Every engine but the array runs its descriptors through one operation, `Dev.engineRun`: what that does with the descriptor
whose turn it is, is said once, and the commands differ in engine, operation and work alone (Table 4.4). -/

namespace Sys2Proof.Machine

open Sys2Proof.Claims

variable {d : Dev}

/-! ## Running a descriptor -/

/-- The core once an engine has turned to a slot (R97). -/
def Dev.tookTurn (d : Dev) (core : Nat) (t : SlotIx) (engine : Nat) : Dev :=
  d.modCore core (fun c => { c with lastSlot := tset c.lastSlot engine t.1 })

/-- What an engine does with the descriptor that has its turn: a void one finishes at once (R493), and one that an upset
fails leaves its destinations unspecified (R89, R324). -/
def Dev.runDesc (d : Dev) (core : Nat) (t : SlotIx) (engine : Nat) (u : Upset)
    (run : Dev → QDesc → EngOut) (q : QDesc) : Dev :=
  if q.isVoid then d.modSlot core t (fun s => s.finishOn engine q.health 0)
  else
    let o := run ((d.countNbrs core t q.bytes).upsetNote core t engine u) q
    if upsetStatus u = 0 then o.d.modSlot core t (fun s => s.finishOn engine o.h o.st)
    else (o.d.spoil core t q.bytes).modSlot core t (fun s => s.finishOn engine q.health (upsetStatus u))

/-- An engine turns to the slot's next descriptor, where that holds the operation and the slot has its turn. -/
theorem Dev.engineRun_of_turn {core engine op : Nat} {t : SlotIx} {q : QDesc} (u : Upset) (run : Dev → QDesc → EngOut)
    (hnext : (d.slot core t).nextOn engine = some q) (hwork : d.startsWork core t = true) (hop : dOp q.bytes = op)
    (hturn : d.turnOf core t engine = true) :
    d.engineRun core t engine op u run = (d.tookTurn core t engine).runDesc core t engine u run q := by
  have hruns : ¬ (!(d.startsWork core t) || dOp q.bytes != op || !(d.turnOf core t engine)) = true := by
    simp [hwork, hop, hturn]
  unfold Dev.engineRun
  dsimp only
  rw [hnext]
  exact if_neg hruns

/-- Each descriptor command runs its engine's descriptor of its operation, with its engine's work. -/
theorem exec_of_engineCommand {c : Instr} {core : CoreId} {x : SlotIx} {u : Upset} {engine op : Nat}
    {run : Dev → QDesc → EngOut} (hcommand : engineCommand c = some (core, x, u, engine, op, run)) (s : State) :
    exec c s = onCore s core.1 (fun d => d.engineRun core.1 x engine op u run) := by
  unfold engineCommand at hcommand
  split at hcommand <;> cases hcommand <;> rfl

/-! ## Completion -/

/-- The completion of a descriptor that finished with SUCCESS, on an engine but the array. -/
theorem descriptorCompletionEff_posts {core engine : Nat} {t : SlotIx} {q : QDesc} (m : Measured)
    (hfinished : (d.slot core t).finishedOn engine = some q) (hsuccess : q.st = .finished 0) (hengine : engine ≠ 0) :
    descriptorCompletionEff core t engine m d =
      (Dev.postStatus (Dev.addHealth (Dev.modSlot (Dev.exactCheck (((d.engineCount core engine 0x800 1).engineCount core
        engine 0x808 m.cycles).engineCount core engine 0x810 (workOf q.bytes q.rv q.cv)) core t q m) core t (fun s =>
          ({ s with descs := dropFirst (fun q => q.engine == engine && q.isFinished) s.descs }).ticketDone q.ticket 0))
        core t q.ticket q.health) core t q.sem (some (dTag q.bytes)) 0 q.offset) := by
  unfold descriptorCompletionEff
  simp only [hfinished, hsuccess, if_neg hengine, if_true]

/-! ## The statements -/

/-- Settles O18: every engine command is a run of its engine, whose branches are the cases. -/
theorem engineCommandsComplete : Obligations.EngineCommandsComplete := by
  intro p d c core x u engine op run q hcommand hserving hnext hwork hop hturn
  have hexec := exec_of_engineCommand hcommand ⟨p, d⟩
  have hrun := Dev.engineRun_of_turn u run hnext hwork hop hturn
  refine ⟨fun hvoid => ?void, fun hshape hnone => ?clean, fun hshape hupset => ?upset⟩
  case void => exact hexec.trans (onCore_of_serving hserving (hrun.trans (if_pos hvoid)))
  case clean =>
    subst hnone
    exact hexec.trans (onCore_of_serving hserving
      (hrun.trans ((if_neg (Bool.eq_false_iff.mp hshape)).trans (if_pos rfl))))
  case upset =>
    exact hexec.trans (onCore_of_serving hserving
      (hrun.trans ((if_neg (Bool.eq_false_iff.mp hshape)).trans (if_neg hupset))))

/-- Settles O19: the completion's effect, after which the collectives go on and the context is tested for BLOCKED. -/
theorem descriptorCompletionPosts : Obligations.DescriptorCompletionPosts := by
  intro p d core x engine m q hserving hfinished hsuccess hengine
  have hposts := descriptorCompletionEff_posts m hfinished hsuccess hengine
  exact onCore_of_serving hserving
    (congrArg (fun t => (Dev.collPoll t).checkBlocked (d.slot core.1 x).ctx) hposts)

end Sys2Proof.Machine

/-! # O13, O16, O20: claims, their tickets, and END

The counter of a work queue lies on the hub, so what a core sends it has first been carried there. What the counter does
with a claim has one equation per answer: a parity error, a queue that the core may not claim from, no slice to give, a
slice. A ticket's closing and its return are one operation of the counter each, which the commands reach or, with a
parity error, do not. -/

namespace Sys2Proof.Machine

open Sys2Proof.Claims

variable {d : Dev}

/-- A hub on a clocked island, on a device not in the error state, answers its effect (R329, R479). -/
theorem onHub_of_serving {p : List Instr} {f : Dev → Dev} {t : Dev} {j : Nat} (h : Serving d (islOfHub j))
    (heff : f d = t) : onHub ⟨p, d⟩ j f = .next ⟨p, t⟩ := by
  obtain ⟨hclocked, hstate⟩ := h
  simp [onHub, onIsland, onDev, Dev.inService, hclocked, hstate, heff]

section Counter

variable {n : Nat} {x : SlotIx}

/-- The device once what a core sends its work counter has crossed to the hub. -/
abbrev Dev.atCounter (d : Dev) (n : Nat) : Dev := d.carry (islOfCore n) (islOfHub (n / 16))

/-! ## The counter's answer to a claim -/

/-- A slot with the counter's reply to its claim on the way back. -/
def Slot.replied (g num : Nat) (ticket : W32) (origin ix : Nat) (failed : Bool) (s : Slot) : Slot :=
  { s with stall := .claimReply g num ticket origin ix failed }

/-- A claim of a queue that the context lacks, or whose work the core takes no part in (R139, R151). -/
def Dev.refuseClaim (d : Dev) (n : Nat) (x : SlotIx) (y g num : Nat) : Dev :=
  (d.errFire (hubKey (n / 16) 2 0) 0 (n % 16 * 2 ^ 8 + y * 2 ^ 16)).modSlot n x (Slot.replied g num 0 0 0 true)

/-- A queue that has answered 0 to a claim of a slot, which its round waits for (R148). -/
def WQueue.recordZero (n : Nat) (x : SlotIx) (hub : Nat) (q : WQueue) : WQueue :=
  { (q.recorded hub) with
    zeroed := if q.zeroed.contains (n * 2 + x.1) then q.zeroed else q.zeroed ++ [n * 2 + x.1] }

/-- A claim answered 0, which may end the round. -/
def Dev.answerZero (d : Dev) (n : Nat) (x : SlotIx) (y g num : Nat) : Dev :=
  (((d.modCluster (n / 16) (fun c => c.modQueue y num (WQueue.recordZero n x (d.cycleOf (islOfHub (n / 16)))))).count
    (hubKey (n / 16) 2 0x818) 1).modSlot n x (Slot.replied g num 0 0 0 false)).roundEnd (n / 16) y num

/-- A queue one of whose slices a slot has claimed at a hub cycle, under a generation (R141). -/
def WQueue.recordClaim (n : Nat) (x : SlotIx) (hub now i gen : Nat) (q : WQueue) : WQueue :=
  (q.recorded hub).modSlice i (fun z =>
    { state := .claimed, gen := gen, tickets := z.tickets ++ [Outstanding.mk gen n x.1 now] })

/-- A claim answered with the ticket of a slice of queue q; an aged one has changed its generation (R142). -/
def Dev.answerSlice (d : Dev) (n : Nat) (x : SlotIx) (y g num : Nat) (q : WQueue) (dir owner i : Nat) (aged : Bool) :
    Dev :=
  let hub := d.cycleOf (islOfHub (n / 16))
  let gen := (q.slice i).gen + b2n aged
  ((d.modCluster (n / 16) (fun c => c.modQueue y num (WQueue.recordClaim n x hub (q.recordAt hub) i gen))).count
    (hubKey (n / 16) 2 (if aged then 0x810 else if dir = 0 then 0x800 else 0x808)) 1).modSlot n x
      (Slot.replied g num (ticketOf gen dir num i) (i * q.rec_.sliceRows) (i - (q.portion owner).1) false)

/-- Without a due ticket a slot has nothing to close. -/
theorem Dev.closeDue_of_noneDue (hnone : ∀ o ∈ (d.slot n x).tickets, o.due = false) : d.closeDue n x = d := by
  have hempty : (d.slot n x).tickets.filter OpenTicket.due = [] := by
    simpa [List.filter_eq_nil_iff] using hnone
  rw [Dev.closeDue, hempty, List.foldl_nil]

section Claimed

variable {g num : Nat} (hclaim : (d.slot n x).claimOut = some (g, num))

include hclaim

/-- A claim that meets a parity error in its queue's state is not recorded (R151). -/
theorem claimRecordEff_of_parity : claimRecordEff n x true d = (d.atCounter n).queueParity n x := by
  simp only [claimRecordEff, hclaim, if_true]

section NoneDue

variable (hnone : ∀ o ∈ ((d.atCounter n).slot n x).tickets, o.due = false)

include hnone

/-- No queue of that number, or one whose work the core takes no part in: both are refused alike (R139). -/
theorem claimRecordEff_refuses
    (habsent : ∀ q, ((d.atCounter n).cluster (n / 16)).queueOf (d.slot n x).ctx num = some q →
      q.rec_.participants.getLsbD (n % 16) = false) :
    claimRecordEff n x false d = (d.atCounter n).refuseClaim n x (d.slot n x).ctx g num := by
  have hclosed := Dev.closeDue_of_noneDue hnone
  cases hqueue : ((d.atCounter n).cluster (n / 16)).queueOf (d.slot n x).ctx num with
  | none =>
    simp only [claimRecordEff, hclaim, hclosed, hqueue]
    rfl
  | some q =>
    simp only [claimRecordEff, hclaim, hclosed, hqueue, habsent q hqueue]
    rfl

section Admitted

variable {q : WQueue} (hqueue : ((d.atCounter n).cluster (n / 16)).queueOf (d.slot n x).ctx num = some q)
  (hpart : q.rec_.participants.getLsbD (n % 16) = true)

include hqueue hpart

/-- A claim for which R141 gives no slice. -/
theorem claimRecordEff_answersZero
    (hgrant : q.grant n (q.recordAt ((d.atCounter n).cycleOf (islOfHub (n / 16)))) = .none) :
    claimRecordEff n x false d = (d.atCounter n).answerZero n x (d.slot n x).ctx g num := by
  have hclosed := Dev.closeDue_of_noneDue hnone
  simp only [claimRecordEff, hclaim, hclosed, hqueue, hpart, hgrant]
  rfl

/-- A claim to which R141 gives a slice, of its own portion or a neighbour's, or R142 an aged one. -/
theorem claimRecordEff_answersSlice {dir owner i : Nat} {aged : Bool}
    (hgrant : q.grant n (q.recordAt ((d.atCounter n).cycleOf (islOfHub (n / 16)))) = .slice dir owner i aged) :
    claimRecordEff n x false d =
      (d.atCounter n).answerSlice n x (d.slot n x).ctx g num q dir owner i aged := by
  have hclosed := Dev.closeDue_of_noneDue hnone
  simp only [claimRecordEff, hclaim, hclosed, hqueue, hpart, hgrant]
  rfl

end Admitted

end NoneDue

end Claimed

/-! ## The reply at the core -/

/-- The device once what the counter sends a core has crossed back from the hub. -/
abbrev Dev.fromCounter (d : Dev) (n : Nat) : Dev := d.carry (islOfHub (n / 16)) (islOfCore n)

/-- A slot with a ticket of a queue open; the reply 0 opens none. -/
def Slot.openTicket (g num : Nat) (ticket : W32) (origin ix : Nat) (s : Slot) : Slot :=
  { (s.setG g ticket) with
    tickets := if ticket = 0 then s.tickets else s.tickets ++
      [{ ticket := ticket, queue := num, origin := origin, localIx := ix, running := 0, failed := false
         reached := false, health := Health.zero }] }

/-- A reply crosses back to the core; a ticket or 0 lets the program go on, a refusal stops the task (R139). -/
theorem claimReplyEff_of_reply {g num origin ix : Nat} {ticket : W32} {failed : Bool}
    (hreply : (d.slot n x).stall = .claimReply g num ticket origin ix failed) :
    claimReplyEff n x d =
      if failed then
        ((d.fromCounter n).modSlot n x (fun s => { s with stall := .none })).taskFail n x Code.queueInvalid 0
      else
        ((d.fromCounter n).modSlot n x (Slot.openTicket g num ticket origin ix)).goTo n x
          ((d.slot n x).seq.pc + 1) := by
  simp only [claimReplyEff, hreply]
  rfl

/-! ## Closings, returns and resets -/

/-- The first due closing of a slot reaches the counter. -/
theorem ticketCloseEff_of_due {o : OpenTicket} (hdue : (d.slot n x).tickets.find? OpenTicket.due = some o)
    (parityBad : Bool) :
    ticketCloseEff n x parityBad d =
      if parityBad then (d.atCounter n).queueParity n x else (d.atCounter n).closeTicket n x o := by
  simp only [ticketCloseEff, hdue]

/-- A slot that yields at a tile boundary returns its first ticket, where that is not due for closing (R144). -/
theorem ticketReturnEff_of_yield {o : OpenTicket} {r : List OpenTicket} (hyields : (d.slot n x).preempt = true)
    (hboundary : (d.slot n x).atBoundary = true) (hfirst : (d.slot n x).tickets = o :: r) (hopen : o.due = false)
    (parityBad : Bool) :
    ticketReturnEff n x parityBad d =
      if parityBad then (d.atCounter n).queueParity n x else (d.atCounter n).returnTicket n x o := by
  simp [ticketReturnEff, hyields, hboundary, hfirst, hopen]

/-- A queue made fresh by a reset (R149). -/
def WQueue.reset (q : WQueue) : WQueue := { q.fresh with failed := false, resetPending := false }

/-- A reset that waits takes effect with no ticket out. -/
theorem queueResetEff_of_returned {j y num : Nat} {q : WQueue} (hqueue : (d.cluster j).queueOf y num = some q)
    (hpending : q.resetPending = true) (hreturned : ∀ s ∈ q.slices, s.tickets = []) :
    queueResetEff j y num d = d.modCluster j (fun c => c.modQueue y num WQueue.reset) := by
  have htakes : (q.resetPending && q.slices.all (fun s => s.tickets.isEmpty)) = true := by
    simpa [hpending] using hreturned
  simp only [queueResetEff, hqueue, htakes, if_true]
  rfl

/-! ## END -/

/-- The device once the tile program of a slot has ended with SUCCESS (Table 4.10). -/
def Dev.endProgram (d : Dev) (n : Nat) (x : SlotIx) : Dev :=
  ((d.modSlot n x (fun s => { s with ended := some 0, state := .idle, stall := .none })).count
    (coreKey n 1 0x800) 1).modGyle (d.slot n x).ctx (fun g => { g with
      endedTasks := if g.endedTasks.contains (d.slot n x).task then g.endedTasks
        else g.endedTasks ++ [(d.slot n x).task] })

/-- An END with nothing of the slot left ends the program (R143, R495). -/
theorem endCompletionEff_ends (hexecutes : d.executes n x = true) (hstall : (d.slot n x).stall = .endFence)
    (hstays : (d.slot n x).preempt = false) (hquiet : (d.slot n x).quiet = true) (hclosed : (d.slot n x).tickets = []) :
    endCompletionEff n x d = d.endProgram n x := by
  have hends : ((d.slot n x).stall == .endFence && d.executes n x && !(d.slot n x).preempt && (d.slot n x).quiet
      && (d.slot n x).tickets.isEmpty) = true := by
    simp [hexecutes, hstall, hstays, hquiet, hclosed]
  exact if_pos hends

end Counter

/-! ## The statements -/

/-- Settles O13: a CLAIM leaves its slot stalled, the counter gives one of its answers, and the reply lands. -/
theorem claimsComplete : Obligations.ClaimsComplete := by
  intro p d core x
  refine ⟨fun w hword => ?sent, fun g num hserving hclaim => ⟨?parity, fun hnone => ⟨fun habsent => ?refused,
      fun q hqueue hpart => ⟨fun hgrant => ?zero, fun dir owner i aged hgrant => ?slice⟩⟩⟩,
    fun g num ticket origin ix hserving => ⟨fun hreply => ?opens, fun hreply => ?fails⟩⟩
  case sent => exact onCore_of_serving hword.1 (Dev.onInstr_of_atWord hword .clean _)
  case parity => exact onCore_polled hserving (claimRecordEff_of_parity hclaim)
  case refused => exact onCore_polled hserving (claimRecordEff_refuses hclaim hnone habsent)
  case zero => exact onCore_polled hserving (claimRecordEff_answersZero hclaim hnone hqueue hpart hgrant)
  case slice => exact onCore_polled hserving (claimRecordEff_answersSlice hclaim hnone hqueue hpart hgrant)
  case opens => exact onCore_of_serving hserving ((claimReplyEff_of_reply hreply).trans (if_neg Bool.false_ne_true))
  case fails => exact onCore_of_serving hserving ((claimReplyEff_of_reply hreply).trans (if_pos rfl))

/-- Settles O16: END stalls a slot that need not yield, and its completion ends the program. -/
theorem endCompletes : Obligations.EndCompletes := by
  intro p d core x
  refine ⟨fun w hword hstays => ?reached, fun hserving hexecutes hstall hstays hquiet hclosed => ?ended⟩
  case reached =>
    have hfences : ¬ (d.slot core.1 x).preempt = true := Bool.eq_false_iff.mp hstays
    exact onCore_of_serving hword.1 ((Dev.onInstr_of_atWord hword .clean _).trans (if_neg hfences))
  case ended => exact onCore_of_serving hserving (endCompletionEff_ends hexecutes hstall hstays hquiet hclosed)

/-- Settles O20: the commands reach the counter's closing and return, or its parity error, and a reset with no ticket
out frees the queue. -/
theorem ticketsCloseAndReturn : Obligations.TicketsCloseAndReturn := by
  intro p d core x
  refine ⟨fun o hserving hdue => ⟨?closes, ?closeParity⟩,
    fun o r hserving hyields hboundary hfirst hopen => ⟨?returns, ?returnParity⟩,
    fun j y num q hserving hqueue hpending hreturned => ?resets⟩
  case closes => exact onCore_polled hserving ((ticketCloseEff_of_due hdue false).trans (if_neg Bool.false_ne_true))
  case closeParity => exact onCore_polled hserving ((ticketCloseEff_of_due hdue true).trans (if_pos rfl))
  case returns =>
    have hreturns := ticketReturnEff_of_yield hyields hboundary hfirst hopen false
    exact onCore_polled hserving (hreturns.trans (if_neg Bool.false_ne_true))
  case returnParity =>
    have hmeets := ticketReturnEff_of_yield hyields hboundary hfirst hopen true
    exact onCore_polled hserving (hmeets.trans (if_pos rfl))
  case resets => exact onHub_of_serving hserving (queueResetEff_of_returned hqueue hpending hreturned)

end Sys2Proof.Machine

/-! # O22: the operations of a cell

The commands of Table 6.5 differ in their operation alone: each has its cell fire the next ready entry, where that holds
the operation. What the fire meets decides what comes of it (Table 6.7). -/

namespace Sys2Proof.Machine

open Sys2Proof.Claims

variable {d : Dev}

/-- What comes of the entry that a cell fires next, by what the fire meets (R161, R172): a corrected register is counted
and recorded, an uncorrected one is event 4, and an entry whose table parity fails is stopped with event 5. -/
def Dev.fireMeeting (d : Dev) (core i ix : Nat) (e : W128) (u : Upset) : Dev :=
  match u with
  | .none | .memory _ => d.fire core i ix e false
  | .corrected _ =>
    ((d.count (coreKey core 0 0x800) 1).detect (coreDetection core 0 3 Unit.cell (core * 16 + i)
      ((d.cellOwner core i).getD 0) 0 (coreKey core 12 0))).fire core i ix e false
  | .uncorrected _ => (d.cellEvent core i 4 (feOperand e 0).2).fire core i ix e true
  | .parity =>
    (d.modCell core i (fun c => { c with stoppedEntries := c.stoppedEntries ++ [ix] })).cellEvent core i 5
      (feOperand e 0).2

/-- A cell operation takes the cell's next ready entry, where that holds the operation. -/
theorem cellOpEff_of_nextEntry {op core i ix : Nat} {e : W128} (hnext : d.nextEntry core i = some (ix, e))
    (hop : feOp e = op) (u : Upset) : cellOpEff op core i u d = d.fireMeeting core i ix e u := by
  have hholds : ¬ feOp e ≠ op := not_not_intro hop
  simp only [cellOpEff, hnext, if_neg hholds]
  cases u <;> rfl

/-- Each command of Table 6.5 is its cell's operation of its code. -/
theorem exec_of_cellCommand {c : Instr} {core : CoreId} {i : CellIx} {u : Upset} {op : Nat}
    (hcommand : cellCommand c = some (core, i, u, op)) (s : State) :
    exec c s = onCore s core.1 (cellOpEff op core.1 i.1 u) := by
  unfold cellCommand at hcommand
  split at hcommand <;> cases hcommand <;> rfl

/-- Settles O22: every command of a cell operation is its entry's fire, and the cases are what that meets. -/
theorem cellOperationsFire : Obligations.CellOperationsFire := by
  intro p d c core i u op ix e hcommand hserving hnext hop
  have hfires : exec c ⟨p, d⟩ = .next ⟨p, d.fireMeeting core.1 i.1 ix e u⟩ :=
    (exec_of_cellCommand hcommand ⟨p, d⟩).trans (onCore_of_serving hserving (cellOpEff_of_nextEntry hnext hop u))
  refine ⟨?clean, ?corrected, ?uncorrected, ?parity⟩
  case clean => rintro (rfl | ⟨m, rfl⟩) <;> exact hfires
  case corrected => rintro ⟨m, rfl⟩; exact hfires
  case uncorrected => rintro ⟨m, rfl⟩; exact hfires
  case parity => rintro rfl; exact hfires

end Sys2Proof.Machine

/-! # O24: the stall watch and the samples

These commands name an island. An idle count at its limit changes the table of idle and move counts and the context's
question alone, so its frame is read off one equation; an answer to a question ends it or raises the deadlock; a sample
covers every slot of its context in the island where the context's mode is SAMPLE. -/

namespace Sys2Proof.Machine

open Sys2Proof.Claims

variable {d : Dev} {isl x : Nat}

/-- A command of an island that the device has, whose clocks run, answers its effect (R377, R479). -/
theorem onNamed_of_there {p : List Instr} {f : Dev → Dev} {t : Dev} {island : Isl} (h : There d island)
    (heff : f d = t) : onNamed ⟨p, d⟩ island f = .next ⟨p, t⟩ := by
  obtain ⟨hexists, hclocked⟩ := h
  have hnamed : ¬ (island.nn.1 = 34 ∧ island.d.1 ≠ 0) := fun ⟨hnn, hd⟩ => hd (hexists hnn)
  rw [onNamed, if_neg hnamed, onIsland, if_neg (Bool.eq_false_iff.mp hclocked), onDev, heff]

/-! ## The idle counts -/

/-- The table of counts with a slot's idle count raised to a limit, its moves left as they were. -/
def raiseIdle (limit : Nat) (m : Table (Nat × Nat)) (s : Nat × SlotIx) : Table (Nat × Nat) :=
  tset m (moveKey s.1 s.2) (max (tget m (moveKey s.1 s.2) (0, 0)).1 limit, (tget m (moveKey s.1 s.2) (0, 0)).2)

/-- The device once slots have reached the idle limit. -/
def Dev.idleAt (d : Dev) (limit : Nat) (ss : List (Nat × SlotIx)) : Dev :=
  { d with moves := ss.foldl (raiseIdle limit) d.moves }

theorem raiseIdle_reaches (limit : Nat) (m : Table (Nat × Nat)) (s : Nat × SlotIx) :
    limit ≤ (tget (raiseIdle limit m s) (moveKey s.1 s.2) (0, 0)).1 := by
  simp [raiseIdle]

/-- A count at the limit stays there, whichever slot is raised. -/
theorem raiseIdle_keeps {limit k : Nat} {m : Table (Nat × Nat)} (hreached : limit ≤ (tget m k (0, 0)).1)
    (s : Nat × SlotIx) : limit ≤ (tget (raiseIdle limit m s) k (0, 0)).1 := by
  by_cases hkey : k = moveKey s.1 s.2
  · exact hkey ▸ raiseIdle_reaches limit m s
  · rwa [raiseIdle, Laws.tget_tset_ne _ _ _ hkey]

/-- Every slot that is raised is at the limit in the end. -/
theorem le_idle_foldl_raiseIdle {limit : Nat} {ss : List (Nat × SlotIx)} {s : Nat × SlotIx} (hmem : s ∈ ss)
    (m : Table (Nat × Nat)) : limit ≤ (tget (ss.foldl (raiseIdle limit) m) (moveKey s.1 s.2) (0, 0)).1 := by
  induction ss generalizing m with
  | nil => cases hmem
  | cons a r ih =>
    obtain rfl | hmem := List.mem_cons.mp hmem
    · exact List.foldlRecOn (motive := fun m => limit ≤ (tget m (moveKey s.1 s.2) (0, 0)).1) r (raiseIdle limit)
        (raiseIdle_reaches limit m s) (fun _ hreached b _ => raiseIdle_keeps hreached b)
    · exact ih hmem (raiseIdle limit m a)

/-! ## The controller's questions -/

/-- A context of which the controller asks the first question. -/
def Ctx.asked (c : Ctx) : Ctx := { c with probe := some (1, []), probeSeen := [] }

/-- A report of an idle count at its limit begins the questions, where none are being asked. -/
def Ctx.reported (c : Ctx) : Ctx := if c.probe.isSome then c else c.asked

/-- A context of which nothing is asked. -/
def Ctx.unasked (c : Ctx) : Ctx := { c with probe := none, probeSeen := [] }

/-- The counts of slots are raised one after the other, in the table of counts alone. -/
theorem Dev.foldl_raiseIdle (limit : Nat) (ss : List (Nat × SlotIx)) :
    ss.foldl (fun d s => { d with moves := raiseIdle limit d.moves s }) d = d.idleAt limit ss :=
  List.foldl_hom (fun m => { d with moves := m }) (fun _ _ => rfl)

/-- The slots of a context in an island whose idle counts rise. -/
def Dev.idleSlots (d : Dev) (isl x : Nat) : List (Nat × SlotIx) :=
  (d.slotsIn isl x).filter (fun s => d.idleRises s.1 s.2)

/-- Slots of a context of which nothing is asked reach the limit, and the questions begin (R174). -/
theorem idleCountLimitEff_asks (hprobe : (d.ctx x).probe = none) (hidles : d.idleSlots isl x ≠ []) :
    idleCountLimitEff isl x d =
      (d.idleAt (d.ctx x).stallLimit (d.idleSlots isl x)).setCtx x (d.ctx x).asked := by
  have hsome : ¬ (d.idleSlots isl x).isEmpty = true := by simpa using hidles
  have hunasked : ¬ (d.ctx x).probe.isSome = true := by simp [hprobe]
  calc idleCountLimitEff isl x d
      = (d.idleAt (d.ctx x).stallLimit (d.idleSlots isl x)).modCtx x Ctx.reported :=
        (if_neg hsome).trans (congrArg (fun t => Dev.modCtx t x Ctx.reported) (Dev.foldl_raiseIdle _ _))
    _ = (d.idleAt (d.ctx x).stallLimit (d.idleSlots isl x)).setCtx x (d.ctx x).asked :=
        congrArg (Dev.setCtx _ x) (if_neg hunasked)

/-- The moves of a context's slots in an island. -/
def Dev.movesIn (d : Dev) (isl x : Nat) : Nat :=
  ((d.slotsIn isl x).map (fun s => (tget d.moves (moveKey s.1 s.2) (0, 0)).2)).sum

/-- Whether an engine of a context's slots in an island works. -/
def Dev.worksIn (d : Dev) (isl x : Nat) : Bool := (d.slotsIn isl x).any (fun s => (d.slot s.1 s.2).busy)

/-- Whether all slots of a context in an island that hold tokens are at the idle limit. -/
def Dev.stuckIn (d : Dev) (isl x : Nat) : Bool :=
  (d.slotsIn isl x).all (fun s => d.slotTokens s.1 s.2 == 0
    || decide ((d.ctx x).stallLimit ≤ (tget d.moves (moveKey s.1 s.2) (0, 0)).1))

/-- An island with slots of a context that has not answered in this round is to answer. -/
theorem not_isEmpty_or_answered (hslots : d.slotsIn isl x ≠ []) (hnew : (d.ctx x).probeSeen.contains isl = false) :
    ¬ ((d.slotsIn isl x).isEmpty || (d.ctx x).probeSeen.contains isl) = true := by
  rw [hnew, Bool.or_false, List.isEmpty_iff]
  exact hslots

section Asked

variable {round : Nat} {first : Table Nat}
  (hprobe : (d.ctx x).probe = some (round, first)) (hslots : d.slotsIn isl x ≠ [])
  (hnew : (d.ctx x).probeSeen.contains isl = false)

include hprobe hslots hnew

/-- An answer of an island whose slots work ends the questions (R174). -/
theorem stallProbeReplyEff_of_works (hworks : d.worksIn isl x = true) :
    stallProbeReplyEff isl x d = d.modCtx x Ctx.unasked := by
  have hanswers := not_isEmpty_or_answered hslots hnew
  have hends : (!(d.stuckIn isl x) || d.worksIn isl x
      || (round == 2 && tget first isl 0 != d.movesIn isl x)) = true := by
    simp [hworks]
  simp only [stallProbeReplyEff, hprobe]
  exact (if_neg hanswers).trans (if_pos hends)

/-- The last island to answer the second round, at its limit, with no work and no move since the first, raises the
deadlock (R174). -/
theorem stallProbeReplyEff_deadlocks (hstuck : d.stuckIn isl x = true) (hrests : d.worksIn isl x = false)
    (hround : round = 2) (hstill : tget first isl 0 = d.movesIn isl x)
    (hlast : (d.regionOf x).all (fun i => (isl :: (d.ctx x).probeSeen).contains i) = true) :
    stallProbeReplyEff isl x d = (d.modCtx x Ctx.unasked).deadlock isl x := by
  have hanswers := not_isEmpty_or_answered hslots hnew
  have hgoesOn : ¬ (!(d.stuckIn isl x) || d.worksIn isl x
      || (round == 2 && tget first isl 0 != d.movesIn isl x)) = true := by
    simp [hstuck, hrests, hstill]
  have hsecond : ¬ round = 1 := by omega
  simp only [stallProbeReplyEff, hprobe]
  exact (if_neg hanswers).trans ((if_neg hgoesOn).trans ((if_pos hlast).trans (if_neg hsecond)))

end Asked

/-! ## Samples -/

/-- The cores that an island holds, ascending. -/
def coresIn (isl : Nat) : List Nat := (List.range 512).filter (fun n => islOfCore n == isl)

/-- The engines' busy bits of an island's cores for a context, then its depth counts (R181, R182). -/
def Dev.sampleBody (d : Dev) (isl x : Nat) : List Byte :=
  (coresIn isl).flatMap (fun n =>
    leBytes 2 (if (d.slotsIn isl x).any (fun s => s.1 == n) then d.busyBits x n else 0))
    ++ (d.depthCounts isl x).flatMap (leBytes 2)

/-- What comes of writing an island's sample record of a context: whether the ring took it, and the device. -/
def Dev.writeSample (d : Dev) (isl x : Nat) : Bool × Dev :=
  d.perfRecord x isl 1 (coreKey ((coresIn isl).headD 0) 13 0) (d.sampleBody isl x)

/-- In SAMPLE mode a record covers all the context's slots in the island, and each of their cores counts it. -/
theorem sampleRecordEff_of_sampled (hmode : (d.ctx x).perfMode = 1) (hslots : d.slotsIn isl x ≠ [])
    (hwritten : (d.writeSample isl x).1 = true) :
    sampleRecordEff isl x d = ((d.slotsIn isl x).map (·.1)).dedup.foldl (fun d n => d.count (coreKey n 13 0x810) 1)
      (d.writeSample isl x).2 := by
  have hsamples : ¬ ((d.ctx x).perfMode = 0 ∨ (d.slotsIn isl x).isEmpty = true) := by simpa [hmode] using hslots
  have hcovered : (d.slotsIn isl x).filter (fun s => (d.ctx x).perfMode == 1 || d.exactStale s.1 s.2)
      = d.slotsIn isl x := by simp [hmode]
  simp only [sampleRecordEff, if_neg hsamples, hcovered]
  exact if_pos hwritten

/-! ## The statement -/

/-- Settles O24: each command of the island answers its effect; what the start of the questions changes is read off its
equation. -/
theorem stallWatchCompletes : Obligations.StallWatchCompletes := by
  intro p d isl x hthere
  refine ⟨fun hprobe hidles => ?asks, fun round first hprobe hslots hnew => ⟨fun hworks => ?ends,
    fun hstuck hrests hround hstill hlast => ?deadlocks⟩, fun hmode hslots => ?samples⟩
  case asks =>
    refine ⟨_, onNamed_of_there hthere (idleCountLimitEff_asks hprobe hidles), rfl, ?asked, rfl, rfl,
      fun s hmem hrises => ?atLimit⟩
    case asked => exact Dev.ctx_setCtx _ _ _
    case atLimit => exact le_idle_foldl_raiseIdle (List.mem_filter.mpr ⟨hmem, hrises⟩) d.moves
  case ends => exact onNamed_of_there hthere (stallProbeReplyEff_of_works hprobe hslots hnew hworks)
  case deadlocks =>
    exact onNamed_of_there hthere (stallProbeReplyEff_deadlocks hprobe hslots hnew hstuck hrests hround hstill hlast)
  case samples =>
    intro cores w hwritten
    exact onNamed_of_there hthere (sampleRecordEff_of_sampled hmode hslots hwritten)

end Sys2Proof.Machine

/-! # O23: the core ports

A binding in use does its work or, where its entry fails its parity, stops: `Dev.withBinding` says so for all four types.
Each type's work has one equation for the binding that moves something (Table 6.6). -/

namespace Sys2Proof.Machine

variable {d : Dev} {core n : Nat} {b : BindSt}

/-! ## Bindings -/

/-- The device once a binding has stopped, which is event 5 of its cell (R172). -/
def Dev.stopBinding (d : Dev) (core n : Nat) (b : BindSt) : Dev :=
  (d.setBinding core n { b with stopped := true }).cellEvent core (bdCell b.cfg) 5 (bdStream b.cfg)

/-- A binding in use does its work while its entry's parity holds. -/
theorem Dev.withBinding_of_use {type : Nat} (huse : d.bindingOf core n type = some b) (tableBad : Bool)
    (f : BindSt → Dev) : d.withBinding core n type tableBad f = if tableBad then d.stopBinding core n b else f b := by
  simp only [Dev.withBinding, huse, Dev.stopBinding]

/-- The place of a binding's next ring slot (R166). -/
def BindSt.ringSlot (b : BindSt) : Nat := bdRing b.cfg + 16 * (b.pos % max (bdSlots b.cfg) 1)

/-- A binding that has moved on by one token, and its batch posted where the token ended one. -/
def Dev.batchMoved (d : Dev) (core : Nat) (b : BindSt) : Dev :=
  if (b.pos + 1) % max (bdBatch b.cfg) 1 = 0 then d.semUp core (bdSlot b.cfg) (bdSemB b.cfg) 1 else d

/-- A binding that has consumed units of its semaphore. -/
def BindSt.consumed (b : BindSt) (units : Nat) : BindSt := { b with units := b.units + units }

/-- A binding that has moved a token. -/
def BindSt.advanced (b : BindSt) : BindSt := { b with pos := b.pos + 1 }

/-- The units of a binding's semaphore. -/
def Dev.unitsOf (d : Dev) (core : Nat) (b : BindSt) : Nat := (d.slot core (bdSlot b.cfg)).sem (bdSemA b.cfg)

/-- Units of a binding's semaphore are consumed. -/
def Dev.lowerUnits (d : Dev) (core : Nat) (b : BindSt) (units : Nat) : Dev :=
  d.semDown core (bdSlot b.cfg) (bdSemA b.cfg) units

/-! ## Inbound -/

/-- The next token that the core's port of a binding's cell holds for it. -/
def Dev.nextFor (d : Dev) (core : Nat) (b : BindSt) : Option (Option Nat × Token) :=
  (d.cell core (bdCell b.cfg)).portToken (bdStream b.cfg) (bdEpoch b.cfg)

/-- An IN_RING binding that has consumed every unit of its semaphore (R166). -/
def Dev.ringBinding (d : Dev) (core : Nat) (b : BindSt) : BindSt := b.consumed (d.unitsOf core b)

/-- The device once an IN_RING binding has consumed every unit of its semaphore. -/
def Dev.ringFilled (d : Dev) (core n : Nat) (b : BindSt) : Dev :=
  (d.lowerUnits core b (d.unitsOf core b)).setBinding core n (d.ringBinding core b)

/-- A token taken for a binding and written to its ring slot. -/
def Dev.ringWritten (d : Dev) (core n : Nat) (b : BindSt) (port : Option Nat) (k : Token) : Dev :=
  (((d.takePortToken core (bdCell b.cfg) (bdStream b.cfg) port).opWrite core (bdSlot b.cfg) 0 b.ringSlot
    (leBytes 16 k.payload.toNat)).setBinding core n b.advanced).portMoved core (bdSlot b.cfg)

/-- IN_RING writes its next DATA token where the ring has room. -/
theorem inRingEff_writes {port : Option Nat} {k : Token} (huse : d.bindingOf core n 0 = some b)
    (hnext : (d.ringFilled core n b).nextFor core b = some (port, k)) (hdata : k.kind = Kind.data)
    (hroom : b.pos < bdSlots b.cfg + bdBatch b.cfg * (d.ringBinding core b).units) :
    inRingEff core n false d = ((d.ringFilled core n b).ringWritten core n (d.ringBinding core b) port k).batchMoved
      core (d.ringBinding core b) := by
  have hkind : ¬ k.kind ≠ Kind.data := not_not_intro hdata
  have hfree : ¬ bdSlots b.cfg + bdBatch b.cfg * (d.ringBinding core b).units ≤ b.pos := Nat.not_le.mpr hroom
  unfold Dev.nextFor Dev.ringFilled Dev.lowerUnits Dev.ringBinding Dev.unitsOf BindSt.consumed at hnext
  simp only [inRingEff, Dev.withBinding_of_use huse, Bool.false_eq_true, if_false, hnext]
  exact (if_neg hkind).trans (if_neg hfree)

/-- SEM_IN turns its next SEM token into a unit of its semaphore. -/
theorem semInEff_raises {port : Option Nat} {k : Token} (huse : d.bindingOf core n 2 = some b)
    (hnext : d.nextFor core b = some (port, k)) (hsem : k.kind = Kind.sem) :
    semInEff core n false d =
      ((d.takePortToken core (bdCell b.cfg) (bdStream b.cfg) port).portMoved core (bdSlot b.cfg)).semUp core
        (bdSlot b.cfg) (bdSemA b.cfg) 1 := by
  have hkind : ¬ k.kind ≠ Kind.sem := not_not_intro hsem
  rw [Dev.nextFor] at hnext
  simp only [semInEff, Dev.withBinding_of_use huse, Bool.false_eq_true, if_false, hnext]
  exact if_neg hkind

/-! ## Outbound -/

/-- The device once an outbound binding has consumed a unit of its semaphore for the token that it is to send. -/
def Dev.unitTaken (d : Dev) (core n : Nat) (b : BindSt) : Dev :=
  (d.lowerUnits core b 1).setBinding core n (b.advanced.consumed 1)

/-- The 16 bytes of a binding's next ring slot. -/
def Dev.ringRead (d : Dev) (core : Nat) (b : BindSt) : W128 :=
  BitVec.ofNat 128 (leNat (d.opRead core (bdSlot b.cfg) 0 b.ringSlot 16))

/-- OUT_RING begins a batch with a unit of its semaphore and sends the token of its next ring slot. -/
theorem outRingEff_begins (huse : d.bindingOf core n 1 = some b) (hsends : d.maySend core b = true)
    (hbegins : b.pos % max (bdBatch b.cfg) 1 = 0) (hunit : d.unitsOf core b ≠ 0) :
    outRingEff core n false d =
      ((d.unitTaken core n b).portSend core b Kind.data ((d.lowerUnits core b 1).ringRead core b)).batchMoved core b := by
  have hstarts : (b.pos % max (bdBatch b.cfg) 1 == 0) = true := beq_iff_eq.mpr hbegins
  have hgoes : ¬ (!(d.maySend core b) || (true && d.unitsOf core b == 0)) = true := by simp [hsends, hunit]
  simp only [outRingEff, Dev.withBinding_of_use huse, Bool.false_eq_true, if_false, hstarts, if_true]
  exact if_neg hgoes

/-- The value that LEN_OUT sends: its length register, 0 where that is negative. -/
def Dev.lengthFor (d : Dev) (core : Nat) (b : BindSt) : W128 :=
  BitVec.ofNat 128 (((d.slot core (bdSlot b.cfg)).seq.len.toList.getD (bdLen b.cfg) 0).toInt.toNat)

/-- LEN_OUT sends its length register under a unit of its semaphore. -/
theorem lenOutEff_sends (huse : d.bindingOf core n 3 = some b) (hsends : d.maySend core b = true)
    (hunit : d.unitsOf core b ≠ 0) :
    lenOutEff core n false d = (d.unitTaken core n b).portSend core b Kind.iter (d.lengthFor core b) := by
  have hgoes : ¬ (!(d.maySend core b) || d.unitsOf core b == 0) = true := by simp [hsends, hunit]
  simp only [lenOutEff, Dev.withBinding_of_use huse, Bool.false_eq_true, if_false]
  exact if_neg hgoes

/-! ## The statement -/

/-- Settles O23: a binding in use moves what its type moves, or stops where its entry's parity fails. -/
theorem corePortsComplete : Obligations.CorePortsComplete := by
  intro p d core n b hserving
  refine ⟨fun port k huse => ?inRing, fun huse hsends hbegins hunit => ?outRing,
    fun port k huse hnext hsem => ?semIn, fun huse hsends hunit => ?lenOut, ?stops⟩
  case inRing =>
    intro units filled d1 hnext hdata hroom
    exact onCore_polled hserving (inRingEff_writes huse hnext hdata hroom)
  case outRing => exact onCore_polled hserving (outRingEff_begins huse hsends hbegins hunit)
  case semIn => exact onCore_polled hserving (semInEff_raises huse hnext hsem)
  case lenOut => exact onCore_of_serving hserving (lenOutEff_sends huse hsends hunit)
  case stops =>
    have hstop {type : Nat} (huse : d.bindingOf core.1 n.1 type = some b) (f : BindSt → Dev) :
        d.withBinding core.1 n.1 type true f = d.stopBinding core.1 n.1 b := Dev.withBinding_of_use huse true f
    exact ⟨fun huse => onCore_polled hserving (hstop huse _), fun huse => onCore_polled hserving (hstop huse _),
      fun huse => onCore_polled hserving (hstop huse _), fun huse => onCore_of_serving hserving (hstop huse _)⟩

end Sys2Proof.Machine

/-! # O25, O26, O27: hub accesses, grist streams and the upkeep of HBM

What a hub does to a context's memory has one equation for each thing that it meets: a closed crossing, a range that
admits the access or forbids it, a host that fails (R193, R202, R208, R382). A grist fetch either holds its sequence or,
in the sequence's place, the status that it met (R214, R216). -/

namespace Sys2Proof.Machine

open Sys2Proof.Claims

variable {d : Dev}

/-! ## Hub accesses -/

section Access

variable {j x va n : Nat} {bs : List Byte}

/-- A read that its range admits delivers the bytes. -/
theorem Dev.hubRead_of_admitted (hadmitted : (d.ctxRead x va n).1 = 0) :
    (d.hubRead j x va n).1 = 0 ∧ (d.hubRead j x va n).2.1 = (d.ctxRead x va n).2 := by
  simp [Dev.hubRead, hadmitted]

/-- A read that its range forbids delivers its status, and touches nothing. -/
theorem Dev.hubRead_of_forbidden (hforbidden : (d.ctxRead x va n).1 ≠ 0) :
    d.hubRead j x va n = ((d.ctxRead x va n).1, [], d) :=
  if_pos hforbidden

/-- Where nothing upsets it, a read that delivers bytes answers them. -/
theorem Dev.hubReadMeets_of_admitted (hadmitted : (d.ctxRead x va n).1 = 0) :
    d.hubReadMeets j x va n .none = (0, (d.ctxRead x va n).2, (d.hubRead j x va n).2.2) := by
  obtain ⟨hstatus, hbytes⟩ := Dev.hubRead_of_admitted (j := j) hadmitted
  simp [Dev.hubReadMeets, Dev.accessUpset, hstatus, hbytes]

/-- Where its range forbids it, a read answers the status and touches nothing. -/
theorem Dev.hubReadMeets_of_forbidden (hforbidden : (d.ctxRead x va n).1 ≠ 0) :
    d.hubReadMeets j x va n .none = ((d.ctxRead x va n).1, [], d) := by
  have hread := Dev.hubRead_of_forbidden (j := j) hforbidden
  simp only [Dev.hubReadMeets, reduceCtorEq, if_false, hread, if_pos hforbidden]

/-- A write that nothing upsets is the hub's write. -/
theorem Dev.hubWriteMeets_none : d.hubWriteMeets j x va bs .none = d.hubWrite j x va bs := by
  simp [Dev.hubWriteMeets]

/-- The host fails an access that has a piece in host memory (R208). -/
theorem Dev.accessUpset_hostFail
    (hhost : (piecesOf va n).any (fun q => onHost ((d.ctx x).translate q.1 false false).2) = true) :
    d.accessUpset x va n .hostFail = (Code.hostAccess, d) := by
  have hplaces : ((piecesOf va n).map (fun q => ((d.ctx x).translate q.1 false false).2)).any onHost = true := by
    rw [List.any_map]
    exact hhost
  exact if_pos hplaces

/-- A write that its range admits and the host fails stores nothing. -/
theorem Dev.hubWriteMeets_of_hostFail (hadmitted : (d.ctx x).rangeStatus va bs.length true = 0)
    (hhost : (piecesOf va bs.length).any (fun q => onHost ((d.ctx x).translate q.1 false false).2) = true) :
    d.hubWriteMeets j x va bs .hostFail = (Code.hostAccess, d) := by
  simp [Dev.hubWriteMeets, hadmitted, Dev.accessUpset_hostFail hhost]

/-- An access that would pass a closed crossing waits there (R382). -/
theorem hubAccessEff_of_closed (hclosed : d.memOpen j x va bs.length = false) (write : Bool) (u : ReadUpset) :
    hubAccessEff j x write va bs u d = d := by
  simp [hubAccessEff, hclosed]

section Open

variable (hopen : d.memOpen j x va bs.length = true)

include hopen

theorem hubAccessEff_writes (u : ReadUpset) : hubAccessEff j x true va bs u d =
    { (d.hubWriteMeets j x va bs u).2 with answer := ((d.hubWriteMeets j x va bs u).1, []) } := by
  simp [hubAccessEff, hopen]

theorem hubAccessEff_reads (u : ReadUpset) : hubAccessEff j x false va bs u d =
    { (d.hubReadMeets j x va bs.length u).2.2 with
      answer := ((d.hubReadMeets j x va bs.length u).1, (d.hubReadMeets j x va bs.length u).2.1) } := by
  simp [hubAccessEff, hopen]

end Open

end Access

/-- Settles O25: each access is a read or a write of the hub, and each case is what that answers. -/
theorem hubAccessCompletes : Obligations.HubAccessCompletes := by
  intro p d j x va data hserving
  refine ⟨fun hclosed w u => ?closed, fun hopen hadmitted hhost => ?hostFails, fun hopen =>
    ⟨fun hadmitted => ?reads, fun hforbidden => ?noRead, fun hadmitted => ?writes, fun hforbidden => ?noWrite⟩⟩
  case closed => exact onHub_of_serving hserving (hubAccessEff_of_closed hclosed w u)
  case hostFails =>
    exact onHub_of_serving hserving
      (by rw [hubAccessEff_writes hopen, Dev.hubWriteMeets_of_hostFail hadmitted hhost])
  case reads =>
    have heff := hubAccessEff_reads hopen .none
    rw [Dev.hubReadMeets_of_admitted hadmitted] at heff
    exact ⟨_, onHub_of_serving hserving heff, rfl, rfl, rfl⟩
  case noRead =>
    exact onHub_of_serving hserving (by rw [hubAccessEff_reads hopen, Dev.hubReadMeets_of_forbidden hforbidden])
  case writes =>
    have hwrite : d.hubWrite j.1 x.1 va data = d.hubWritePieces j.1 x.1 data (piecesOf va data.length) :=
      if_pos hadmitted
    exact onHub_of_serving hserving (by rw [hubAccessEff_writes hopen, Dev.hubWriteMeets_none, hwrite])
  case noWrite =>
    have hwrite : d.hubWrite j.1 x.1 va data = ((d.ctx x.1).rangeStatus va data.length true, d) := if_neg hforbidden
    exact onHub_of_serving hserving (by rw [hubAccessEff_writes hopen, Dev.hubWriteMeets_none, hwrite])

/-! ## Grist streams -/

section Grist

variable {j x stream entry : Nat} {g : GStream}

/-- A stream that holds its next sequence, or in its place the status of its fetch. -/
def GStream.hold (g : GStream) (va len : Nat) (fault : Option W16) : GStream :=
  { g with next := g.due + 1, held := g.held ++ [GristSeq.mk g.due va len fault] }

/-- The device once a cluster's stream holds its next sequence. -/
def Dev.holdSeq (d : Dev) (j : Nat) (g : GStream) (va len : Nat) (fault : Option W16) : Dev :=
  d.modCluster j (fun c => c.setStream (g.hold va len fault))

section Fetch

variable (hstream : (d.cluster j).streams.find? (fun g => g.ctx == x && g.num == stream) = some g)
  (hplaced : d.onCluster j x = true) (hleft : g.due < g.rec_.entries) (hwindow : g.due < g.low + g.rec_.window)
  (hentryAt : g.rec_.schedule + 8 * g.due = entry)

include hstream hplaced hleft hwindow hentryAt

/-- A fetch whose schedule entry cannot be read holds the status (R216). -/
theorem gristFetchEff_fails (hentry : (d.ctxRead x entry 8).1 ≠ 0) (u : ReadUpset) :
    gristFetchEff j x stream u d =
      (d.holdSeq j g 0 0 (some (d.ctxRead x entry 8).1)).errFire (hubKey j 3 0) 1 (stream + x * 2 ^ 16) := by
  have hfetches : ¬ (!(d.onCluster j x) || g.rec_.entries ≤ g.due || g.low + g.rec_.window ≤ g.due) = true := by
    simp [hplaced, hleft, hwindow]
  simp only [gristFetchEff, hstream, hentryAt]
  exact (if_neg hfetches).trans (if_pos hentry)

/-- A sequence that lies in its object, can be read and has room in the locked ways is held (R214). -/
theorem gristFetchEff_holds {num off va len : Nat} {o : Obj} (hentry : (d.ctxRead x entry 8).1 = 0)
    (hobj : d.objOf x g.rec_.object = some (num, o)) (hoff : leNat (d.ctxRead x entry 8).2 % 2 ^ 48 = off)
    (hva : (o.addrIn x).getD 0 + off = va) (hlen : max 64 (leNat (((d.ctxRead x va 64).2.drop 8).take 4)) = len)
    (hheaderIn : off + 64 ≤ pagesOf o.size * 0x200000) (hheader : (d.ctxRead x va 64).1 = 0)
    (hroom : g.heldBytes + len ≤ g.rec_.lock * 0x200000) (hinside : off + len ≤ pagesOf o.size * 0x200000)
    (hread : (d.ctxRead x va len).1 = 0) (hopen : d.memOpen j x va len = true) :
    gristFetchEff j x stream .none d =
      ((((d.drew.holdSeq j g va len none).stackReads x entry 8).fetchTrip j x va len).count
        (hubKey j 3 0x800) len).count (hubKey j 3 0x808) 1 := by
  have hfetches : ¬ (!(d.onCluster j x) || g.rec_.entries ≤ g.due || g.low + g.rec_.window ≤ g.due) = true := by
    simp [hplaced, hleft, hwindow]
  have hreached : ¬ (!(d.memOpen j x va len)) = true := by simp [hopen]
  have hsound : d.drew.accessUpset x va len .none = (0, d.drew) := rfl
  simp only [gristFetchEff, hstream, hobj, hentryAt, hoff, hva, hlen, hsound]
  rw [if_neg hfetches, if_neg (not_not_intro hentry), if_neg (Nat.not_lt.mpr hheaderIn),
    if_neg (not_not_intro hheader), if_neg (Nat.not_lt.mpr hroom), if_neg (Nat.not_lt.mpr hinside),
    if_neg (not_not_intro hread), if_neg hreached, if_neg (not_not_intro rfl)]
  rfl

end Fetch

end Grist

section Starved

variable {core : Nat} {t : SlotIx} {w : W64}

/-- What a starved ISSUE tells the host: its cluster, and the stream that it waits for (R218). -/
def Dev.starvedInfo (d : Dev) (core : Nat) (t : SlotIx) (w : W64) : W32 :=
  BitVec.ofNat 32 (core / 16 * 2 ^ 8 + opOffset (dN (d.opRead core t 0 (bitsOf w.toNat 21 0) 64) 0x14 4) % 8)

/-- A slot whose starvation has been told. -/
def Slot.toldStarved (s : Slot) : Slot := { s with starved := true }

/-- A stall on grist data that has lasted its limit, and has not been told, is counted and told (R218). -/
theorem gristStarvedEff_tells (hstall : (d.slot core t).stall = .issue)
    (hfetch : (d.slot core t).program[(d.slot core t).seq.pc]? = some w)
    (hlimit : d.rnat (hubKey (core / 16) 3 0 + 0x100) ≠ 0) (honce : (d.slot core t).starved = false)
    (hwaits : d.issueFind core t w = .stall true) :
    gristStarvedEff core t d =
      (((d.modSlot core t Slot.toldStarved).noteEvent (islOfHub (core / 16))).count (hubKey (core / 16) 3 0 + 0x820)
        1).ctxEvent (d.slot core t).ctx Code.gristStarved (d.starvedInfo core t w) [] := by
  have htells : ¬ (d.rnat (hubKey (core / 16) 3 0 + 0x100) = 0 || (d.slot core t).starved
      || d.issueFind core t w != .stall true) = true := by
    simp [hlimit, honce, hwaits]
  simp only [gristStarvedEff, hstall, hfetch]
  exact if_neg htells

end Starved

/-- Settles O26: a fetch holds the status or the sequence that it met, and a stall at its limit is told. -/
theorem gristStreamsComplete : Obligations.GristStreamsComplete := by
  intro p d
  refine ⟨fun j x n g hserving hstream hplaced hleft hwindow => ⟨fun hentry => ?fails, ?holds⟩,
    fun core x w hserving hstall hfetch hlimit honce hwaits => ?starved⟩
  case fails => exact onHub_of_serving hserving (gristFetchEff_fails hstream hplaced hleft hwindow rfl hentry .none)
  case holds =>
    intro num o hentry hobj off va len hheaderIn hheader hroom hinside hread hopen
    exact onHub_of_serving hserving (gristFetchEff_holds hstream hplaced hleft hwindow rfl hentry hobj rfl rfl rfl
      hheaderIn hheader hroom hinside hread hopen)
  case starved => exact onCore_of_serving hserving (gristStarvedEff_tells hstall hfetch hlimit honce hwaits)

/-! ## Upkeep of HBM -/

/-- What a scrub step's finding makes of the device: a full pass is counted, an error recorded (R196, R327). -/
def Dev.scrubFound (d : Dev) (stack : Nat) : ScrubFind → Dev
  | .clean passDone => if passDone then d.count (hbmKey stack 0 0x820) 1 else d
  | .corrected pc => d.hbmCorrected stack (pc % 64) 0 0xFFFF
  | .uncorrected pc frame _ => d.hbmUncorrected stack (pc % 64) (stack / 4 * 65536 + frame % 65536) 0xFFFF true
  | .caParity => d.errFire (hbmKey stack 0 0) 2 0x3FF00

theorem scrubStepEff_of_stackIn {stack : Nat} (hin : d.stackIn stack = true) (find : ScrubFind) :
    scrubStepEff stack find d = d.scrubFound stack find := by
  have hserves : ¬ (!(d.stackIn stack)) = true := by simp [hin]
  cases find <;> exact if_neg hserves

/-- Once every frame of the region has had its first zeroing, the oldest freed frame is zeroed (R246, R424). -/
theorem frameZeroedEff_of_freed {die f : Nat} {rest : List Nat} (hready : d.sec.devState = .ready)
    (hfreed : (d.poolOf die).toZero = f :: rest) (hzeroed : d.regionFrames die ≤ (d.poolOf die).zeroed) :
    frameZeroedEff die d =
      ((d.hbmClear (die * 65536 + f)).drew).setPool die { d.poolOf die with toZero := rest } := by
  have hfirst : ¬ (d.poolOf die).zeroed < d.regionFrames die := Nat.not_lt.mpr hzeroed
  simp [frameZeroedEff, hready, hfreed, hfirst]

/-- Settles O27: each finding of a scrub step, and the frame that is zeroed, is its command's effect. -/
theorem hbmUpkeepCompletes : Obligations.HbmUpkeepCompletes := by
  intro p d
  refine ⟨fun k hin => ?scrub, fun n f rest hready hfreed hzeroed => ?zeroed⟩
  case scrub =>
    have hfinds (find : ScrubFind) := onDev_of_eff (p := p) (scrubStepEff_of_stackIn hin find)
    exact ⟨hfinds (.clean true), hfinds (.clean false), fun pc => hfinds (.corrected pc),
      fun pc f o => hfinds (.uncorrected pc f o), hfinds .caParity⟩
  case zeroed => exact onDev_of_eff (frameZeroedEff_of_freed hready hfreed hzeroed)

end Sys2Proof.Machine

/-! # O28: object commands and moves

The checks of a live context's command let a good one reach its own effect (Table 8.4), and every host command is then
a scheduling event (R234). A move has an equation for its beginning, one for a frame, which says what a closed crossing
or a failing host does to it, and one for each end: up, down, stopped (R205, R206, R208, Table 7.7). -/

namespace Sys2Proof.Machine

open Sys2Proof.Claims

variable {d : Dev}

/-! ## Host commands -/

/-- A host command that its context's state lets run reaches its own effect (R225, R404, Table 8.4). -/
theorem Dev.liveCmd_of_liveGood {h : CmdHdr} (hgood : LiveGood d h) (f : Dev → Dev) : d.liveCmd h f = f d := by
  obtain ⟨⟨hready, hqueue, hctx, hfn⟩, hlive⟩ := hgood
  simp [Dev.liveCmd, Dev.ctxCmd, hready, hqueue, hctx, hfn, hlive]

/-- The answer to a host command is its effect, and a scheduling event (R234). -/
theorem onCmd_of_eff {p : List Instr} {f : Dev → Dev} {t : Dev} (heff : f d = t) :
    onCmd ⟨p, d⟩ f = .next ⟨p, t.schedule⟩ :=
  onDev_of_eff (congrArg Dev.schedule heff)

/-! ## Creation, attachment and release -/

section Command

variable {h : CmdHdr} {n : Nat} {o : Obj} {object range : W32}

/-- What an allocation entry of a command's context comes to. -/
def Dev.allocated (d : Dev) (h : CmdHdr) (e : AllocEntry) : W16 × Nat × Bool × Dev :=
  d.allocate h.ctx (d.ctx h.ctx).bounds e

/-- The device once an allocation's command completes with the object's number. -/
def Dev.allocDone (d : Dev) (h : CmdHdr) (e : AllocEntry) : Dev :=
  (d.allocated h e).2.2.2.complete h 0 (BitVec.ofNat 32 (d.allocated h e).2.1)

/-- An entry that passes its checks, and need not wait for a placement, makes its object. -/
theorem objCreateEff_makes {e : AllocEntry} (hgood : LiveGood d h) (hpasses : (d.allocated h e).1 = 0)
    (hplaced : (d.allocated h e).2.2.1 = false) : objCreateEff h e d = d.allocDone h e := by
  have hnow : ¬ (d.allocated h e).2.2.1 = true := by simp [hplaced]
  exact (Dev.liveCmd_of_liveGood hgood _).trans ((if_neg (not_not_intro hpasses)).trans (if_neg hnow))

/-- An entry that shares an object and passes its checks joins it. -/
theorem objAttachEff_joins {e : AllocEntry} (hgood : LiveGood d h) (hshares : entryShares e = true)
    (hpasses : (d.allocated h e).1 = 0) : objAttachEff h e d = d.allocDone h e := by
  refine (Dev.liveCmd_of_liveGood hgood _).trans ?_
  simp only [if_pos hshares]
  exact if_neg (not_not_intro hpasses)

/-- A release gives back the hold of an object that the context holds. -/
theorem objReleaseEff_releases (hgood : LiveGood d h) (hobj : d.objOf h.ctx object.toNat = some (n, o)) :
    objReleaseEff h object d = d.releaseHold h.ctx n o (some h) := by
  refine (Dev.liveCmd_of_liveGood hgood _).trans ?_
  simp only [hobj]

/-! ## The beginning of a move -/

/-- An object on its way up, with its target's frames. -/
def Obj.startUp (o : Obj) (fs : List Nat) (h : CmdHdr) : Obj :=
  { o with motion := .up, moveFrames := fs, moved := 0, moveCmd := some h }

/-- An object on its way down, with its target's range. -/
def Obj.startDown (o : Obj) (range bus : Nat) (h : CmdHdr) : Obj :=
  { o with motion := .down, moveRange := some (range, bus), moved := 0, moveCmd := some h }

/-- Every holder of an object is charged (R205). -/
def Dev.chargeHolders (d : Dev) (o : Obj) (a : List Nat) : Dev :=
  o.holders.foldl (fun d q => d.modCtx q.1 (fun c => c.addCharges a)) d

section Begin

variable (hgood : LiveGood d h) (hobj : d.objOf h.ctx object.toNat = some (n, o)) (hstable : o.motion = .stable)
  (hresident : o.resident = none)

include hgood hobj hstable hresident

/-- A move to HBM takes its frames, charges them to every holder and begins (R205, R206). -/
theorem objMoveUpEff_begins {fs : List Nat} {d' : Dev} (htier : o.tier = 2)
    (hrange : (d.rangeOf h.fn range.toNat).isSome = true) (hsource : o.hostRange.map (·.1) = some range.toNat)
    (hquota : ∀ q ∈ o.holders, (d.ctx q.1).canCharge [0, pagesOf o.size, 0, 0] = true)
    (hframes : d.takeFrames (placeDies o.placement ((d.ctx h.ctx).nearDie.getD 0) 0 (pagesOf o.size)) = some (fs, d')) :
    objMoveUpEff h object range d =
      (d'.chargeHolders o [0, pagesOf o.size, 0, 0]).setObj n (o.startUp fs h) := by
  have hkind : ¬ (o.tier ≠ 2 ∨ o.resident.isSome = true) := by simp [htier, hresident]
  have hhost : ¬ ((d.rangeOf h.fn range.toNat).isNone = true ∨ o.hostRange.map (·.1) ≠ some range.toNat) := by
    simp [hsource, Option.isSome_iff_ne_none.mp hrange]
  have hcharged : ¬ (!(o.holders.all (fun q => (d.ctx q.1).canCharge [0, pagesOf o.size, 0, 0]))) = true := by
    simpa using hquota
  refine (Dev.liveCmd_of_liveGood hgood _).trans ?_
  simp only [hobj, hframes]
  exact (if_neg (not_not_intro hstable)).trans ((if_neg hkind).trans ((if_neg hhost).trans (if_neg hcharged)))

/-- A move to host memory of an object that one context holds takes its pages, charges them and begins (R205, R206). -/
theorem objMoveDownEff_begins {r : HostRange} {bus : Nat} (hone : o.holders.length ≤ 1) (htier : o.tier = 1)
    (hversioned : o.isVersioned = false) (hlogged : o.isLogged = false) (hframes : o.frames ≠ [])
    (hrange : d.rangeOf h.fn range.toNat = some r) (hroom : d.roomIn r (pagesOf o.size) = some bus)
    (hquota : (d.ctx h.ctx).canCharge [0, 0, pagesOf o.size, 0] = true) :
    objMoveDownEff h object range d =
      (d.modCtx h.ctx (fun c => c.addCharges [0, 0, pagesOf o.size, 0])).setObj n
        (o.startDown range.toNat bus h) := by
  have hkind : ¬ (o.tier ≠ 1 ∨ o.resident.isSome = true ∨ o.isVersioned = true ∨ o.isLogged = true
      ∨ o.frames = []) := by
    simp [htier, hresident, hversioned, hlogged, hframes]
  have hfound : (d.rangeOf h.fn range.toNat).bind (fun r => d.roomIn r (pagesOf o.size)) = some bus :=
    Option.bind_eq_some_iff.mpr ⟨r, hrange, hroom⟩
  have hcharged : ¬ (!((d.ctx h.ctx).canCharge [0, 0, pagesOf o.size, 0])) = true := by simp [hquota]
  refine (Dev.liveCmd_of_liveGood hgood _).trans ?_
  simp only [hobj, hfound]
  exact (if_neg (Nat.not_lt.mpr hone)).trans
    ((if_neg (not_not_intro hstable)).trans ((if_neg hkind).trans (if_neg hcharged)))

end Begin

end Command

/-! ## Moves -/

/-- Charges of every holder of an object given back. -/
def Dev.returnHolders (d : Dev) (o : Obj) (a : List Nat) : Dev :=
  o.holders.foldl (fun d q => d.modCtx q.1 (fun c => c.subCharges a)) d

/-- An object that a move has brought to HBM. -/
def Obj.endUp (o : Obj) : Obj :=
  { o with
    motion := .stable, tier := 1, frames := o.moveFrames, moveFrames := [], hostRange := none, moved := 0
    moveCmd := none }

/-- An object that a move has brought to host memory. -/
def Obj.endDown (o : Obj) : Obj :=
  { o with
    motion := .stable, tier := 2, frames := [], hostRange := o.moveRange, moveRange := none, moved := 0
    moveCmd := none }

/-- An object with one more frame carried. -/
def Obj.carried (o : Obj) : Obj := { o with moved := o.moved + 1 }

/-- A frame of a move up is carried from the host range to its target frame. -/
def Dev.carryUp (d : Dev) (n : Nat) (o : Obj) (f : Nat) : Dev :=
  ((d.drew.store 32 (.t1 f 0)
    (d.hostReads ((o.hostRange.map (·.2)).getD 0 + o.moved * 0x200000) 0x200000)).frameTrip f false).setObj n o.carried

/-- A frame of a move down is carried to the target range in host memory. -/
def Dev.carryDown (d : Dev) (n : Nat) (o : Obj) (f : Nat) : Dev :=
  (((d.placeRead (.t1 f 0) 0x200000).store 32 (.t2 ((o.moveRange.map (·.2)).getD 0 + o.moved * 0x200000))
    (d.physRead (.t1 f 0) 0x200000)).frameTrip f true).setObj n o.carried

section Move

variable {n : Nat} {o : Obj} (hobj : tget? d.objs n = some o)

include hobj

section Complete

variable (hcarried : pagesOf o.size ≤ o.moved)

include hcarried

/-- A move up whose every frame is carried gives back the host pages' charges and completes. -/
theorem moveCompleteEff_up (hup : o.motion = .up) :
    moveCompleteEff n d = (((d.returnHolders o [0, 0, pagesOf o.size, 0]).setObj n o.endUp).remap o.endUp).completeOpt
      o.moveCmd 0 0 := by
  simp only [moveCompleteEff, hobj, hup]
  exact if_neg (Nat.not_lt.mpr hcarried)

/-- A move down whose every frame is carried gives back the source's frames and their charges, and completes. -/
theorem moveCompleteEff_down (hdown : o.motion = .down) :
    moveCompleteEff n d = ((((d.returnHolders o [0, pagesOf o.size, 0, 0]).freeFrameList o.frames).setObj n
      o.endDown).remap o.endDown).completeOpt o.moveCmd 0 0 := by
  simp only [moveCompleteEff, hobj, hdown]
  exact if_neg (Nat.not_lt.mpr hcarried)

end Complete

section Frame

variable {f : Nat} (hleft : o.moved < pagesOf o.size)

include hleft

/-- A frame of a move up is carried where its way is open and the host does not fail it; where a crossing on its way is
closed it waits (R208, R382). -/
theorem objectMoveFrameEff_of_up (hup : o.motion = .up) (hf : o.moveFrames.getD o.moved 0 = f) (u : ReadUpset) :
    objectMoveFrameEff n u d =
      if d.frameOpen f = true then
        if u = .hostFail then d.moveFails n o Code.hostAccess else d.carryUp n o f
      else d := by
  simp only [objectMoveFrameEff, hobj, hup, hf, Nat.not_le.mpr hleft, if_false, Dev.carryUp, Obj.carried]
  cases d.frameOpen f <;> rfl

/-- A frame of a move down whose way is open, and of which no word is upset, is carried where the host does not fail
it. -/
theorem objectMoveFrameEff_of_down {u : ReadUpset} (hdown : o.motion = .down) (hf : o.frames.getD o.moved 0 = f)
    (hopen : d.frameOpen f = true) (hread : u ≠ .uncorrected) (hclean : u ≠ .corrected) :
    objectMoveFrameEff n u d =
      if u = .hostFail then d.moveFails n o Code.hostAccess else d.carryDown n o f := by
  simp only [objectMoveFrameEff, hobj, hdown, hf, Nat.not_le.mpr hleft, hopen, Bool.not_true, Bool.false_eq_true,
    hread, hclean, if_false, Dev.carryDown, Obj.carried]

end Frame

/-- A move whose last hold is gone stops: both copies are freed and both commands complete (Table 7.7). -/
theorem objectMoveFrameEff_stopping (hstopping : o.motion = .stopping) (u : ReadUpset) :
    objectMoveFrameEff n u d =
      ((d.freeObj n o).completeOpt o.moveCmd Code.objectUnknown 0).completeOpt o.releaseCmd 0 0 := by
  simp only [objectMoveFrameEff, hobj, hstopping]

end Move

/-! ## The statement -/

/-- Settles O28: each command answers its effect, and each case is that effect's equation. -/
theorem objectCommandsAndMovesComplete : Obligations.ObjectCommandsAndMovesComplete := by
  refine ⟨fun p d h hgood => ⟨fun e hpasses hplaced => ?makes, fun e hshares hpasses => ?joins,
      fun object range n o hobj => ⟨?releases,
        fun fs d' hstable htier hresident hrange hsource hquota hframes => ?up,
        fun r bus hone hstable htier hresident hversioned hlogged hframes hrange hroom hquota => ?down⟩⟩,
    fun p d n o hobj => ⟨fun hcarried hup => ?endUp, fun hcarried hdown => ?endDown, fun hleft hup => ?carryUp,
      fun hleft hdown => ?carryDown, fun hstopping u => ?stops⟩⟩
  case makes => exact onCmd_of_eff (objCreateEff_makes hgood hpasses hplaced)
  case joins => exact onCmd_of_eff (objAttachEff_joins hgood hshares hpasses)
  case releases => exact onCmd_of_eff (objReleaseEff_releases hgood hobj)
  case up =>
    exact onCmd_of_eff (objMoveUpEff_begins hgood hobj hstable hresident htier hrange hsource hquota hframes)
  case down =>
    exact onCmd_of_eff (objMoveDownEff_begins hgood hobj hstable hresident hone htier hversioned hlogged hframes
      hrange hroom hquota)
  case endUp => exact ⟨o.endUp, rfl, onDev_of_eff (moveCompleteEff_up hobj hcarried hup)⟩
  case endDown => exact ⟨o.endDown, rfl, onDev_of_eff (moveCompleteEff_down hobj hcarried hdown)⟩
  case carryUp =>
    have hmeets (u : ReadUpset) := objectMoveFrameEff_of_up hobj hleft hup rfl u
    exact ⟨fun hopen => onDev_of_eff ((hmeets .none).trans ((if_pos hopen).trans (if_neg (by decide)))),
      fun hopen => onDev_of_eff ((hmeets .hostFail).trans ((if_pos hopen).trans (if_pos rfl))),
      fun hclosed u => onDev_of_eff ((hmeets u).trans (if_neg (Bool.eq_false_iff.mp hclosed)))⟩
  case carryDown =>
    exact ⟨fun hopen => onDev_of_eff
        ((objectMoveFrameEff_of_down (u := .none) hobj hleft hdown rfl hopen (by decide) (by decide)).trans
          (if_neg (by decide))),
      fun hopen => onDev_of_eff
        ((objectMoveFrameEff_of_down (u := .hostFail) hobj hleft hdown rfl hopen (by decide) (by decide)).trans
          (if_pos rfl))⟩
  case stops => exact onDev_of_eff (objectMoveFrameEff_stopping hobj hstopping u)

end Sys2Proof.Machine

/-! # O58, O29: the host commands of a context

Of every command of a context it is asked first whether the device is READY, the command came by a context's queue, and
the context belongs to its function (R225, R404). One that fails the last of these is refused; one that passes reaches
its own checks, and from there its effect. -/

namespace Sys2Proof.Machine

open Sys2Proof.Claims

variable {d : Dev} {h : CmdHdr}

/-! ## The checks that the commands share -/

/-- Each command of a context is one effect behind the checks of its header. -/
theorem exec_of_contextHeader {c : Instr} (hcommand : contextHeader c = some h) :
    ∃ f : Dev → Dev, ∀ s, exec c s = onCmd s (fun d => d.ctxCmd h f) := by
  unfold contextHeader at hcommand
  split at hcommand <;> cases hcommand <;> exact ⟨_, fun _ => rfl⟩

/-- A context that does not belong to the function of the command is none that it may name (R225, R404). -/
theorem Dev.ctxCmd_of_foreign (hready : d.sec.devState = .ready) (hqueue : h.queue = .context)
    (hforeign : 1024 ≤ h.ctx ∨ (d.ctx h.ctx).fn ≠ h.fn) (f : Dev → Dev) :
    d.ctxCmd h f = d.complete h Code.contextInvalid 0 := by
  have hup : ¬ (d.sec.devState != .ready) = true := by simp [hready]
  have hkind : ¬ (h.queue != .context) = true := by simp [hqueue]
  exact (if_neg hup).trans ((if_neg hkind).trans (if_pos hforeign))

/-- A command for a context of its own function reaches its own checks (R225). -/
theorem Dev.ctxCmd_of_ctxGood (hgood : CtxGood d h) (f : Dev → Dev) : d.ctxCmd h f = f d := by
  obtain ⟨hready, hqueue, hctx, hfn⟩ := hgood
  simp [Dev.ctxCmd, hready, hqueue, hctx, hfn]

/-- A command of the admin queue that its function may give reaches its own checks (R404). -/
theorem Dev.adminCmd_of_adminGood {pfOnly : Bool} (hgood : AdminGood d h pfOnly) (f : Dev → Dev) :
    d.adminCmd h pfOnly f = f d := by
  obtain ⟨hready, hqueue, hfn⟩ := hgood
  have hmay : ¬ (h.queue != .admin || (pfOnly && h.fn != 0)) = true := by
    cases pfOnly
    · simp [hqueue]
    · simp [hqueue, hfn rfl]
  have hup : ¬ (d.sec.devState != .ready) = true := by simp [hready]
  exact (if_neg hup).trans (if_neg hmay)

/-- Settles O58: the checks of the header refuse a foreign context before the command's effect is asked for. -/
theorem foreignContextsAreRefused : Obligations.ForeignContextsAreRefused := by
  intro p d c h hcommand hready hqueue hforeign
  obtain ⟨f, hexec⟩ := exec_of_contextHeader hcommand
  exact (hexec ⟨p, d⟩).trans (onCmd_of_eff (Dev.ctxCmd_of_foreign hready hqueue hforeign f))

/-! ## Assignment, loading and the commands of Table 8.4 -/

/-- A FREE context is assigned to a function (R225). -/
theorem fnAssignEff_assigns {ctx fn : W16} (hgood : AdminGood d h true) (hctx : ctx.toNat < 1024)
    (hfn : fn.toNat ≤ 64) (hfree : (d.ctx ctx.toNat).state = .free) :
    fnAssignEff h ctx fn d = (d.modCtx ctx.toNat (fun c => c.setField 4 2 fn.toNat)).complete h 0 0 := by
  refine (Dev.adminCmd_of_adminGood hgood _).trans ?_
  exact (if_neg (Nat.not_le.mpr hctx)).trans ((if_neg (Nat.not_lt.mpr hfn)).trans (if_neg (not_not_intro hfree)))

/-- A context whose image has just been loaded to a context address: no gyle of it has committed or aborted, and its
rings and marks begin anew (R277, Table 8.1). -/
def Ctx.loadedAt (c : Ctx) (address : Nat) : Ctx :=
  { (((c.setField 0x80 8 0).setField 0x92 2 0).setField 0x70 8 address) with
    gyle := Gyle.reset, health := Health.zero, fhPos := 0, gPos := 0, perfPos := 0, ringFailed := []
    perfLost := false, perfUnread := 0, poolPosted := false, quotaPosted := false, stale := [] }

/-- An image that passes every check of its loading makes its context LOADED (Table 8.4). -/
theorem ctxLoadEff_loads {i : Image} (hgood : CtxGood d h) (hfree : (d.ctx h.ctx).state = .free)
    (hlifecycle : d.sec.lifecycle ≠ 0) (hpasses : (d.loadImage h.ctx i).1.1 = 0) :
    ctxLoadEff h i d = (((d.loadImage h.ctx i).2.drew.modCtx h.ctx (fun c =>
      c.loadedAt (Config.freeNat (d.loadImage h.ctx i).2.free))).setState h.ctx .loaded).complete h 0 0 := by
  refine (Dev.ctxCmd_of_ctxGood hgood _).trans ?_
  exact (if_neg hlifecycle).trans ((if_neg (not_not_intro hfree)).trans (if_neg (not_not_intro hpasses)))

/-- A context at rest that holds places goes to SPARGING, its command outstanding (Table 8.4). -/
theorem ctxUnloadEff_sparges (hgood : LiveGood d h) (hrunning : (d.ctx h.ctx).state ≠ .running)
    (hblocked : (d.ctx h.ctx).state ≠ .blocked) (hplaces : (d.ctx h.ctx).places ≠ []) :
    ctxUnloadEff h d = (d.endCtx h.ctx Code.gyleAborted .sparging).modCtx h.ctx (fun c =>
      { c with unloadCmd := some h }) := by
  refine (Dev.liveCmd_of_liveGood hgood _).trans ?_
  exact (if_neg (not_or_intro hrunning hblocked)).trans (if_neg (fun hempty => hplaces hempty.1))

/-- A halted context may run again (R247). -/
theorem ctxResumeEff_resumes (hgood : LiveGood d h) (hhalted : (d.ctx h.ctx).halted = true) :
    ctxResumeEff h d = (d.modCtx h.ctx (fun c => { c with halted := false })).complete h 0 0 :=
  (Dev.liveCmd_of_liveGood hgood _).trans (if_pos hhalted)

/-! ## Writes of a descriptor's fields -/

/-- The fields of the descriptor that `n` bytes written from `a` on touch. -/
def touchedFields (a n : Nat) : List (Nat × Nat × SetRule) :=
  descFields.filter (fun f => decide (f.1 < a + n) && decide (a < f.1 + f.2.1))

theorem mem_touchedFields {a n : Nat} {f : Nat × Nat × SetRule} :
    f ∈ touchedFields a n ↔ f ∈ descFields ∧ f.1 < a + n ∧ a < f.1 + f.2.1 := by
  simp [touchedFields]

/-- A field of a descriptor that takes its new value at once: it is not the channels' (R225), its rule admits the write
in the context's state, and the value is good (Table 8.1). -/
structure FieldLands (d : Dev) (h : CmdHdr) (new : Ctx) (f : Nat × Nat × SetRule) : Prop where
  notChans : f.1 ≠ 0xC8
  admitted : f.2.2.status (d.ctx h.ctx) h.fn = 0
  good : badField f.1 new = false
  withinCharges : lowQuota f.1 new = false
  zeroed : f.2.2 = .reserved → new.field f.1 f.2.1 = 0

theorem not_any_of_forall {α : Type} {l : List α} {p : α → Bool} (hnone : ∀ a ∈ l, p a = false) :
    ¬ l.any p = true := by
  simpa using hnone

theorem firstFail_eq_zero {l : List W16} (hall : ∀ s ∈ l, s = 0) : firstFail l = 0 := by
  induction l with
  | nil => rfl
  | cons s r ih =>
    obtain ⟨hs, hr⟩ := List.forall_mem_cons.mp hall
    exact (if_pos hs).trans (ih hr)

/-- The descriptor of a context with bytes written, one after the other. -/
def Ctx.putBytes (c : Ctx) (ps : List (Nat × Byte)) : Ctx := ps.foldl (fun c p => c.setBytes p.1 [p.2]) c

/-- The bytes of a descriptor are not its gyle. -/
theorem Ctx.gyle_putBytes (c : Ctx) (ps : List (Nat × Byte)) : (c.putBytes ps).gyle = c.gyle := by
  induction ps generalizing c with
  | nil => rfl
  | cons p r ih => exact ih (c.setBytes p.1 [p.2])

/-- A context whose gyle is told to wait for no byte is as it was. -/
theorem Ctx.putBytes_nextDesc_nil (c : Ctx) (ps : List (Nat × Byte)) :
    { c.putBytes ps with gyle := { c.gyle with nextDesc := c.gyle.nextDesc ++ [] } } = c.putBytes ps := by
  rw [List.append_nil, ← c.gyle_putBytes ps]

/-- The bytes of a value, each with its offset in the descriptor. -/
def bytesAt (a : Nat) (value : List Byte) : List (Nat × Byte) :=
  ((List.range value.length).zip value).map (fun p => (a + p.1, p.2))

section Set

variable {offset : W16} {value : List Byte} (hfields : ∀ f ∈ touchedFields offset.toNat value.length,
  FieldLands d h ((d.ctx h.ctx).setBytes offset.toNat value) f)

include hfields

/-- A write whose every field takes its value at once lands, where no gyle runs that a byte could wait for. -/
theorem ctxSetEff_lands (hgood : CtxGood d h) (hidle : (d.ctx h.ctx).busyGyle = false) (hsome : 0 < value.length)
    (hshort : value.length ≤ 32) (hinside : offset.toNat + value.length ≤ 256) :
    ctxSetEff h offset value d =
      (d.modCtx h.ctx (fun c => c.putBytes (bytesAt offset.toNat value))).complete h 0 0 := by
  have hsize : ¬ (value.length = 0 ∨ 32 < value.length ∨ 256 < offset.toNat + value.length) := by omega
  have hreserved := not_any_of_forall (p := fun (f : Nat × Nat × SetRule) => f.2.2 == .reserved
      && ((d.ctx h.ctx).setBytes offset.toNat value).field f.1 f.2.1 != 0) fun f hf => by
    simpa using (hfields f hf).zeroed
  have hstatus : firstFail ((touchedFields offset.toNat value.length).map (fun f =>
      f.2.2.status (d.ctx h.ctx) h.fn)) = 0 :=
    firstFail_eq_zero (List.forall_mem_map.mpr fun f hf => (hfields f hf).admitted)
  have hvalues := not_any_of_forall fun f hf => (hfields f hf).good
  have hquota := not_any_of_forall fun f hf => (hfields f hf).withinCharges
  have hchans := not_any_of_forall (p := fun (f : Nat × Nat × SetRule) => f.1 == 0xC8) fun f hf =>
    beq_false_of_ne (hfields f hf).notChans
  have htaken (r : Bool) : ¬ ((touchedFields offset.toNat value.length).any (fun f => f.1 == 0xC8) && r) = true :=
    fun hboth => hchans (Bool.and_eq_true_iff.mp hboth).1
  refine (Dev.ctxCmd_of_ctxGood hgood _).trans ?_
  refine (if_neg hsize).trans ((if_neg hreserved).trans ((if_neg (not_not_intro hstatus)).trans
    ((if_neg hvalues).trans ((if_neg hquota).trans ((if_neg (htaken _)).trans ?lands)))))
  case lands =>
    refine (congrArg (fun t => Dev.complete t h 0 0) (if_neg hchans)).trans ?_
    refine congrArg (fun c => Dev.complete (d.setCtx h.ctx c) h 0 0) ?_
    simp only [hidle, Bool.false_and, Bool.not_false, List.filter_true, List.filter_false]
    exact Ctx.putBytes_nextDesc_nil _ _

end Set

/-! ## The statement -/

/-- Settles O29: each command reaches its effect through the checks of its header, and each case is that effect's
equation. -/
theorem contextCommandsComplete : Obligations.ContextCommandsComplete := by
  intro p d h
  refine ⟨fun ctx fn hgood hctx hfn hfree => ?assigns, fun i hgood hfree hlifecycle hpasses => ?loads,
    fun hgood hrunning hblocked hplaces => ?unloads, fun hgood => ?kills, fun hgood hhalted => ?resumes,
    fun offset value hgood hidle hsome hshort hinside hfields => ?lands⟩
  case assigns => exact onCmd_of_eff (fnAssignEff_assigns hgood hctx hfn hfree)
  case loads => exact onCmd_of_eff (ctxLoadEff_loads hgood hfree hlifecycle hpasses)
  case unloads => exact onCmd_of_eff (ctxUnloadEff_sparges hgood hrunning hblocked hplaces)
  case kills => exact onCmd_of_eff (Dev.liveCmd_of_liveGood hgood _)
  case resumes => exact onCmd_of_eff (ctxResumeEff_resumes hgood hhalted)
  case lands =>
    have hlands : ∀ f ∈ touchedFields offset.toNat value.length,
        FieldLands d h ((d.ctx h.ctx).setBytes offset.toNat value) f := by
      intro f hf
      obtain ⟨hmem, hstarts, hends⟩ := mem_touchedFields.mp hf
      obtain ⟨hchans, hadmitted, hvalue, hquota, hzeroed⟩ := hfields f hmem hstarts hends
      exact ⟨hchans, hadmitted, hvalue, hquota, hzeroed⟩
    refine (onCmd_of_eff (ctxSetEff_lands hlands hgood hidle hsome hshort hinside)).trans ?_
    simp only [Ctx.putBytes, bytesAt, List.foldl_map]

end Sys2Proof.Machine

/-! # O30: what befalls a context without a command

The sparging, the quantum and the request to pre-empt each test the context's state (Table 8.4). A request visits both
slots of its core: what it does to one slot is said once, and the other slot does not see it. -/

namespace Sys2Proof.Machine

open Sys2Proof.Claims

variable {d : Dev} {core x : Nat}

/-! ## Sparging and the quantum -/

/-- A killed context none of whose slots holds work goes to SPARGING (R245). -/
theorem tasksStoppedEff_sparges (hkilled : (d.ctx x).state = .killed)
    (hstopped : ∀ s ∈ d.slotsOf x, (d.slot s.1 s.2).busy = false) :
    tasksStoppedEff x d = (d.setState x .sparging).schedule := by
  have hidle : (d.slotsOf x).all (fun s => !(d.slot s.1 s.2).busy) = true :=
    List.all_eq_true.mpr fun s hs => by simp [hstopped s hs]
  exact if_pos (by simp [hkilled, hidle])

theorem not_any_test_running {places : List TaskPlace} (huntested : ∀ q ∈ places, (d.core q.core).test ≠ .running) :
    places.any (fun q => (d.core q.core).test == .running) = false :=
  List.any_eq_false.mpr fun q hq => by simpa using huntested q hq

/-- A context without windows, none of whose cores is under test, is FREE once it is sparged (R245). -/
theorem spargeCompleteEff_frees (hsparging : (d.ctx x).state = .sparging) (hwindows : d.hasWindows x = false)
    (huntested : ∀ q ∈ (d.ctx x).places, (d.core q.core).test ≠ .running) :
    spargeCompleteEff x d = (d.freeCtx x).schedule :=
  if_pos (by simp [hsparging, hwindows, not_any_test_running huntested])

/-- The end of a running context's quantum is recorded, and the scheduler runs (R234). -/
theorem quantumExpiryEff_expires (hrunning : (d.ctx x).state = .running) :
    quantumExpiryEff x false d = (d.modCtx x (fun c => { c with quantumOver := true })).schedule :=
  (if_neg Bool.false_ne_true).trans (if_pos (by simp [hrunning]))

/-! ## The request to pre-empt -/

/-- A slot that a request to pre-empt a context has visited (R235). -/
def Slot.asked (s : Slot) (x : Nat) : Slot := { s with preempt := (s.valid && s.ctx == x) || s.preempt }

/-- A request to pre-empt a context visits a slot of a core. -/
def Dev.askSlot (core x : Nat) (d : Dev) (t : SlotIx) : Dev :=
  if (d.slot core t).valid && (d.slot core t).ctx == x then d.modSlot core t (fun s => { s with preempt := true })
  else d

/-- The whole frame of work on one core: no other core and no other table of the device. -/
def OnlyCore (core : Nat) (d t : Dev) : Prop :=
  t = { d with cores := t.cores } ∧ ∀ n, n ≠ core → t.core n = d.core n

theorem OnlyCore.trans {a b c : Dev} (hab : OnlyCore core a b) (hbc : OnlyCore core b c) : OnlyCore core a c := by
  obtain ⟨hb, hbcores⟩ := hab
  obtain ⟨hc, hccores⟩ := hbc
  refine ⟨?_, fun n hn => (hccores n hn).trans (hbcores n hn)⟩
  rw [hc, hb]

theorem Dev.askSlot_onlyCore (d : Dev) (t : SlotIx) : OnlyCore core d (d.askSlot core x t) := by
  unfold Dev.askSlot
  split
  · exact ⟨rfl, fun n hn => Dev.core_setCore_ne d _ hn⟩
  · exact ⟨rfl, fun _ _ => rfl⟩

section AskSlot

variable {k t : SlotIx}

/-- A change to one slot of a core leaves the other as it was. -/
theorem Dev.slot_modSlot_ne (n : Nat) (f : Slot → Slot) (hne : k ≠ t) : (d.modSlot n t f).slot n k = d.slot n k := by
  have hval : t.1 ≠ k.1 := fun heq => hne (Fin.ext heq.symm)
  simp [Dev.slot, Core.setSlot, Vector.get_eq_getElem, hval]

theorem Dev.slot_askSlot_self : (d.askSlot core x t).slot core t = (d.slot core t).asked x := by
  unfold Dev.askSlot Slot.asked
  split
  · next hmine => rw [Dev.slot_modSlot_self, hmine, Bool.true_or]
  · next hother => rw [Bool.eq_false_iff.mpr hother, Bool.false_or]

theorem Dev.slot_askSlot_ne (hne : k ≠ t) : (d.askSlot core x t).slot core k = d.slot core k := by
  unfold Dev.askSlot
  split
  · exact Dev.slot_modSlot_ne core _ hne
  · rfl

end AskSlot

/-- The two slots of a core after a request to pre-empt a context. -/
def Dev.askCore (d : Dev) (core x : Nat) : Dev := (d.askSlot core x 0).askSlot core x 1

theorem preemptRequestEff_asks (hpreempting : (d.ctx x).preempting = true) :
    preemptRequestEff core x d = d.askCore core x :=
  if_neg (by simp [hpreempting])

theorem Dev.askCore_onlyCore : OnlyCore core d (d.askCore core x) :=
  (d.askSlot_onlyCore 0).trans (Dev.askSlot_onlyCore _ 1)

/-- Each slot of the core was visited once. -/
theorem Dev.slot_askCore (k : SlotIx) : (d.askCore core x).slot core k = (d.slot core k).asked x := by
  unfold Dev.askCore
  match k with
  | 0 => rw [Dev.slot_askSlot_ne (by decide), Dev.slot_askSlot_self]
  | 1 => rw [Dev.slot_askSlot_self, Dev.slot_askSlot_ne (by decide)]

/-! ## The statement -/

/-- Settles O30: each event answers its effect where the context's state lets it, and the request's frame is read off
the visits to the two slots. -/
theorem contextEventsComplete : Obligations.ContextEventsComplete := by
  intro p d x
  refine ⟨fun hkilled hstopped => ?stopped, fun hsparging hwindows huntested => ?sparged, fun hrunning => ?expired,
    ?tableBad, fun core hserving hpreempting => ?asked⟩
  case stopped => exact onDev_of_eff (tasksStoppedEff_sparges hkilled hstopped)
  case sparged => exact onDev_of_eff (spargeCompleteEff_frees hsparging hwindows huntested)
  case expired => exact onDev_of_eff (quantumExpiryEff_expires hrunning)
  case tableBad => exact onDev_of_eff (if_pos rfl)
  case asked =>
    obtain ⟨honly, hothers⟩ := d.askCore_onlyCore
    exact ⟨_, onCore_of_serving hserving (preemptRequestEff_asks hpreempting), rfl, honly, hothers, Dev.slot_askCore⟩

end Sys2Proof.Machine

/-! # O31: yields and swaps

A slot yields in three steps: its tickets go back and its state is saved, the slot is cleared and left, and the
scheduler learns that it yielded (R235). The swaps each move what a context holds on the cores, out to swap space and
back in (R240, R241). -/

namespace Sys2Proof.Machine

open Sys2Proof.Claims

variable {d : Dev}

/-! ## Yielding -/

section Yield

variable {core : Nat} {k : SlotIx}

/-- A context that keeps what a task of it left, in place of what it kept of the task before. -/
def Ctx.keepTask (c : Ctx) (v : SavedTask) : Ctx :=
  { c with
    saved := c.saved.filter (fun o => o.task != v.task) ++ [v]
    places := c.places.map (fun p => if p.task = v.task then { p with running := false } else p) }

/-- The device once a slot has given its tickets back and its context keeps what it held (R235). -/
def Dev.slotSaved (d : Dev) (core : Nat) (k : SlotIx) : Dev :=
  ((d.returnAll core k).modCtx (d.slot core k).ctx (fun c =>
    c.keepTask ((d.returnAll core k).saveOf core k))).clearSlot core k

/-- The device once the slot is left, and counted as yielded. -/
def Dev.slotLeft (d : Dev) (core : Nat) (k : SlotIx) : Dev :=
  ((((d.slotSaved core k).modSlot core k (fun _ => (d.slot core k).yieldedOf)).leaveCluster (d.slot core k).ctx
    (core / 16)).modCore core (fun k => { k with regionSaved := true })).count (coreKey core 1 0x810) 1

/-- The scheduler learns of a yield of a context, and how long that took. -/
def Dev.toldYield (d : Dev) (x : Nat) : Dev :=
  (d.noteEvent (islMgmt 0)).raise (schedKey 0x808) (d.cycleOf (islMgmt 0) - (d.ctx x).preemptAt)

/-- An event in an island's sequence is none of its cycles. -/
@[simp] theorem Dev.cycleOf_noteEvent (isl : Nat) : (d.noteEvent isl).cycleOf isl = d.cycleOf isl := by
  simp [Dev.cycleOf, Dev.noteEvent]

@[simp] theorem Dev.ctx_noteEvent (isl x : Nat) : (d.noteEvent isl).ctx x = d.ctx x := rfl

/-- A slot that may yield, and whose context is not killed, yields; the last of its context's slots to do so ends the
pre-emption. -/
theorem slotYieldEff_yields (hvalid : (d.slot core k).valid = true) (hasked : (d.slot core k).preempt = true)
    (hmay : d.yieldable core k = true) (halive : (d.ctx (d.slot core k).ctx).state ≠ .killed) :
    slotYieldEff core k d =
      let t := (d.slotLeft core k).toldYield (d.slot core k).ctx
      (if (t.slotsOf (d.slot core k).ctx).isEmpty then t.allYielded (d.slot core k).ctx else t).schedule :=
  if_neg (by simp [hvalid, hasked, hmay, halive])

/-- A slot that has not yielded in time is to yield, and it aborts its context's gyle and halts the context (R239). -/
theorem preemptOverrunEff_halts (hvalid : (d.slot core k).valid = true)
    (hpreempting : (d.ctx (d.slot core k).ctx).preempting = true) (hfirst : (d.slot core k).overrun = false) :
    preemptOverrunEff core k d = (((((d.modSlot core k (fun s =>
      { s with overrun := true, preempt := true })).abortCause (d.slot core k).ctx 5 Code.preemptOverrun
        (srcCore core)).modCtx (d.slot core k).ctx (fun c => { c with halted := true })).errFire (schedKey 0) 0
          ((d.slot core k).ctx * 2 ^ 16)).count (schedKey 0x830) 1).ctxEvent (d.slot core k).ctx Code.preemptOverrun
            0 [] :=
  if_neg (by simp [hvalid, hpreempting, hfirst])

end Yield

/-! ## Swaps -/

/-- The records of a context's queues in the hubs. -/
def Dev.queuesOf (d : Dev) (x : Nat) : List WQueue :=
  (d.clusters.map (·.2)).flatMap (fun k => k.queues.filter (fun q => q.ctx == x))

/-- The streams of a context in the hubs. -/
def Dev.streamsOf (d : Dev) (x : Nat) : List GStream :=
  (d.clusters.map (·.2)).flatMap (fun k => k.streams.filter (fun g => g.ctx == x))

/-- A context leaves its cores: its places go, and it keeps its grants and records (R241). -/
def Dev.swappedOut (d : Dev) (x : Nat) : Dev :=
  (d.dropPlaces x).modCtx x (fun c => { c with
    saved := d.saveGrants x, savedQueues := d.queuesOf x, savedStreams := d.streamsOf x, swapping := false })

/-- A task's grant on its core is again what was saved of it (R241). -/
def Dev.grantBack (c : Ctx) (d : Dev) (p : TaskPlace) : Dev :=
  match c.task p.task, c.saved.find? (fun v => v.task == p.task) with
  | some t, some v =>
    d.modCore p.core (fun k => { k with
      spad := v.spad.foldl (fun m e => mwrite m (p.base + e.1) e.2) (mclear k.spad p.base (t.entry.bound * 0x1000)) })
  | _, _ => d

/-- A context comes back to its cores: its grants are filled, and swap space keeps no more than its yield save
needs (R241). -/
def Dev.swappedIn (d : Dev) (x : Nat) : Dev :=
  (((d.ctx x).places.foldl (Dev.grantBack (d.ctx x)) d).keepSwap x (pagesOf (d.ctx x).yieldBytes)).modCtx x (fun c =>
    { c with swapping := false, saved := c.saved.map (fun v => { v with spad := [] }) })

section Swap

variable {x : Nat} (hswapping : (d.ctx x).swapping = true)

include hswapping

/-- A context at rest, its windows redirected, leaves its cores where swap space in HBM has room for it (R240, R241). -/
theorem swapOutCompleteEff_saves {d' : Dev} (hresident : (d.ctx x).state = .resident) (hslots : d.slotsOf x = [])
    (hredirected : d.redirectedAll x = true) (htier : (d.ctx x).swapsToHost = false)
    (hroom : d.takeSwap x (pagesOf (d.ctx x).swapBytes - (tget d.swapUsed x []).length) = some d') :
    swapOutCompleteEff x d = (((d'.swappedOut x).setState x .swapped).count (schedKey 0x810) 1).schedule := by
  have hleaves : ¬ (!(d.ctx x).swapping || !((d.ctx x).state == .resident || (d.ctx x).state == .blocked)
      || !(d.slotsOf x).isEmpty || !(d.redirectedAll x)) = true := by
    simp [hswapping, hresident, hslots, hredirected]
  refine (if_neg hleaves).trans ?_
  simp only [htier, hroom, Bool.false_eq_true, if_false]
  rfl

/-- A swapped context that has places, on cores that are not under test, comes back to them. -/
theorem swapInCompleteEff_restores (hswapped : (d.ctx x).state = .swapped) (hplaces : (d.ctx x).places ≠ [])
    (huntested : ∀ q ∈ (d.ctx x).places, (d.core q.core).test ≠ .running) :
    swapInCompleteEff x d =
      let t := d.swappedIn x
      (((t.setState x (if t.savedBlocked x then .blocked else .resident)).count (schedKey 0x818) 1).resumeRestore
        x).schedule :=
  if_neg (by simp [hswapping, hswapped, hplaces, not_any_test_running huntested])

end Swap

/-! ## The statement -/

/-- Settles O31: each command answers its effect, and each case is that effect's equation. The event that the yield
notes changes neither the cycle nor the context that the length of the yield is read from. -/
theorem yieldsAndSwapsComplete : Obligations.YieldsAndSwapsComplete := by
  intro p d core k x
  refine ⟨fun hserving hvalid hasked hmay halive => ?yields, fun hserving hvalid hpreempting hfirst => ?overruns,
    fun d' hswapping hresident hslots hredirected htier hroom => ?swapsOut,
    fun hswapping hswapped hplaces huntested => ?swapsIn⟩
  case yields =>
    intro s y v d1 d2 d3
    have htold : d3 = (d.slotLeft core.1 k).toldYield y := by
      simp only [d3, Dev.cycleOf_noteEvent, Dev.ctx_noteEvent]
      rfl
    rw [htold]
    exact onCore_of_serving hserving (slotYieldEff_yields hvalid hasked hmay halive)
  case overruns => exact onCore_of_serving hserving (preemptOverrunEff_halts hvalid hpreempting hfirst)
  case swapsOut =>
    exact onDev_of_eff (swapOutCompleteEff_saves hswapping hresident hslots hredirected htier hroom)
  case swapsIn => exact onDev_of_eff (swapInCompleteEff_restores hswapping hswapped hplaces huntested)

end Sys2Proof.Machine

/-! # O34: decisions take their effects

What a decision leaves behind is built in steps, each a definition of its own: what the gyle wrote is published or
undone, the records are written, and the gyle ends. The two equations say what the context does after that (R271, R272,
R274). -/

namespace Sys2Proof.Machine

variable {d : Dev} {x : Nat} {k : Decision}

/-! ## COMMIT -/

/-- The pages that a gyle wrote become the current ones; with their number (R271). -/
def Dev.pagesFlipped (d : Dev) (x : Nat) : Nat × Dev := (d.noteEvent (islMgmt 0)).flipPages x

/-- The logs of the gyle are cleared; with their blocks. -/
def Dev.logsCleared (d : Dev) (x : Nat) : Nat × Dev := ((d.pagesFlipped x).2.dropXlate x).clearLogs x

/-- The capture of the gyle is sealed and its records are written (R271, R355). -/
def Dev.commitRecorded (d : Dev) (x : Nat) : Dev :=
  ((((d.logsCleared x).2.sealCapture x).count (gyleKey 0x848) (d.pagesFlipped x).1).endRecords x true
    (d.pagesFlipped x).1 (d.logsCleared x).1).2

/-- A context whose gyle has committed: the next number, and no abort counted. -/
def Ctx.committed (c : Ctx) (num : Nat) : Ctx := (c.setField 0x80 8 ((num + 1) % 2 ^ 48)).setField 0x92 2 0

/-- The gyle that a context rests at after a COMMIT of number `num`. -/
def Gyle.committed (y : Gyle) (num : Nat) : Gyle :=
  { y with st := .idle, cmd := none, cause := none, decision := none, applied := some (num, true) }

/-- The device once the context's number is raised and its gyle is IDLE. -/
def Dev.gyleCommitted (d : Dev) (x : Nat) : Dev :=
  let t := (d.commitRecorded x).modCtx x (fun c => c.committed (d.ctx x).num)
  (t.modResil x (fun r => r.commitTime (t.cycleOf (islMgmt 0)))).modGyle x (fun y => y.committed (d.ctx x).num)

section Decided

variable (happlying : (d.ctx x).gyle.st = .applying) (hdecided : (d.ctx x).gyle.decision = some k)

include happlying hdecided

/-- A COMMIT ends the gyle, releases the streams and completes the command that began it (R213, R271). -/
theorem gyleCommitApplyEff_of_commit (hcommit : k.commit = true) :
    gyleCommitApplyEff x d = ((((((d.gyleCommitted x).count (gyleKey 0x800) 1).endStreams x).rewind x).completeOpt
      (d.ctx x).gyle.cmd 0 0).resumeRestore x).schedule := by
  have hcommits : ¬ (!k.commit) = true := by simp [hcommit]
  simp only [gyleCommitApplyEff, happlying, hdecided]
  exact if_neg hcommits

end Decided

/-! ## ABORT -/

/-- Every slot of the context gives its tickets back (R272). -/
def Dev.ticketsBack (d : Dev) (x : Nat) : Dev :=
  (d.slotsOf x).foldl (fun d s => d.returnAll s.1 s.2) (d.noteEvent (islMgmt 0))

/-- The pages that the gyle wrote are dropped; with their number. -/
def Dev.pagesDropped (d : Dev) (x : Nat) : Nat × Dev := (d.ticketsBack x).clearDirty x

/-- What the gyle wrote over is again as the logs keep it; with their blocks. -/
def Dev.logsUndone (d : Dev) (x : Nat) : Nat × Dev := (d.pagesDropped x).2.restoreLogs x

/-- The records of the aborted gyle; with the gyle's own. -/
def Dev.abortRecorded (d : Dev) (x : Nat) : List Byte × Dev :=
  (((d.logsUndone x).2.spoilSlots x (d.ctx x).num).count (gyleKey 0x850) (d.logsUndone x).1).endRecords x false
    (d.pagesDropped x).1 (d.logsUndone x).1

/-- The device once the streams are released and the abort is counted (R213, R272). -/
def Dev.abortCounted (d : Dev) (x : Nat) : Dev :=
  ((((d.abortRecorded x).2.count (gyleKey 0x808) 1).endStreams x).rewind x).modCtx x (fun c =>
    c.setField 0x92 2 (min 65535 (c.aborts + 1)))

/-- Whether an aborted gyle replays by itself, and the status that it ends with where it does not: a device in the error
state replays nothing (R274, R329). -/
def Dev.replaysOf (d : Dev) (x : Nat) : Bool × W16 :=
  if d.sec.devState = .error then (false, Code.gyleAborted) else (d.ctx x).replays

/-- A gyle that waits for the host to replay it. -/
def Gyle.heldBack (y : Gyle) : Gyle := { y with st := .held, cmd := none, cause := none, decision := none }

/-- The end of a gyle that does not replay by itself (R274). -/
def Dev.holdGyle (d : Dev) (x : Nat) (cmd : Option CmdHdr) (status : W16) : Dev :=
  (((d.modGyle x Gyle.heldBack).completeOpt cmd status 0).resumeRestore x).schedule

/-- The host is told of the abort of gyle `num`, with the beginning of its record. -/
def Dev.tellAbort (d : Dev) (x num : Nat) (record : List Byte) : Dev :=
  (d.ctxEvent x (d.ctx x).gyle.firstCause.status 0 (record.take 48)).modGyle x (fun y =>
    { y with applied := some (num, false) })

/-- An abort that is counted is told to the host; the gyle then replays by itself or is HELD (R274). -/
def Dev.endAbort (d : Dev) (x num : Nat) (cmd : Option CmdHdr) (record : List Byte) : Dev :=
  if (d.replaysOf x).1 then ((d.tellAbort x num record).startGyle x true).schedule
  else (d.tellAbort x num record).holdGyle x cmd (d.replaysOf x).2

/-- A slot whose task stands where a stop leaves it: no engine works for it, and it executes nothing (R235). -/
abbrev Stands (d : Dev) (s : Nat × SlotIx) : Prop :=
  (d.slot s.1 s.2).busy = false ∧ (d.executes s.1 s.2 = false ∨ (d.slot s.1 s.2).stall ≠ .none)

theorem all_of_stands {slots : List (Nat × SlotIx)} (hstand : ∀ s ∈ slots, Stands d s) :
    slots.all (fun s => !(d.slot s.1 s.2).busy && (!(d.executes s.1 s.2) || (d.slot s.1 s.2).stall != .none)) = true :=
  List.all_eq_true.mpr fun s hs => by
    obtain ⟨hidle, hrests⟩ := hstand s hs
    simpa [hidle] using hrests

section Decided

variable (happlying : (d.ctx x).gyle.st = .applying) (hdecided : (d.ctx x).gyle.decision = some k)

include happlying hdecided

/-- An ABORT whose tasks stand, and whose capture reads nothing any more, is undone, counted and ended (R272, R354). -/
theorem gyleAbortApplyEff_of_abort (habort : k.commit = false) (hstand : ∀ s ∈ d.slotsOf x, Stands d s)
    (hcaptured : (d.ctx x).resil.capture ≠ .capturing ∨ (d.ctx x).resil.captured = true) :
    gyleAbortApplyEff x d =
      (d.abortCounted x).endAbort x (d.ctx x).num (d.ctx x).gyle.cmd (d.abortRecorded x).1 := by
  have hcopied : ((d.ctx x).resil.capture == .capturing && !(d.ctx x).resil.captured) = false := by
    obtain hother | hdone := hcaptured
    · simp [hother]
    · simp [hdone]
  have hends : ¬ (k.commit || !((d.slotsOf x).all (fun s => !(d.slot s.1 s.2).busy
      && (!(d.executes s.1 s.2) || (d.slot s.1 s.2).stall != .none))
      && !((d.ctx x).resil.capture == .capturing && !(d.ctx x).resil.captured))) = true := by
    simp only [habort, all_of_stands hstand, hcopied]
    decide
  unfold gyleAbortApplyEff
  extract_lets c num quiet d0 f l d1 r d2 counted replay told held held'
  rw [show c.gyle.st = .applying from happlying, show c.gyle.decision = some k from hdecided]
  refine (if_neg hends).trans ?_
  have hcounted : counted = d.abortCounted x := rfl
  have hrecorded : r = d.abortRecorded x := rfl
  rw [← hcounted, ← hrecorded]
  rfl

end Decided

/-! ## The statement -/

/-- Settles O34: each decision answers its effect; of an ABORT the three cases are what the context answers of a
replay. -/
theorem decisionsApply : Obligations.DecisionsApply := by
  intro p d x k happlying hdecided
  refine ⟨fun hcommit => ?commits, fun habort hstand hcaptured => ?aborts⟩
  case commits => exact onDev_of_eff (gyleCommitApplyEff_of_commit happlying hdecided hcommit)
  case aborts =>
    have hends := gyleAbortApplyEff_of_abort happlying hdecided habort hstand hcaptured
    intro d0 f l d1 r counted told held
    have hcounted : d.abortCounted x.1 = counted := rfl
    have hrecorded : d.abortRecorded x.1 = r := rfl
    rw [hcounted, hrecorded] at hends
    refine ⟨fun hserves hreplays => ?replayed, fun hserves hrests => ?held, fun herror => ?error⟩
    case replayed =>
      have hanswer : counted.replaysOf x.1 = (counted.ctx x.1).replays := if_neg hserves
      exact onDev_of_eff (hends.trans (if_pos (by rw [hanswer, hreplays])))
    case held =>
      have hanswer : counted.replaysOf x.1 = (counted.ctx x.1).replays := if_neg hserves
      rw [Dev.endAbort, hanswer] at hends
      exact onDev_of_eff (hends.trans (if_neg (Bool.eq_false_iff.mp hrests)))
    case error =>
      have hanswer : counted.replaysOf x.1 = (false, Code.gyleAborted) := if_pos herror
      rw [Dev.endAbort, hanswer] at hends
      exact onDev_of_eff (hends.trans (if_neg Bool.false_ne_true))

end Sys2Proof.Machine

/-! # O32: the gyle commands

Every gyle command passes the checks that all commands of a context share, and that of a halted context; from there its
own checks lead to its effect (R247, R252, Table 9.6). -/

namespace Sys2Proof.Machine

open Sys2Proof.Claims

variable {d : Dev} {h : CmdHdr}

/-- A gyle command whose context lives and is not halted reaches its own checks (R247). -/
theorem Dev.gyleCmd_of_gyleGood (hgood : GyleGood d h) (f : Dev → Dev) : d.gyleCmd h f = f d := by
  obtain ⟨hlive, hhalted⟩ := hgood
  exact (Dev.liveCmd_of_liveGood hlive _).trans (if_neg (Bool.eq_false_iff.mp hhalted))

/-- A state in which a host may decide: the gyle runs or has voted. -/
theorem running_or_voted_of_voted {st : GyleState} (hvoted : st = .voted) :
    (st == .running || st == .voted) = true := by
  simp [hvoted]

/-- An outcome that names COMMIT or ABORT, for a number that a gyle can have, is well formed. -/
theorem decision_wellFormed {gyle : W64} {outcome : Byte} (hnumber : gyle.toNat < 2 ^ 48)
    (houtcome : outcome.toNat ≤ 1) : ¬ (2 ^ 48 ≤ gyle.toNat ∨ 1 < outcome.toNat) := by omega

section Command

variable {gyle : W64} {outcome : Byte} (hgood : GyleGood d h)

include hgood

/-- REPLAY of a held gyle starts it once more, and completes when that attempt ends (Table 9.6). -/
theorem gyleReplayEff_starts (hheld : (d.ctx h.ctx).gyle.st = .held) :
    gyleReplayEff h d = (d.modGyle h.ctx (fun g => { g with cmd := some h })).startGyle h.ctx true :=
  (Dev.gyleCmd_of_gyleGood hgood _).trans (if_neg (not_not_intro hheld))

variable (hnumber : gyle.toNat < 2 ^ 48) (hnext : gyle.toNat = (d.ctx h.ctx).num)

include hnumber hnext

/-- BEGIN of the committed number starts a gyle of an idle context that coordinates no job (R252). -/
theorem gyleBeginEff_starts {time : W64} (hidle : (d.ctx h.ctx).gyle.st = .idle)
    (hpart : d.coordinates h.ctx = false) :
    gyleBeginEff h gyle time d =
      (d.modGyle h.ctx (fun g => { g with cmd := some h, hostTime := time })).startGyle h.ctx false := by
  have hjob : ¬ (d.coordinates h.ctx && (!(d.plistGood h.ctx) || decide (64 ≤ d.jobs))) = true := by simp [hpart]
  refine (Dev.gyleCmd_of_gyleGood hgood _).trans ?_
  exact (if_neg (Nat.not_le.mpr hnumber)).trans ((if_neg (not_not_intro hidle)).trans
    ((if_neg (not_not_intro hnext)).trans (if_neg hjob)))

/-- ABORT of the running gyle records cause 12 (Table 9.3). -/
theorem gyleAbortEff_records (hrunning : (d.ctx h.ctx).gyle.st = .running) :
    gyleAbortEff h gyle d = (d.abortOpen h.ctx 12 srcHost).complete h 0 0 := by
  refine (Dev.gyleCmd_of_gyleGood hgood _).trans ?_
  exact (if_neg (Nat.not_le.mpr hnumber)).trans ((if_neg (not_not_intro hrunning)).trans
    (if_neg (not_not_intro hnext)))

variable (houtcome : outcome.toNat ≤ 1) (hvoted : (d.ctx h.ctx).gyle.st = .voted)

include houtcome hvoted

/-- The decision of a host that coordinates is applied to a gyle that has voted (R268, R269). -/
theorem gyleDecideEff_decides (hhost : (d.ctx h.ctx).coordMode = 2) :
    gyleDecideEff h gyle outcome d = (d.hostDecides h.ctx (outcome == 0) 13).complete h 0 0 := by
  have hstate : ¬ ((d.ctx h.ctx).coordMode ≠ 2
      ∨ (!((d.ctx h.ctx).gyle.st == .running || (d.ctx h.ctx).gyle.st == .voted)) = true) := by
    simp [hhost, running_or_voted_of_voted hvoted]
  refine (Dev.gyleCmd_of_gyleGood hgood _).trans ?_
  exact (if_neg (decision_wellFormed hnumber houtcome)).trans ((if_neg hstate).trans
    (if_neg (not_not_intro hnext)))

/-- RESOLVE decides a gyle that has voted, whoever coordinates it (R270, Table 9.6). -/
theorem gyleResolveEff_decides :
    gyleResolveEff h gyle outcome d = (d.hostDecides h.ctx (outcome == 0) 16).complete h 0 0 := by
  have hopen : (((d.ctx h.ctx).gyle.st == .running || (d.ctx h.ctx).gyle.st == .voted)
      && gyle.toNat == (d.ctx h.ctx).num) = true := by
    simp [running_or_voted_of_voted hvoted, hnext]
  refine (Dev.gyleCmd_of_gyleGood hgood _).trans ?_
  exact (if_neg (decision_wellFormed hnumber houtcome)).trans (if_pos hopen)

end Command

/-- Settles O32: each command reaches its effect through the checks that the gyle commands share, and each case is that
effect's equation. -/
theorem gyleCommandsComplete : Obligations.GyleCommandsComplete := by
  intro p d h hgood
  refine ⟨fun gyle time hnumber hidle hnext hpart => ?begins, fun gyle hnumber hrunning hnext => ?aborts,
    fun gyle outcome hnumber houtcome hhost hvoted hnext => ?decides,
    fun gyle outcome hnumber houtcome hvoted hnext => ?resolves, fun hheld => ?replays⟩
  case begins => exact onCmd_of_eff (gyleBeginEff_starts hgood hnumber hnext hidle hpart)
  case aborts => exact onCmd_of_eff (gyleAbortEff_records hgood hnumber hnext hrunning)
  case decides => exact onCmd_of_eff (gyleDecideEff_decides hgood hnumber hnext houtcome hvoted hhost)
  case resolves => exact onCmd_of_eff (gyleResolveEff_decides hgood hnumber hnext houtcome hvoted)
  case replays => exact onCmd_of_eff (gyleReplayEff_starts hgood hheld)

end Sys2Proof.Machine

/-! # O33: the events of a gyle

Each event tests the gyle's state or takes the head of a port's channel, and each has an equation for the case that the
statement names: the start actions, the capture, the vote, the messages of partners and the deadlines (Tables 9.1 to
9.4). -/

namespace Sys2Proof.Machine

variable {d : Dev} {x : Nat}

/-! ## The start and the capture -/

/-- The actions of Table 9.1 on what a context holds, from its slots to its configuration (R253). -/
def Dev.startActions (d : Dev) (x : Nat) : Dev :=
  ((((((d.startSlots x).startCells x).startStreams x).startCaches x).startSettings x).startFabric x).reloadConfig x

/-- Semaphore 0 of every slot of a context opens: its tasks may begin (Table 9.1). -/
def Dev.openSems (d : Dev) (x : Nat) : Dev :=
  (d.slotsOf x).foldl (fun d s => d.modSlot s.1 s.2 (fun k => k.setSem 0 1)) d

/-- A gyle whose start is pending starts in a running context, once no queue of it waits for its reset (R253). -/
theorem gyleStartEff_starts (hrunning : (d.ctx x).gyle.st = .running)
    (hpending : (d.ctx x).gyle.startPending = true) (hctx : (d.ctx x).state = .running)
    (hreset : d.clusters.any (fun e => e.2.queues.any (fun q => q.ctx == x && q.resetPending)) = false) :
    gyleStartEff x d = (((d.startActions x).openSems x).modGyle x (fun g =>
      { g with startPending := false })).startCapture x :=
  if_neg (by simp only [hrunning, hpending, hctx, hreset]; decide)

/-- The capture that no vote waited for has cost the gyle nothing (R355). -/
theorem captureCompleteEff_captures (hcapturing : (d.ctx x).resil.capture = .capturing)
    (hreads : (d.ctx x).resil.captured = false) (hnovote : (d.ctx x).resil.readyCycle = none) :
    captureCompleteEff x d = (d.captureImage x).modResil x (fun r => { r with cost := 0 }) := by
  have hopen : ¬ ((d.ctx x).resil.capture != .capturing || (d.ctx x).resil.captured) = true := by
    simp [hcapturing, hreads]
  refine (if_neg hopen).trans ?_
  simp only [hnovote]

/-! ## The vote -/

section Vote

variable (hrunning : (d.ctx x).gyle.st = .running)

include hrunning

/-- A recorded cause is reason enough to vote: no other condition is waited for (R261). -/
theorem voteEff_of_cause (hcause : (d.ctx x).gyle.cause.isSome = true) : voteEff x d = d.castVote x := by
  have hruns : ¬ ((d.ctx x).gyle.st != .running) = true := by simp [hrunning]
  exact (if_neg hruns).trans (if_pos hcause)

/-- A gyle without a cause votes once every condition of COMMIT_READY holds, no capture of it is under way and its restore
proof holds (R261, R368). -/
theorem voteEff_of_ready (hclean : (d.ctx x).gyle.cause = none) (hstarted : (d.ctx x).gyle.startPending = false)
    (hready : d.voteReady x = true) (hcaptured : (d.ctx x).resil.capture ≠ .capturing)
    (hproof : d.proofHolds x = true) : voteEff x d = d.castVote x := by
  have hruns : ¬ ((d.ctx x).gyle.st != .running) = true := by simp [hrunning]
  have hnocause : ¬ (d.ctx x).gyle.cause.isSome = true := by simp [hclean]
  have hconditions : ¬ ((d.ctx x).gyle.startPending || !(d.voteReady x)) = true := by simp [hstarted, hready]
  have hcopied : ¬ ((d.ctx x).resil.capture == .capturing && !(d.ctx x).resil.captured) = true := by simp [hcaptured]
  exact (if_neg hruns).trans ((if_neg hnocause).trans ((if_neg hconditions).trans
    ((if_neg hcopied).trans (if_pos hproof))))

end Vote

/-! ## Messages of partners -/

/-- The decision that a ballot of a gyle's attempt carries (Table 9.4). -/
def Ballot.decision (b : Ballot) (attempt : Nat) : Decision :=
  { gyle := b.gyle, commit := b.value == 0, cause := b.cause, status := b.status
    origin := BitVec.ofNat 24 b.origin, attempt := attempt }

section Message

variable {n : Nat} {m : RxMsg} (hctx : m.hdr.dstCtx.toNat < 1024)

include hctx

/-- A vote at the head of a port is recorded by the coordinator that it names (R265, R267). -/
theorem gyleVoteEff_records
    (hhead : d.headMsg n 0 (fun m => m.hdr.type == 6 && (ballotOf m.data).type == 1) = some m) :
    gyleVoteEff n d = (d.popMsg n 0).recordVote m.hdr.dstCtx.toNat (m.hdr.src.toNat, m.hdr.srcCtx.toNat)
      (ballotOf m.data) m.hdr.attempt.toNat := by
  simp only [gyleVoteEff, hhead]
  exact if_neg (Nat.not_le.mpr hctx)

/-- A decision at the head of a port is applied by the participant that it names (R268). -/
theorem gyleDecideMessageEff_decides
    (hhead : d.headMsg n 0 (fun m => m.hdr.type == 6 && (ballotOf m.data).type == 2) = some m) :
    gyleDecideMessageEff n d = (d.popMsg n 0).decideHere m.hdr.dstCtx.toNat (ballotOf m.data).job
      ((ballotOf m.data).decision m.hdr.attempt.toNat) := by
  simp only [gyleDecideMessageEff, hhead]
  exact if_neg (Nat.not_le.mpr hctx)

end Message

/-! ## The deadlines -/

/-- The vote deadline of a coordinator that waits for votes decides ABORT with cause 14 (R267). -/
theorem voteDeadlineEff_expires (hcoordinates : d.coordinates x = true)
    (hruns : (d.ctx x).gyle.coord.deadlineRuns = true) (hdue : (d.ctx x).deadlineAt ≤ d.cycleOf (islMgmt 0)) :
    voteDeadlineEff x d = d.expireVotes x :=
  if_pos (by simp [hcoordinates, hruns, hdue])

/-- Before its cycle the vote deadline does nothing. -/
theorem voteDeadlineEff_early (hearly : d.cycleOf (islMgmt 0) < (d.ctx x).deadlineAt) : voteDeadlineEff x d = d :=
  if_neg (by simp [hearly])

/-- A gyle that has voted and hears no decision in time sends its vote again and tells the host (R270). -/
theorem decideTimeoutEff_resends (hvoted : (d.ctx x).gyle.st = .voted) :
    decideTimeoutEff x d = (((d.noteEvent (islMgmt 0)).sendVote x).errFire (gyleKey 0) 2 (2 + x * 2 ^ 16)).ctxEvent x
      Code.gyleDecisionOverdue 0 [] :=
  if_pos (beq_iff_eq.mpr hvoted)

/-! ## The statement -/

/-- Settles O33: each event answers its effect, and each case is that effect's equation. -/
theorem gyleEventsComplete : Obligations.GyleEventsComplete := by
  intro p d x
  refine ⟨fun hrunning hpending hctx hreset => ?starts, fun hcapturing hreads hnovote => ?captures,
    fun hrunning hcause => ?votesAbort, fun hrunning hclean hstarted hready hcaptured hproof => ?votesCommit,
    fun n m hhead hctx => ?voteArrives, fun n m hhead hctx => ?decisionArrives,
    fun hcoordinates hruns hdue => ?expires, fun hearly => ?early, fun hvoted => ?overdue⟩
  case starts => exact onDev_of_eff (gyleStartEff_starts hrunning hpending hctx hreset)
  case captures => exact onDev_of_eff (captureCompleteEff_captures hcapturing hreads hnovote)
  case votesAbort => exact onDev_of_eff (voteEff_of_cause hrunning hcause)
  case votesCommit => exact onDev_of_eff (voteEff_of_ready hrunning hclean hstarted hready hcaptured hproof)
  case voteArrives => exact onDev_of_eff (gyleVoteEff_records hctx hhead)
  case decisionArrives => exact onDev_of_eff (gyleDecideMessageEff_decides hctx hhead)
  case expires => exact onDev_of_eff (voteDeadlineEff_expires hcoordinates hruns hdue)
  case early => exact onDev_of_eff (voteDeadlineEff_early hearly)
  case overdue => exact onDev_of_eff (decideTimeoutEff_resends hvoted)

end Sys2Proof.Machine

/-! # O35: links

Each link command tests the state of its port, and each has an equation for the case that the statement names: a group
sent again and one sent first, a group taken and one discarded, the timeout, the end of training and the lookup of a
partner (R283 to R287, R292). -/

namespace Sys2Proof.Machine

variable {d : Dev} {n : Nat}

/-- A rise by nothing is no rise. -/
@[simp] theorem Dev.count_zero (key : Nat) : d.count key 0 = d := if_pos rfl

/-! ## Groups sent -/

section Send

variable (hup : d.portUp n = true)

include hup

/-- A group that is due to be sent again goes first, under the link word of the moment (R286). -/
theorem linkWordSendEff_resends {g : SentGroup} (hdue : 0 < (d.port n).resend)
    (hgroup : (d.port n).replay[(d.port n).replay.length - (d.port n).resend]? = some g) :
    linkWordSendEff n d = ((d.setPort n { (d.port n).emit g with resend := (d.port n).resend - 1 }).count
      (tapKey n 0x810) 1).count (tapKey n 0x800) g.busy := by
  simp [linkWordSendEff, hup, hdue, hgroup]

/-- The next group of a port: as many of its flits as wait and may go, then idle flits, with the credits that are due
(R283, R287). -/
def Dev.nextGroup (d : Dev) (n : Nat) : SentGroup :=
  { seq := (d.port n).txSeq, flits := (d.port n).fillGroup.1 ++ d.idleFlits (8 - (d.port n).fillGroup.1.length)
    credit := (d.port n).fillGroup.2.returnCredits.1, creditVc := (d.port n).fillGroup.2.returnCredits.2.1 }

/-- A port once it has sent a new group, which it keeps until it is acknowledged (R286). -/
def Port.sentNew (q : Port) (g : SentGroup) (seq : BitVec 10) : Port :=
  { q.emit g with replay := q.replay ++ [g], txSeq := seq }

/-- A port that has nothing to send again, and room for one more unacknowledged group, sends its next group
(R283, R286). -/
theorem linkWordSendEff_sends (hnone : (d.port n).resend = 0) (hroom : (d.port n).replay.length < 128) :
    linkWordSendEff n d =
      let q := (d.port n).fillGroup.2.returnCredits.2.2
      (d.drew.setPort n (q.sentNew (d.nextGroup n) (q.txSeq + 1))).count (tapKey n 0x800)
        (d.port n).fillGroup.1.length := by
  have hdown : ¬ (!(d.portUp n)) = true := by simp [hup]
  refine (if_neg hdown).trans ?_
  simp only [hnone, Nat.lt_irrefl, if_false]
  exact if_neg (Nat.not_le.mpr hroom)

end Send

/-! ## Groups received -/

/-- A link word without an acknowledgement acknowledges nothing. -/
theorem Dev.takeAck_of_invalid {w : LinkWord} (hnone : w.ackValid = false) : d.takeAck n w = d :=
  if_pos (by simp [hnone])

/-- A port that has taken a good group in order, with the credits that its link word returns (R285, R287). -/
def Port.took (q : Port) (w : LinkWord) : Port :=
  { q with
    ack := w.seq, ackDue := true, discarding := false, nakDue := false
    credits := q.credits.set w.creditVc.1 (q.credits.get w.creditVc + 8 * w.credit) w.creditVc.2 }

section Receive

variable {g : Group} (hup : d.portUp n = true)

include hup

/-- A good group that needed no correction and comes in order is acknowledged and credited, and hands its flits on
(R284, R285, R287). -/
theorem groupReceiveEff_takes (hgood : groupGood g = true) (hclean : g.fecCorrected = 0)
    (hnoack : g.word.ackValid = false) (horder : g.word.seq = (d.port n).ack + 1) :
    groupReceiveEff n g d = g.flits.foldl (fun d f => d.takeFlit n f) (d.setPort n ((d.port n).took g.word)) := by
  have hdown : ¬ (!(d.portUp n)) = true := by simp [hup]
  have hbad : ¬ (!(groupGood g)) = true := by simp [hgood]
  have htaken : (d.count (tapKey n 0x818) g.fecCorrected).takeAck n g.word = d := by
    rw [hclean, Dev.count_zero, Dev.takeAck_of_invalid hnoack]
  refine (if_neg hdown).trans ((if_neg hbad).trans ?_)
  rw [htaken]
  exact (if_neg hdown).trans (if_neg (not_not_intro horder))

/-- A bad group is discarded, with what follows it, and asked for again; it is detected as a link error (R284). -/
theorem groupReceiveEff_discards (hbad : groupGood g = false) :
    groupReceiveEff n g d = (((d.count (tapKey n 0x818) g.fecCorrected).count (tapKey n 0x820) 1).modPort n (fun q =>
      { q with discarding := true, nakDue := true, ackDue := true })).detect
        { cls := 0, detector := 0x0B, unitKind := 5, unit := n, island := islOfPort n, ctx := 0xFFFF, status := 0
          address := 0, flags := 0, page := tapKey n 0 } := by
  have hdown : ¬ (!(d.portUp n)) = true := by simp [hup]
  exact (if_neg hdown).trans (if_pos (by simp [hbad]))

end Receive

/-- What is needed of a good group: its CRC matches and no codeword of it was uncorrectable (R284). -/
theorem groupGood_of_checks {g : Group} (hcrc : g.word.crc = groupCrc g.flits g.word) (hfec : g.fecBad = false) :
    groupGood g = true := by
  simp [groupGood, hcrc, hfec]

/-- Either failure makes a group bad (R284). -/
theorem groupGood_of_fails {g : Group} (hfails : g.word.crc ≠ groupCrc g.flits g.word ∨ g.fecBad = true) :
    groupGood g = false := by
  obtain hcrc | hfec := hfails
  · simp [groupGood, hcrc]
  · simp [groupGood, hfec]

/-! ## Timeout and training -/

/-- Every unacknowledged group is due again, until the oldest has been resent as often as it may (R286). -/
theorem retryTimeoutEff_resends (hup : d.portUp n = true) (hwaits : (d.port n).replay ≠ [])
    (hmay : (d.port n).resent < d.rnat (tapKey n 0x104) % 256) :
    retryTimeoutEff n d = d.setPort n { d.port n with
      resend := (d.port n).replay.length, resent := (d.port n).resent + 1 } :=
  (if_pos hup).trans ((if_neg hwaits).trans (if_neg (Nat.not_le.mpr hmay)))

/-- A port that is enabled comes up from training with its link state forgotten and every credit (R286, R287). -/
theorem portTrainedEff_comesUp (htraining : d.rnat (tapKey n 0x14) % 4 = 1)
    (henabled : d.rnat (tapKey n 0x10) % 2 = 1) :
    portTrainedEff n d =
      (d.modPort n (fun q => { q.dropLink with credits := Port.reset.credits })).setPortState n 2 :=
  if_pos ⟨htraining, henabled⟩

/-! ## Lookup of a partner -/

section Lookup

variable {v : Fin 4} {m : RxMsg}

/-- What the management island of die 0 answers to a port that asks for a partner (R292). -/
def Dev.partnerAsked (d : Dev) (n id : Nat) : Bool × Dev :=
  (d.carry (islOfPort n) (islMgmt 0)).partnerRead id false false

/-- The device once that answer is back at the port. -/
def Dev.partnerAnswered (d : Dev) (n id : Nat) : Dev := (d.partnerAsked n id).2.carry (islMgmt 0) (islOfPort n)

/-- The first flits of a message of an admitted partner are marked so, where no whole message waits for its lookup
(R292). -/
theorem partnerLookupEff_admits (hunknown : (d.port n).unknown v = some m)
    (hout : d.routeOpen (islOfPort n) (islMgmt 0) = true) (hback : d.routeOpen (islMgmt 0) (islOfPort n) = true)
    (hread : (d.partnerAsked n m.hdr.src.toNat).1 = true)
    (hadmitted : (d.partnerAnswered n m.hdr.src.toNat).admitted m.hdr.src.toNat = true)
    (hpart : (((d.partnerAnswered n m.hdr.src.toNat).port n).rx.get v).any (fun m => m.admitted.isNone) = false) :
    partnerLookupEff n v false false d = (d.partnerAnswered n m.hdr.src.toNat).modPort n (fun q =>
      { q with part := q.part.set v.1 (some { m with admitted := some true }) v.2 }) := by
  have hopen : ¬ (!(d.routeOpen (islOfPort n) (islMgmt 0) && d.routeOpen (islMgmt 0) (islOfPort n))) = true := by
    simp [hout, hback]
  unfold partnerLookupEff
  simp only [hunknown]
  refine (if_neg hopen).trans ((if_neg (Bool.eq_false_iff.mp hpart)).trans ?_)
  rw [Dev.partnerAsked] at hread
  rw [Dev.partnerAnswered, Dev.partnerAsked] at hadmitted
  simp only [hread, hadmitted, Bool.or_true, Bool.and_true, Bool.not_true, Bool.and_false, Bool.false_eq_true,
    if_false]
  rfl

end Lookup

/-! ## The statement -/

/-- Settles O35: each command of the port answers its effect, and each case is that effect's equation. -/
theorem linksComplete : Obligations.LinksComplete := by
  intro p d n
  refine ⟨fun g hup hdue hgroup => ?resends, fun hup hnone hroom => ?sends,
    fun g hup hcrc hfec hclean hnoack horder => ?takes, fun g hup hfails => ?discards,
    fun hup hwaits hmay => ?timesOut, fun htraining henabled => ?comesUp,
    fun v m hunknown hout hback => ?looksUp⟩
  case resends => exact onDev_of_eff (linkWordSendEff_resends hup hdue hgroup)
  case sends => exact onDev_of_eff (linkWordSendEff_sends hup hnone hroom)
  case takes =>
    rw [Dev.count_zero]
    exact onDev_of_eff (groupReceiveEff_takes hup (groupGood_of_checks hcrc hfec) hclean hnoack horder)
  case discards => exact onDev_of_eff (groupReceiveEff_discards hup (groupGood_of_fails hfails))
  case timesOut => exact onDev_of_eff (retryTimeoutEff_resends hup hwaits hmay)
  case comesUp => exact onDev_of_eff (portTrainedEff_comesUp htraining henabled)
  case looksUp =>
    intro r d1 hread hadmitted hpart
    exact onDev_of_eff (partnerLookupEff_admits hunknown hout hback hread hadmitted hpart)

end Sys2Proof.Machine

/-! # O37: sends

A trigger unit fires every entry of the send list that names its task and semaphore; a message in flight is found by its
tag, to go out again or to time out (R303, R304). -/

namespace Sys2Proof.Machine

open Sys2Proof.Claims

variable {d : Dev}

/-! ## Firing -/

/-- The entries of a context's send list, each with the status of its read. -/
def Dev.sendEntries (d : Dev) (x : Nat) : List (W16 × List Byte) :=
  (List.range ((d.ctx x).field 0xEA 2)).map (d.sendEntry x)

/-- The entries of a send list that a semaphore of a task triggers. -/
def sendsOf (es : List (W16 × List Byte)) (task sem : Nat) : List (W16 × List Byte) :=
  es.filter (fun e => rn e.2 0 2 == task && bitsOf (rn e.2 2 1) 2 0 == sem)

/-- A unit of a trigger semaphore fires its sends in list order and is consumed, where the whole list could be read
(R303). -/
theorem sendFireEff_fires {core sem : Nat} {k : SlotIx} (hvalid : (d.slot core k).valid = true)
    (hwork : (d.ctx (d.slot core k).ctx).inWork = true) (hunit : (d.slot core k).sem sem ≠ 0)
    (hread : ∀ e ∈ d.sendEntries (d.slot core k).ctx, e.1 = 0)
    (hmine : sendsOf (d.sendEntries (d.slot core k).ctx) (d.slot core k).task sem ≠ []) :
    sendFireEff core k sem d =
      let x := (d.slot core k).ctx
      let task := (d.slot core k).task
      (sendsOf (d.sendEntries x) task sem).foldl (fun d e => d.fireSend x e.2) (d.semTake x task sem 1) := by
  have hserves : ¬ (!(d.slot core k).valid || !(d.ctx (d.slot core k).ctx).inWork
      || (d.slot core k).sem sem == 0) = true := by
    simp [hvalid, hwork, hunit]
  have hnofail : (d.sendEntries (d.slot core k).ctx).find? (fun e => e.1 != 0) = none :=
    List.find?_eq_none.mpr fun e he => by simp [hread e he]
  rw [Dev.sendEntries] at hnofail
  refine (if_neg hserves).trans ?_
  simp only [hnofail]
  exact if_neg hmine

/-! ## Messages in flight -/

section Message

variable {x : Nat} {tag : W32} {m : InFlight}

/-- A message that found its window busy goes out again (R304). -/
theorem sendResendEff_resends (hbusy : (d.ctx x).msgs.find? (fun m => m.tag == tag && m.busy) = some m) :
    sendResendEff x tag d = (d.modCtx x (fun c => { c with
      msgs := c.msgs.map (fun k => if k.tag = tag then { k with busy := false } else k) })).sendMsg m.port m.hdr
        m.data := by
  simp only [sendResendEff, hbusy]

/-- While no cask is read, a message that is not answered in time is no read of a cask, and times out as a write
(R304). -/
theorem answerTimeoutEff_of_noRead (hnoread : (d.ctx x).resil.reading = none) :
    answerTimeoutEff x tag d = writeTimeoutEff x tag d := by
  unfold answerTimeoutEff
  rw [hnoread]
  cases (d.ctx x).msgs.find? (fun m => m.tag == tag && m.reads) <;> rfl

/-- A message of a send that is not answered in time fails its send (R304). -/
theorem writeTimeoutEff_fails {id : Nat} (hfound : (d.ctx x).msgs.find? (fun m => m.tag == tag) = some m)
    (hsend : m.sendId = some id) : writeTimeoutEff x tag d = d.sendFail x id Code.remoteTimeout := by
  simp only [writeTimeoutEff, hfound, hsend]

end Message

/-! ## The statement -/

/-- Settles O37: each command answers its effect, and each case is that effect's equation. -/
theorem sendsComplete : Obligations.SendsComplete := by
  intro p d
  refine ⟨fun core k sem hserving hvalid hwork hunit => ?fires, fun x tag m hbusy => ?resends,
    fun x tag m id hnoread hfound hsend => ?timesOut⟩
  case fires =>
    intro x es mine hread hmine
    exact onCore_of_serving hserving (sendFireEff_fires hvalid hwork hunit hread hmine)
  case resends => exact onDev_of_eff (sendResendEff_resends hbusy)
  case timesOut =>
    exact onDev_of_eff ((answerTimeoutEff_of_noRead hnoread).trans (writeTimeoutEff_fails hfound hsend))

end Sys2Proof.Machine

/-! # O38: windows

A window opens and closes by a host command, which passes the checks of a live context first; it is drained, redirected
and copied back by events, each behind one test of the window's state and its owner's (R294, R295, R300, R301,
Table 10.7). -/

namespace Sys2Proof.Machine

open Sys2Proof.Claims

variable {d : Dev}

/-! ## Opening and the first phase of closing -/

section Command

variable {h : CmdHdr}

/-- The numbers under which no window stands. -/
def Dev.freeWindows (d : Dev) : List Nat := (List.range 4096).filter (fun n => (d.window n).state == .free)

/-- The free number that a window opens under: any of them (R294). -/
def Dev.newWindow (d : Dev) : Nat := d.freeWindows.getD (Config.freeNat d.free % d.freeWindows.length) 0

/-- A well-formed window of its own context opens under a free number, where its context may hold one more (R294). -/
theorem winOpenEff_opens {b : WinBody} (hgood : LiveGood d h) (hzero : b.reservedZero = true) (howner : b.owner = h.ctx)
    (htarget : b.target = 0) (hport : b.port ≤ 11) (hnotify : bitsOf b.notify.toNat 14 12 = 0)
    (hlimit : (d.ctx h.ctx).field 0xF8 2 > d.windowsOf h.ctx) (hvalid : d.windowBad h.ctx b = false)
    (hfree : d.freeWindows ≠ []) :
    winOpenEff h b d = (d.drew.setWindow d.newWindow { d.window d.newWindow with
      state := .open, body := b, redirected := false, closeCmd := none }).complete h 0
        (BitVec.ofNat 32 (d.newWindow + 2 ^ 16 * (d.window d.newWindow).gen.toNat)) := by
  have hfields : ¬ (!b.reservedZero || b.owner != h.ctx || decide (1 < b.target) || decide (11 < b.port)
      || bitsOf b.notify.toNat 14 12 != 0
      || (b.target == 1 && (bitAt b.base.toNat 22 || decide (2 ^ 32 ≤ b.base.toNat)))) = true := by
    simp [hzero, howner, htarget, hport, hnotify]
  have hroom : ¬ (d.freeWindows = [] ∨ (d.ctx h.ctx).field 0xF8 2 ≤ d.windowsOf h.ctx) :=
    not_or_intro hfree (Nat.not_le.mpr hlimit)
  exact (Dev.liveCmd_of_liveGood hgood _).trans ((if_neg hfields).trans
    ((if_neg hroom).trans (if_neg (Bool.eq_false_iff.mp hvalid))))

/-- A close by the owner of an open window begins: the window takes nothing more until it is drained (R295). -/
theorem winCloseEff_closes {n : Nat} (hgood : LiveGood d h) (hnumber : n < 4096) (hopen : (d.window n).state = .open)
    (howner : (d.window n).body.owner = h.ctx) :
    winCloseEff h n d = d.setWindow n { d.window n with state := .closing, closeCmd := some h } := by
  have hmay : ¬ (4096 ≤ n ∨ (d.window n).state ≠ .open ∨ (d.window n).body.owner ≠ h.ctx) := by
    simp [hnumber, hopen, howner]
  exact (Dev.liveCmd_of_liveGood hgood _).trans (if_neg hmay)

end Command

/-! ## Events of a window -/

section Event

variable {n : Nat}

/-- A closing window that is drained is free under its next generation, with which its close completes (R295). -/
theorem windowCloseDrainedEff_frees (hclosing : (d.window n).state = .closing) :
    windowCloseDrainedEff n d = (d.setWindow n { d.window n with
      state := .free, gen := (d.window n).gen + 1, redirected := false, closeCmd := none }).completeOpt
        (d.window n).closeCmd 0 (BitVec.ofNat 32 (n + 2 ^ 16 * ((d.window n).gen + 1).toNat)) :=
  if_neg (by simp [hclosing])

/-- Writes to a scratchpad window of an owner that does not run go to its spill area (R300). -/
theorem spillRedirectEff_redirects (hstands : (d.window n).state ≠ .free)
    (hspills : winSpills (d.window n).body = true) (hdirect : (d.window n).redirected = false)
    (howner : (d.ctx (d.window n).body.owner).state ≠ .running) :
    spillRedirectEff n d = (d.noteEvent (islOfPort (d.window n).body.port)).setWindow n
      { d.window n with redirected := true } :=
  if_neg (by simp [hstands, hspills, hdirect, howner])

/-- The marks of a window's spill area: the granules that were written to it (R301). -/
def Dev.spillMarks (d : Dev) (b : WinBody) : Nat :=
  leNat (d.ctxRead b.owner (b.spill.toNat + b.size) (ceilDiv b.size 512)).2

/-- A granule of a window's spill area copied to the scratchpad, if it is marked (R301). -/
def Dev.granuleBack (b : WinBody) (marks : Nat) (d : Dev) (g : Nat) : Dev :=
  if bitAt marks g then d.grantPut b.owner (winTask b) (winOffset b + 64 * g)
    (d.ctxRead b.owner (b.spill.toNat + 64 * g) 64).2 else d

/-- The device once every marked granule is back and the marks are cleared (R301). -/
def Dev.spillBack (d : Dev) (b : WinBody) : Dev :=
  (((List.range (b.size / 64)).foldl (Dev.granuleBack b (d.spillMarks b)) d).ctxWrite b.owner (b.spill.toNat + b.size)
    (List.replicate (ceilDiv b.size 512) 0)).2

/-- What a redirected window took comes back when its owner runs again (R301). -/
theorem copyInEff_returns (hstands : (d.window n).state ≠ .free) (hredirected : (d.window n).redirected = true)
    (howner : (d.ctx (d.window n).body.owner).state = .running) :
    copyInEff n d = ((d.spillBack (d.window n).body).noteEvent (islOfPort (d.window n).body.port)).setWindow n
      { d.window n with redirected := false } :=
  if_neg (by simp [hstands, hredirected, howner])

end Event

/-! ## The statement -/

/-- Settles O38: the commands reach their effects through the checks of a live context, the events answer theirs, and
each case is that effect's equation. -/
theorem windowsComplete : Obligations.WindowsComplete := by
  intro p d
  refine ⟨fun h b hgood hzero howner htarget hport hnotify hlimit hvalid => ?opens,
    fun h n hgood hnumber hopen howner => ?closes, fun n => ⟨fun hclosing => ?frees,
      fun hstands hspills hdirect howner => ?redirects, fun hstands hredirected howner => ?returns⟩⟩
  case opens =>
    intro free n hfree
    exact onCmd_of_eff (winOpenEff_opens hgood hzero howner htarget hport hnotify hlimit hvalid hfree)
  case closes => exact onCmd_of_eff (winCloseEff_closes hgood hnumber hopen howner)
  case frees => exact onDev_of_eff (windowCloseDrainedEff_frees hclosing)
  case redirects => exact onDev_of_eff (spillRedirectEff_redirects hstands hspills hdirect howner)
  case returns => exact onDev_of_eff (copyInEff_returns hstands hredirected howner)

end Sys2Proof.Machine

/-! # O39: collectives

A start looks its record up in the record list and asks whether the task and the channel are free; a message is taken
from the head of its port's channel; a deadline is told by the cycle of the home port's island (R306 to R312, R316). -/

namespace Sys2Proof.Machine

open Sys2Proof.Claims

variable {d : Dev}

/-! ## The start -/

/-- The collective records of a context, none for one that cannot be read. -/
def Dev.collRecords (d : Dev) (x : Nat) : List (Option (List Byte)) :=
  (List.range ((d.ctx x).field 0xE8 2)).map (d.collRec x)

/-- The records among those that a semaphore of a task starts, in list order (R307). -/
def recordsOf (all : List (Option (List Byte))) (task sem : Nat) : List (List Byte) :=
  (all.filterMap id).filter (fun b => crTask b == task && crStart b == sem)

/-- A unit of a start semaphore is consumed and starts the next record that it names, where every record can be read
and no collective runs (R306, R307). -/
theorem collectiveStartEff_starts {core sem : Nat} {k : SlotIx} {b : List Byte}
    (hvalid : (d.slot core k).valid = true) (hwork : (d.ctx (d.slot core k).ctx).inWork = true)
    (hunit : (d.slot core k).sem sem ≠ 0) (hread : (d.collRecords (d.slot core k).ctx).any (·.isNone) = false)
    (hnext : (recordsOf (d.collRecords (d.slot core k).ctx) (d.slot core k).task sem)[tget
      (d.ctx (d.slot core k).ctx).collNext ((d.slot core k).task * 8 + sem) 0]? = some b)
    (hidle : ∀ e ∈ d.chans, e.2.run = none) (hchan : (d.chan (rn b 0 1)).run = none) :
    collectiveStartEff core k sem d =
      let x := (d.slot core k).ctx
      let key := (d.slot core k).task * 8 + sem
      ((d.modCtx x (fun c => { c with collNext := tset c.collNext key (tget c.collNext key 0 + 1) })).semTake x
        (d.slot core k).task sem 1).startColl x ((d.collRecords x).filterMap id) b := by
  have hserves : ¬ (!(d.slot core k).valid || !(d.ctx (d.slot core k).ctx).inWork
      || (d.slot core k).sem sem == 0) = true := by
    simp [hvalid, hwork, hunit]
  rw [recordsOf, Dev.collRecords] at hnext
  refine (if_neg hserves).trans ((if_neg (Bool.eq_false_iff.mp hread)).trans ?_)
  simp only [hnext]
  refine if_neg ?_
  rw [Bool.or_eq_true, not_or]
  refine ⟨?_, by simp [hchan]⟩
  rw [List.any_eq_true]
  rintro ⟨e, he, hruns⟩
  simp [hidle e he] at hruns

/-! ## Messages -/

section Message

variable {n : Nat} {m : RxMsg}

/-- Data at the head of a port lands in its step, or joins the messages that wait while the scratchpad is under test
(R311, R339). -/
theorem collDataEff_of_head (hhead : d.headMsg n 2 (fun m => m.hdr.type == 4) = some m) :
    collDataEff n d =
      if d.collHeld m.hdr = true then
        if (d.port n).hold.length < 64 then (d.popMsg n 2).modPort n (fun q => { q with hold := q.hold ++ [m] }) else d
      else (d.popMsg n 2).landColl n m := by
  simp only [collDataEff, hhead]

/-- What a clear-to-send tells of: its sequence, phase and step, its sender and the sender's context (R311). -/
def clearToSend (h : MsgHdr) : Nat × Nat × Nat × Nat × Nat :=
  (bodyField h 0x28 2, bodyField h 0x25 1, bodyField h 0x26 1, h.src.toNat, h.srcCtx.toNat)

/-- A clear-to-send for a collective that is still to start is kept by its channel (R311). -/
theorem collCtsEff_keepsEarly {c : Nat} (hhead : d.headMsg n 0 (fun m => m.hdr.type == 5) = some m)
    (hc : bodyField m.hdr 0x24 1 = c) (hcurrent : (d.popMsg n 0).collStale m.hdr = 0)
    (howner : ((d.popMsg n 0).chan c).owner = some m.hdr.dstCtx.toNat) (hrests : ((d.popMsg n 0).chan c).run = none)
    (hlater : ((d.popMsg n 0).chan c).collSeq ≤ bodyField m.hdr 0x28 2) :
    collCtsEff n d = (d.popMsg n 0).setChan c { (d.popMsg n 0).chan c with
      early := ((d.popMsg n 0).chan c).early ++ [clearToSend m.hdr] } := by
  simp only [collCtsEff, hhead, hc, hrests]
  exact (if_neg (not_not_intro hcurrent)).trans ((if_neg (not_not_intro howner)).trans (if_pos hlater))

end Message

/-! ## The deadline and the layout -/

/-- A collective whose deadline has come in the cycles of its port's island fails (R312). -/
theorem collDeadlineEff_expires {c : Nat} {r : CollRun} (hrun : (d.chan c).run = some r) (hgoes : r.failed = false)
    (hdue : d.collDeadlineAt r ≤ d.cycleOf (islOfPort r.port)) : collDeadlineEff c d = d.collExpires c r := by
  simp only [collDeadlineEff, hrun]
  exact if_neg (by simp [hgoes, hdue])

/-- A layout that abandons nothing is set between gyles, for the next one to start with (R316). -/
theorem layoutSetEff_sets {h : CmdHdr} {epoch : W16} (hgood : LiveGood d h)
    (hbetween : (d.ctx h.ctx).gyle.st = .idle ∨ (d.ctx h.ctx).gyle.st = .held) :
    layoutSetEff h epoch 0 d = (d.modGyle h.ctx (fun g => { g with nextEpoch := some epoch })).complete h 0 0 := by
  have hstate : ¬ ((d.ctx h.ctx).gyle.st != .idle && (d.ctx h.ctx).gyle.st != .held) = true := by
    simpa [or_iff_not_imp_left] using hbetween
  exact (Dev.liveCmd_of_liveGood hgood _).trans (if_neg hstate)

/-! ## The statement -/

/-- Settles O39: each command answers its effect, and each case is that effect's equation. -/
theorem collectivesComplete : Obligations.CollectivesComplete := by
  intro p d
  refine ⟨fun core k sem b hserving hvalid hwork hunit => ?starts,
    fun n m hhead => ⟨fun hfree => ?lands, fun hheld hroom => ?waits⟩, fun n m hhead => ?clears,
    fun c r hrun hgoes hdue => ?expires, fun h epoch hgood hbetween => ?sets⟩
  case starts =>
    intro x task all key hread hnext hidle hchan
    exact onCore_of_serving hserving (collectiveStartEff_starts hvalid hwork hunit hread hnext hidle hchan)
  case lands => exact onDev_of_eff ((collDataEff_of_head hhead).trans (if_neg (Bool.eq_false_iff.mp hfree)))
  case waits => exact onDev_of_eff ((collDataEff_of_head hhead).trans ((if_pos hheld).trans (if_pos hroom)))
  case clears =>
    intro d1 c hcurrent howner hrests hlater
    exact onDev_of_eff (collCtsEff_keepsEarly hhead rfl hcurrent howner hrests hlater)
  case expires => exact onDev_of_eff (collDeadlineEff_expires hrun hgoes hdue)
  case sets => exact onCmd_of_eff (layoutSetEff_sets hgood hbetween)

end Sys2Proof.Machine

/-! # O40: core tests, unit tests, test packs and the calibration overlay

A core's test goes from state to state, and each of its commands tests where it stands; a digest pass compares two
digests; the host's commands pass the checks of an admin command first, then those of the unit, the pack or the entry
that they name (R325, R333, R337 to R342, Tables 11.9 and 11.10). -/

namespace Sys2Proof.Machine

open Sys2Proof.Claims

variable {d : Dev}

/-! ## The test of a core -/

section Core

variable {core : Nat}

/-- The interval of a core in service has passed: its test is due (R337). -/
theorem coreTestDueEff_fallsDue (hserves : d.retired Unit.core core = false) (hidle : (d.core core).test = .idle) :
    coreTestDueEff core false d = d.modCore core (fun k => { k with test := .due }) := by
  simp [coreTestDueEff, hserves, hidle]

/-- A test that was due a whole interval is overdue (R337). -/
theorem coreTestDueEff_fallsOverdue (hserves : d.retired Unit.core core = false) (hdue : (d.core core).test = .due) :
    coreTestDueEff core false d = d.modCore core (fun k => { k with test := .overdue }) := by
  simp [coreTestDueEff, hserves, hdue]

/-- An empty core whose test is due is taken, and its test area saved (R337, R338). -/
theorem coreTestStartEff_starts (hdue : (d.core core).test = .due) (hempty : d.ctxsOn core = []) :
    coreTestStartEff core d = (d.noteEvent (islMgmt (core / 128))).modCore core (fun k => { k with
      test := .running, testArea := k.spad.filter (fun e => e.1 < testAreaBytes) }) :=
  (if_neg (by simp [hdue])).trans (if_pos hempty)

/-- An overdue test has every context of the core pre-empted, whatever its gyle does (R337). -/
theorem coreTestStartEff_preempts (hoverdue : (d.core core).test = .overdue) (hused : d.ctxsOn core ≠ []) :
    coreTestStartEff core d = (d.ctxsOn core).foldl Dev.preemptCtx d :=
  (if_neg (by simp [hoverdue])).trans ((if_neg hused).trans (if_pos (by simp [hoverdue])))

/-- A core as its test leaves it: what lay in the test area stands there again, the rest of the scratchpad stays
(R338). -/
def Core.afterTest (k : Core) : Core :=
  { k with
    test := .idle, retestPending := false, testCmds := [], testArea := []
    spad := accJoin k.testArea (k.spad.filter (fun e => decide (testAreaBytes ≤ e.1))) }

/-- The answer to the requests that waited for a core's test (R340). -/
def testStatus (r : TestOutcome) : W16 := if r.fails = [] ∧ r.misses = [] then 0 else Code.testFailed

/-- A test that runs ends with its results, the answers to its requests and the core returned (R333, R338, R340). -/
theorem coreTestCompleteEff_ends {r : TestOutcome} (hruns : (d.core core).test = .running) :
    coreTestCompleteEff core r d = ((((d.core core).testCmds.foldl (fun d h => d.complete h (testStatus r) 0)
      (d.testResults core r)).modCore core Core.afterTest).noteEvent (islMgmt (core / 128))).schedule :=
  if_neg (by simp [hruns])

end Core

/-! ## Digest passes -/

section Digest

variable {isl : Nat} {flips : List (Nat × Byte)}

/-- A pass without mismatch counts for every context of the island, whatever it saw before (R325). -/
theorem Dev.passSeen_of_good : d.passSeen isl true = (d.ctxsIn isl).foldl (fun d x => d.modGyle x (fun g =>
    { g with digestSeen := isl :: g.digestSeen })) d := by
  simp [Dev.passSeen]

/-- The device once a digest pass is counted on its island's page (R325). -/
def Dev.passCounted (d : Dev) (isl : Nat) : Dev := d.count (islKey isl 0x828) 1

/-- The configuration that a pass of an island is to find (R325). -/
def Dev.passConfig (d : Dev) (isl : Nat) : List (Option Nat × List Byte) := (d.passCounted isl).islandConfig isl

/-- An island that holds what was written completes a good pass (R325). -/
theorem digestPassEff_matches
    (hmatch : configDigest (upsetConfig flips 0 (d.passConfig isl)) = configDigest (d.passConfig isl)) :
    digestPassEff isl flips d = ((d.passCounted isl).ctxsIn isl).foldl (fun d x => d.modGyle x (fun g =>
      { g with digestSeen := isl :: g.digestSeen })) (d.passCounted isl) :=
  (if_pos hmatch).trans Dev.passSeen_of_good

/-- An island whose configuration has changed fails its pass, with the parts that are wrong (R325). -/
theorem digestPassEff_fails
    (hdiffers : configDigest (upsetConfig flips 0 (d.passConfig isl)) ≠ configDigest (d.passConfig isl)) :
    digestPassEff isl flips d = ((d.passCounted isl).passSeen isl false).digestFail isl
      ((((d.passConfig isl).zip (upsetConfig flips 0 (d.passConfig isl))).filter (fun p => p.1.2 != p.2.2)).map
        (fun p => p.1.1)) :=
  if_neg hdiffers

end Digest

/-! ## Operating hours -/

/-- A full hour is counted; units that have been quiet long enough recover, and the history is written (R333,
Table 11.6). -/
theorem operatingHourEff_counts :
    operatingHourEff d = (d.ras.hist.foldl (fun d e => d.recover e.1 e.2)
      (({ d with ras := { d.ras with hours := (d.ras.hours / 10 + 1) * 10 } } : Dev).noteEvent
        (islMgmt 0))).histWrite :=
  rfl

section Command

variable {h : CmdHdr} (hgood : AdminGood d h true)

include hgood

/-! ## Requested tests and test packs -/

section Request

variable {kind unit : Nat} (hthere : unitThere kind unit = true) (hserves : d.retired kind unit = false)

include hthere hserves

/-- The request for a test of a unit that a core's test covers waits for that test, which falls due (R340). -/
theorem testRequestEff_ofCore {c : Nat} (hcore : coreOfUnit kind unit = some c)
    (hcoreServes : d.retired Unit.core c = false) :
    testRequestEff h kind unit d = d.modCore c (fun k => { k with
      testCmds := k.testCmds ++ [h], test := if k.test = .idle then .due else k.test }) := by
  refine (Dev.adminCmd_of_adminGood hgood _).trans ?_
  simp [hthere, hserves, hcore, hcoreServes]

/-- The test of any other unit runs at once, and its result is the answer (R340). -/
theorem testRequestEff_ofOther (hother : coreOfUnit kind unit = none) :
    testRequestEff h kind unit d = (d.unitTest kind unit).2.complete h
      (if (d.unitTest kind unit).1 then 0 else Code.testFailed) 0 := by
  refine (Dev.adminCmd_of_adminGood hgood _).trans ?_
  simp [hthere, hserves, hother]

end Request

/-- The load of a test pack answers the status of the pack's checks (R340). -/
theorem testpackLoadEff_answers {pack : Signed} {stepping : Nat} {good : Bool} :
    testpackLoadEff h pack stepping good d =
      (d.loadPack pack stepping good).2.complete h (d.loadPack pack stepping good).1 0 :=
  Dev.adminCmd_of_adminGood hgood _

/-! ## The overlay -/

section Overlay

/-- The device once an entry has joined the overlay and taken effect (R341, R342). -/
def Dev.overlaid (d : Dev) (e : W128) : Dev := (d.addEntry e).overlayChanged e

/-- The device once an entry is out of the overlay, on flash and in its effect (R341, R342). -/
def Dev.unlaid (d : Dev) (e : W128) : Dev :=
  (({ d with ras := { d.ras with overlay := d.ras.overlay.filter (fun o => o != e) } } : Dev).calWrite).overlayChanged e

variable {e : W128} (hformed : entryFormed e = true) (horigin : ovOrigin e = 0)

include hformed horigin

/-- An entry that is well formed, of the user's and not refused joins the overlay; one that retires a core does so
where the core is still in service (R341, R342, Table 11.9). -/
theorem calOverlayAddEff_adds (hallowed : d.entryRefused e = false) :
    calOverlayAddEff h e d = (if ovType e = 3 ∧ !((d.overlaid e).retired Unit.core (ovTarget e)) then
      (d.overlaid e).setService Unit.core (ovTarget e) .retired else d.overlaid e).complete h 0 0 := by
  have hvalid : ¬ (!(entryFormed e) || ovOrigin e != 0) = true := by simp [hformed, horigin]
  exact (Dev.adminCmd_of_adminGood hgood _).trans ((if_neg hvalid).trans (if_neg (Bool.eq_false_iff.mp hallowed)))

/-- An entry of the user's that stands in the overlay is removed, in every lifecycle state (R342). -/
theorem calOverlayRemoveEff_removes (hmember : e ∈ d.ras.overlay) :
    calOverlayRemoveEff h e d = (d.unlaid e).complete h 0 0 := by
  have hvalid : ¬ (!(entryFormed e)) = true := by simp [hformed]
  have hfound : ¬ (!(d.ras.overlay.contains e)) = true := by simp [hmember]
  have huser : ¬ (ovOrigin e = 1 ∧ d.sec.lifecycle ≠ 4) := by simp [horigin]
  exact (Dev.adminCmd_of_adminGood hgood _).trans ((if_neg hvalid).trans ((if_neg hfound).trans (if_neg huser)))

end Overlay

end Command

/-! ## The statement -/

/-- Settles O40: each command answers its effect, the host's through the checks of an admin command, and each case is
that effect's equation. -/
theorem testsAndOverlayComplete : Obligations.TestsAndOverlayComplete := by
  refine ⟨fun p d => ⟨fun core => ⟨fun hserves hidle => ?fallsDue, fun hserves hdue => ?fallsOverdue,
      fun hdue hempty => ?starts, fun hoverdue hused => ?preempts, fun r hserving hruns => ?ends⟩,
    fun isl flips hthere => ⟨fun hmatch => ?passes, fun hdiffers => ?mismatches⟩, ?hour,
    fun h hgood => ⟨fun kind unit c hthere hserves hcore hcoreServes => ?coreRequested,
      fun kind unit hthere hserves hother => ?unitTested, fun pack stepping good hpassed => ?packLoaded⟩⟩,
    fun p d h e hgood hformed => ⟨fun horigin hallowed htype => ?joins,
      fun horigin hallowed htype hserves => ?retires, fun horigin hmember => ?leaves⟩⟩
  case fallsDue => exact onDev_of_eff (coreTestDueEff_fallsDue hserves hidle)
  case fallsOverdue => exact onDev_of_eff (coreTestDueEff_fallsOverdue hserves hdue)
  case starts => exact onDev_of_eff (coreTestStartEff_starts hdue hempty)
  case preempts => exact onDev_of_eff (coreTestStartEff_preempts hoverdue hused)
  case ends => exact onCore_of_serving hserving (coreTestCompleteEff_ends hruns)
  case passes => exact onNamed_of_there hthere (digestPassEff_matches hmatch)
  case mismatches => exact onNamed_of_there hthere (digestPassEff_fails hdiffers)
  case hour => exact onDev_of_eff operatingHourEff_counts
  case coreRequested => exact onCmd_of_eff (testRequestEff_ofCore hgood hthere hserves hcore hcoreServes)
  case unitTested => exact onCmd_of_eff (testRequestEff_ofOther hgood hthere hserves hother)
  case packLoaded =>
    exact onCmd_of_eff ((testpackLoadEff_answers hgood).trans (congrArg (Dev.complete _ h · 0) hpassed))
  case joins =>
    exact onCmd_of_eff ((calOverlayAddEff_adds hgood hformed horigin hallowed).trans
      (congrArg (Dev.complete · h 0 0) (if_neg fun hretires => htype hretires.1)))
  case retires =>
    exact onCmd_of_eff ((calOverlayAddEff_adds hgood hformed horigin hallowed).trans
      (congrArg (Dev.complete · h 0 0) (if_pos ⟨htype, by simp [Dev.overlaid, hserves]⟩)))
  case leaves => exact onCmd_of_eff (calOverlayRemoveEff_removes hgood hformed horigin hmember)

end Sys2Proof.Machine

/-! # O6, O7, O8, O57, O1, O2, O3: the machine as a whole

Of every command it is said once how its effect is answered: by the device, by an island whose clocks may stand, or by
one or two islands that it names. What the answers have in common is then a fact about four functions. -/

namespace Sys2Proof.Machine

open Sys2Proof.Claims

variable {d : Dev}

/-! ## Fuses -/

/-- Settles O6: the fuses of the device after a step have evolved from those before it. -/
theorem everyStepOnlyBlowsFuses : Obligations.EveryStepOnlyBlowsFuses := by
  intro s t hstep
  exact (step_evolves hstep).fuses

/-! ## How commands are answered -/

/-- What answers a command: the device, an island that works while its clocks run, an island that the command names, or
two of them (R377, R479). -/
inductive AnsweredBy (c : Instr) : Prop where
  | device (f : Dev → Dev) (heff : ∀ s, exec c s = onDev s f)
  | island (isl : Nat) (f : Dev → Dev) (heff : ∀ s, exec c s = onIsland s isl f)
  | named (isl : Isl) (f : Dev → Dev) (heff : ∀ s, exec c s = onNamed s isl f)
  | pair (src dst : Isl) (f : Dev → Dev) (heff : ∀ s, exec c s = onPair s src dst f)

/-- What a host command does is the device's, which schedules afterwards (R234). -/
theorem AnsweredBy.command {c : Instr} (f : Dev → Dev) (heff : ∀ s, exec c s = onCmd s f) : AnsweredBy c :=
  .device _ heff

/-- Every command has an answerer: two islands for what passes a crossing, a named one for what an island does by
itself, the island of a core or hub for what these do, and the device for all else. -/
theorem answeredBy (c : Instr) : AnsweredBy c := by
  cases c with
  | crossingTransfer | crossingEvent | resetNotice | crossingTimeout => exact .pair _ _ _ fun _ => rfl
  | idleCountLimit | stallProbeReply | sampleRecord | digestPass | frequencyChange | droopStart | droopEnd
  | applyPrepare | applyReady | applySwap | applyDone | drainTimeout | drainFail | applyAbort =>
    exact .named _ _ fun _ => rfl
  | nop | issue | issueStallEnd | wait | waitRelease | claim | claimRecord | claimReply | loop | addi | brz | loadg
  | setlen | movi | fence | fenceRelease | loadw | loadwComplete | endProgram | endCompletion | weightPlaneFill
  | matrixTile | arrayPass | chainedConversion | vectorDescriptor | transpose | fwdFirst | fwdNext | fwdLast | fwdOnly
  | recompute | gather | scatter | scatterAdd | compact | dispatch | combine | topk | sample | quantise | bits8 | bits16
  | bits32 | uniform | mask | normal | copyDescriptor | descriptorCompletion | ticketClose | ticketReturn | queueReset
  | tokenArrive | tokenForward | creditReturn | mov | add | sub | mul | fma | max | min | abs | neg | cmpgt | sel | rcp
  | rsqrt | exp2 | log2 | cvtDown | cvtUp | dup | steer | merge | count | acc | inRing | outRing | semIn | lenOut
  | hubAccess | gristFetch | gristStarved | preemptRequest | slotYield | preemptOverrun | sendFire | collectiveStart
  | coreTestComplete | probeAnswer => exact .island _ _ fun _ => rfl
  | objCreate | objAttach | objRelease | objMoveUp | objMoveDown | fnAssign | ctxLoad | ctxUnload | ctxKill | ctxResume
  | ctxSet | gyleBegin | gyleAbort | gyleDecide | gyleResolve | gyleReplay | winOpen | winClose | layoutSet
  | calOverlayAdd | calOverlayRemove | testRequest | testpackLoad | resilSet | caskHost | caskRelease | caskSchedule
  | ckptExport | restore | rackBegin | queueCreate | queueDelete | hostRegister | hostUnregister | copy | fwUpdateWrite
  | fwUpdateVerify | fwUpdateActivate | fwUpdateCommit | revokeSlot | ownerEnrol => exact .command _ fun _ => rfl
  | _ => exact .device _ fun _ => rfl

/-- An island changes the device or, with its clocks stopped, nothing. -/
theorem onIsland_answers (s : State) (isl : Nat) (f : Dev → Dev) :
    ∃ d, onIsland s isl f = .next { s with dev := d } := by
  unfold onIsland
  split
  · exact ⟨s.dev, rfl⟩
  · exact ⟨f s.dev, rfl⟩

/-- An island that no die has, number 34 of a die other than 0, stops the model; any other one answers (R377). -/
theorem onNamed_answers (s : State) (isl : Isl) (f : Dev → Dev) :
    (∃ d, onNamed s isl f = .next { s with dev := d })
      ∨ isl.nn.1 = 34 ∧ isl.d.1 ≠ 0 ∧ onNamed s isl f = .fault (.noSuchIsland (islId isl)) := by
  unfold onNamed
  split
  · next hmissing => exact .inr ⟨hmissing.1, hmissing.2, rfl⟩
  · exact .inl (onIsland_answers s (islId isl) f)

/-- A command answers by a changed device with its queue as it was, or names an island that no die has. -/
theorem exec_answers (c : Instr) (s : State) :
    (∃ d, exec c s = .next { s with dev := d })
      ∨ ∃ isl : Isl, isl.nn.1 = 34 ∧ isl.d.1 ≠ 0 ∧ exec c s = .fault (.noSuchIsland (islId isl)) := by
  cases answeredBy c with
  | device f heff => exact .inl ⟨f s.dev, heff s⟩
  | island isl f heff => exact heff s ▸ .inl (onIsland_answers s isl f)
  | named isl f heff => exact heff s ▸ (onNamed_answers s isl f).imp_right fun hmissing => ⟨isl, hmissing⟩
  | pair src dst f heff =>
    rw [heff s, onPair]
    split
    · next hmissing => exact .inr ⟨dst, hmissing.1, hmissing.2, rfl⟩
    · exact (onNamed_answers s src f).imp_right fun hmissing => ⟨src, hmissing⟩

/-- Settles O8: a command that names no missing island is answered. -/
theorem onlyAMissingIslandFaults : Obligations.OnlyAMissingIslandFaults := by
  intro c s
  exact (exec_answers c s).imp_left fun ⟨_, hnext⟩ => ⟨_, hnext⟩

/-- Settles O7: the state that a command answers differs from the one that it found in the device alone. -/
theorem execLeavesTheQueue : Obligations.ExecLeavesTheQueue := by
  intro c s t hexec
  obtain ⟨d, hnext⟩ | ⟨isl, -, -, hfault⟩ := exec_answers c s
  · cases hnext.symm.trans hexec
    rfl
  · cases hfault.symm.trans hexec

/-- Settles O1: a step takes the front command off the queue and runs it. -/
theorem stepRunsFrontCommand : Obligations.StepRunsFrontCommand := by
  intro c s
  rfl

/-! ## Commands on a device that is not READY -/

section NotReady

variable {h : CmdHdr} (hstate : d.sec.devState ≠ .ready)

include hstate

theorem Dev.adminCmd_of_not_ready (pfOnly : Bool) (f : Dev → Dev) :
    d.adminCmd h pfOnly f = d.complete h Code.deviceNotReady 0 :=
  if_pos (bne_iff_ne.mpr hstate)

theorem Dev.ctxCmd_of_not_ready (f : Dev → Dev) : d.ctxCmd h f = d.complete h Code.deviceNotReady 0 :=
  if_pos (bne_iff_ne.mpr hstate)

/-- The firmware operations that RECOVERY does not take are refused there too (Table 15.7). -/
theorem Dev.fwCmd_of_not_ready (f : Dev → Dev) : d.fwCmd h false f = d.complete h Code.deviceNotReady 0 :=
  if_pos (by simp [hstate])

end NotReady

/-- A completion leaves the state of the device as it was. -/
theorem Dev.complete_sec (d : Dev) (h : CmdHdr) (status : W16) (info : W32) :
    (d.complete h status info).sec = d.sec := by
  unfold Dev.complete Dev.completePay
  dsimp only
  split <;> rfl

/-- Each command of a context is one effect, which a device that is not READY refuses. -/
theorem exec_of_contextHeader_of_not_ready {c : Instr} {h : CmdHdr} (hcommand : contextHeader c = some h) :
    ∃ f : Dev → Dev, (∀ s, exec c s = onCmd s f)
      ∧ ∀ d : Dev, d.sec.devState ≠ .ready → f d = d.complete h Code.deviceNotReady 0 := by
  obtain ⟨f, hexec⟩ := exec_of_contextHeader hcommand
  exact ⟨_, hexec, fun d hstate => Dev.ctxCmd_of_not_ready hstate f⟩

/-- Each host command is one effect behind the checks of its header, the first of which asks for READY. -/
theorem exec_of_hostHeader {c : Instr} {h : CmdHdr} (hcommand : hostHeader c = some h) :
    ∃ f : Dev → Dev, (∀ s, exec c s = onCmd s f)
      ∧ ∀ d : Dev, d.sec.devState ≠ .ready → f d = d.complete h Code.deviceNotReady 0 := by
  cases c with
  | fnAssign | calOverlayAdd | calOverlayRemove | testRequest | testpackLoad | caskHost | caskRelease | queueCreate
  | queueDelete | hostRegister | hostUnregister =>
    cases hcommand
    exact ⟨_, fun _ => rfl, fun d hstate => Dev.adminCmd_of_not_ready hstate _ _⟩
  | fwUpdateCommit | revokeSlot | ownerEnrol =>
    cases hcommand
    exact ⟨_, fun _ => rfl, fun d hstate => Dev.fwCmd_of_not_ready hstate _⟩
  | objCreate | objAttach | objRelease | objMoveUp | objMoveDown | ctxLoad | ctxUnload | ctxKill | ctxResume | ctxSet
  | gyleBegin | gyleAbort | gyleDecide | gyleResolve | gyleReplay | winOpen | winClose | layoutSet | resilSet
  | caskSchedule | ckptExport | restore | rackBegin | copy =>
    exact exec_of_contextHeader_of_not_ready hcommand
  | _ => cases hcommand

/-- Settles O57: the check for READY completes the command, and a device that is not READY schedules nothing. -/
theorem commandsBeforeReadyAnswerNotReady : Obligations.CommandsBeforeReadyAnswerNotReady := by
  intro p d c h hcommand hstate
  obtain ⟨f, hexec, hrefuses⟩ := exec_of_hostHeader hcommand
  refine (hexec ⟨p, d⟩).trans ((onCmd_of_eff (hrefuses d hstate)).trans ?_)
  rw [Dev.schedule_of_not_ready _ (by rwa [Dev.complete_sec])]

/-! ## A tick of the clocks -/

/-- An island that a tick has counted (R386). -/
def IslSt.ticked (x : IslSt) : IslSt := if x.clocked then { x with cycle := x.cycle + 1 } else x

theorem IslSt.cycle_ticked (x : IslSt) : x.ticked.cycle = x.cycle + b2n x.clocked := by
  unfold IslSt.ticked b2n
  split <;> simp_all

/-- A table whose values are changed, each by itself. -/
theorem tget?_map {α : Type} (t : Table α) (g : α → α) (k : Nat) :
    tget? (t.map fun e => (e.1, g e.2)) k = (tget? t k).map g := by
  induction t with
  | nil => rfl
  | cons e r ih =>
    by_cases hkey : e.1 = k
    · simp [tget?, hkey]
    · by_cases hlt : k < e.1
      · simp [tget?, hkey, hlt]
      · simp only [List.map_cons, tget?, if_neg hkey, if_neg hlt, ih]

/-- Every island is ticked; one that the table does not list is in reset, where nothing counts. -/
theorem Dev.island_countCycles (d : Dev) (i : Nat) : d.countCycles.island i = (d.island i).ticked := by
  have htable : d.countCycles.islands = d.islands.map fun e => (e.1, e.2.ticked) := rfl
  rw [Dev.island, Dev.island, tget, tget, htable, tget?_map]
  cases tget? d.islands i <;> rfl

/-- What the acknowledgements of control events may change: crossings, the sequences of islands, and stamps (R381). -/
structure PulsesOnly (d t : Dev) : Prop where
  crossed : OnlyCrossed d t
  cycles : ∀ i, t.cycleOf i = d.cycleOf i

theorem PulsesOnly.trans {a b c : Dev} (h : PulsesOnly a b) (k : PulsesOnly b c) : PulsesOnly a c where
  crossed := h.crossed.trans k.crossed
  cycles i := (k.cycles i).trans (h.cycles i)

theorem PulsesOnly.refl (d : Dev) : PulsesOnly d d := ⟨rfl, fun _ => rfl⟩

theorem Dev.cycleOf_receive (d : Dev) (isl c i : Nat) : (d.receive isl c).cycleOf i = d.cycleOf i := by
  by_cases hisl : i = isl
  · simp [Dev.receive, Dev.cycleOf, hisl]
  · simp [Dev.receive, Dev.cycleOf, Dev.island_setIsland_ne _ _ hisl]

theorem Dev.setCross_pulsesOnly (d : Dev) (src dst : Nat) (x : Cross) : PulsesOnly d (d.setCross src dst x) :=
  ⟨rfl, fun _ => rfl⟩

theorem Dev.sendPulse_pulsesOnly (d : Dev) (src dst : Nat) : PulsesOnly d (d.sendPulse src dst) where
  crossed := rfl
  cycles i := Dev.cycleOf_receive (d.setCross src dst _) dst _ i

theorem Dev.ackEvents_pulsesOnly (d : Dev) : PulsesOnly d d.ackEvents := by
  unfold Dev.ackEvents
  refine List.foldlRecOn (motive := fun t => PulsesOnly d t) _ _ (.refl d) fun t ht e _ => ?_
  dsimp only
  split
  · split
    · exact ht.trans ((t.setCross_pulsesOnly _ _ _).trans (Dev.sendPulse_pulsesOnly _ _ _))
    · exact ht.trans (t.setCross_pulsesOnly _ _ _)
  · exact ht

/-- The device of a tick before the tests that fall due in it are run. -/
def Dev.ticked (d : Dev) : Dev := d.countIdle.countCycles.countHours.ackEvents

/-- On a device that is not READY, and where none falls due, no test of a unit is run (R337). -/
theorem Dev.unitTests_of_none_due
    (hnone : d.sec.devState ≠ .ready ∨ d.retestsDue = [] ∧ ∀ n < 4, d.intervalsDue n = []) : d.unitTests = d := by
  obtain hstate | ⟨hretests, hintervals⟩ := hnone
  · exact if_pos (bne_iff_ne.mpr hstate)
  · simp [Dev.unitTests, hretests, hintervals]

/-- The count of hours changes nothing but the hours. -/
theorem Dev.countHours_eq (d : Dev) : ∃ n, d.countHours = { d with ras := { d.ras with hours := n } } := by
  unfold Dev.countHours
  dsimp only
  split
  · exact ⟨d.ras.hours, rfl⟩
  · exact ⟨d.ras.hours + 1, rfl⟩

/-- Settles O2: cycles are counted before the acknowledgements, which count none, and a tick without tests ends
there. -/
theorem idleStepTicksClocks : Obligations.IdleStepTicksClocks := by
  intro s hpending
  refine ⟨{ s with dev := idleTick s.dev }, by rw [step, hpending], hpending, fun hnone => ?_⟩
  have htick : idleTick s.dev = s.dev.ticked := Dev.unitTests_of_none_due hnone
  obtain ⟨hours, hcounted⟩ := s.dev.countIdle.countCycles.countHours_eq
  obtain ⟨honly, hcycles⟩ := s.dev.countIdle.countCycles.countHours.ackEvents_pulsesOnly
  dsimp only
  rw [htick, Dev.ticked]
  refine ⟨fun i => ?cycle, ?_⟩
  case cycle =>
    rw [hcycles, hcounted]
    exact (congrArg IslSt.cycle (Dev.island_countCycles _ i)).trans (IslSt.cycle_ticked _)
  rw [honly, hcounted]
  exact ⟨rfl, rfl, rfl, rfl, rfl, rfl⟩

/-! ## Device resets -/

/-- Settles O3: each of the three is a reset of the device under pins of its own, from the same initial state. -/
theorem deviceResetKeepsFusesAndFlash : Obligations.DeviceResetKeepsFusesAndFlash := by
  rintro c s (rfl | rfl | rfl)
  all_goals exact ⟨_, rfl, by and_intros <;> rfl⟩

end Sys2Proof.Machine

/-! # O41, O43: resilience blocks, casks, restores and rackings

Each command passes the checks of a live context's command, or of an admin one, and then its own; what it does then is
one equation. The events of a cask have one for what the drain has come to, one for what is not answered in time, and
one for the racking that has all it waits for (R350 to R371, Table 12.3). -/

namespace Sys2Proof.Machine

open Sys2Proof.Claims

variable {d : Dev}

/-! ## Commands of a context -/

section Command

variable {h : CmdHdr}

/-- A context with what its resilience block was charged given back (R352). -/
def Dev.uncharged (d : Dev) (x : Nat) : Ctx := (d.ctx x).subCharges [0, 0, 0, (d.ctx x).resil.charge]

/-- The device once a block is charged in place of the one before (R352). -/
def Dev.blockCharged (d : Dev) (x : Nat) (b : ResilBytes) : Dev :=
  (d.setCtx x ((d.uncharged x).addCharges [0, 0, 0, d.caskCharge x b])).modResil x
    (fun r => { r with charge := d.caskCharge x b })

/-- A block that passes its checks is charged and taken: while a gyle runs it waits for the next one (R350 to R352). -/
theorem resilSetEff_takes {b : ResilBytes} (hgood : LiveGood d h) (hform : blockBad b = false)
    (hstaging : d.stagingBad h.ctx b = false)
    (hquota : (d.uncharged h.ctx).canCharge [0, 0, 0, d.caskCharge h.ctx b] = true) :
    resilSetEff h b d = (if (d.ctx h.ctx).gyleRuns
      then (d.blockCharged h.ctx b).modResil h.ctx (fun r => { r with nextBlock := some b })
      else ((d.blockCharged h.ctx b).modResil h.ctx (fun r => { r with block := b, nextBlock := none })).firstCask
        h.ctx).complete h 0 0 := by
  have hcharge : ¬ (!(d.uncharged h.ctx).canCharge [0, 0, 0, d.caskCharge h.ctx b]) = true := by simp [hquota]
  refine (Dev.liveCmd_of_liveGood hgood _).trans ?_
  exact (if_neg (Bool.eq_false_iff.mp hform)).trans
    ((if_neg (Bool.eq_false_iff.mp hstaging)).trans (if_neg hcharge))

/-- A cask gyle that lies ahead is set, and nobody is told (R361). -/
theorem caskScheduleEff_sets {gyle : Nat} (hgood : LiveGood d h) (hrange : gyle < 2 ^ 48)
    (hquiet : (d.takeSchedule h.ctx gyle).1 = false) :
    caskScheduleEff h gyle d = (d.takeSchedule h.ctx gyle).2.complete h 0 0 := by
  refine (Dev.liveCmd_of_liveGood hgood _).trans ((if_neg (Nat.not_le.mpr hrange)).trans ?_)
  exact congrArg (Dev.complete · h 0 0) (if_neg (Bool.eq_false_iff.mp hquiet))

/-- A sealed image that fits is written to the host, and the completion names its gyle and its size (R362). -/
theorem ckptExportEff_writes {addr size : Nat} {bs : List Byte} (hgood : LiveGood d h)
    (hstaging : d.stagingBytes h.ctx = some bs) (hsealed : (ckptOf bs).sealed = true)
    (hversion : (ckptOf bs).version = 1) (hcapture : (d.ctx h.ctx).resil.capture ≠ .capturing)
    (hfits : bs.length ≤ size) :
    ckptExportEff h addr size d = ((d.hostWrite addr bs).count (resilKey 0x820) 1).completePay h 0 0
      (leBytes 8 (ckptOf bs).gyle ++ leBytes 8 bs.length) := by
  refine (Dev.liveCmd_of_liveGood hgood _).trans ?_
  simp only [hstaging]
  exact if_neg (by simp [hsealed, hversion, hcapture, hfits])

/-- A restore waits for the gyle to stop, and goes on at once where it has (R364). -/
theorem restoreEff_begins {source version addr : Nat} {expected : W64} {hostFail : Bool} (hgood : LiveGood d h)
    (hsource : source ≤ 2) (hversion : version ≤ 1) (hwaiting : (d.ctx h.ctx).resil.waiting = none)
    (hracking : (d.ctx h.ctx).resil.racking = none) :
    restoreEff h source version 0 expected addr hostFail d = (((d.modResil h.ctx (fun r => { r with
      waiting := some { hdr := h, source := source, version := version, expected := expected, addr := addr
                        hostFail := hostFail } })).stopGyle h.ctx 12).resumeRestore h.ctx) := by
  have hfields : ¬ (2 < source ∨ 1 < version ∨ 0 ≠ 0) := by omega
  refine (Dev.liveCmd_of_liveGood hgood _).trans ((if_neg hfields).trans (if_neg ?_))
  simp [hwaiting, hracking]

/-- The device once a racking's epoch is set and the gyle of the context stopped with cause 9 (R369). -/
def Dev.rackStopped (d : Dev) (x : Nat) (b : RackBody) : Dev :=
  ((d.modCtx x (fun c => c.setField 0xC0 2 b.epoch.toNat)).modGyle x (fun g => { g with nextEpoch := none })).stopGyle
    x 9

/-- A racking of a context that is in a gyle begins (R369). -/
theorem rackBeginEff_begins {b : RackBody} {ownFail sendFail : Bool} (hgood : LiveGood d h)
    (hreserved : b.reservedZero = true) (hsource : b.ownSource ≤ 2) (hentries : b.entries ≤ 65535)
    (hgyle : b.gyle < 2 ^ 48) (hshards : b.shardChange = false) (hracking : (d.ctx h.ctx).resil.racking = none)
    (hwaiting : (d.ctx h.ctx).resil.waiting = none) (hin : ((d.rackStopped h.ctx b).ctx h.ctx).inGyle = true) :
    rackBeginEff h b ownFail sendFail d = ((d.rackStopped h.ctx b).modResil h.ctx (fun r => { r with
      rack := .racking, racking := some { cmd := h, body := b, ownFail := ownFail, sendFail := sendFail, plan := []
                                          restored := false, seeds := [], proof := (0, 0)
                                          received := [] } })).resumeRestore h.ctx := by
  have hfields : ¬ (!b.reservedZero || decide (2 < b.ownSource) || decide (65535 < b.entries)
      || decide (2 ^ 48 ≤ b.gyle)) = true := by
    simpa [hreserved, hsource, hentries] using hgyle
  have hpolicy : ¬ ((d.ctx h.ctx).waitRepair && b.shardChange) = true := by simp [hshards]
  refine (Dev.liveCmd_of_liveGood hgood _).trans ((if_neg hfields).trans ((if_neg hpolicy).trans ?_))
  simp only [hracking, hwaiting, Option.isSome_none, Bool.or_self, Bool.false_eq_true, if_false]
  rw [Dev.rackStopped] at hin
  rw [if_pos hin, Dev.rackStopped]

end Command

/-! ## Slots for partners -/

section Slot

variable {h : CmdHdr}

/-- A slot as it is granted: both versions empty, under a free key (R356). -/
def CaskSlot.granted (owner ctx size : Nat) (key : W32) (frames : List Nat) : CaskSlot :=
  { owner := owner, ctx := ctx, size := size, key := key
    versions := #v[CaskVersion.mk 0 false false, CaskVersion.mk 0 false false], frames := frames, flipped := false }

/-- A slot whose frames the reservation has is granted under the least number that is free (R356). -/
theorem caskHostEff_grants {owner ctx size : Nat} {fs : List Nat} {d' : Dev} (hgood : AdminGood d h true)
    (howner : owner < 2 ^ 24) (hpartner : reservedId owner = false) (hctx : ctx < 1024) (hsize : size ≠ 0)
    (hnumber : leastUnused d.casks 0 < 65536) (hframes : d.takeCask (2 * pagesOf size) = some (fs, d')) :
    caskHostEff h owner ctx size d = Dev.completePay { d'.drew with
      casks := tset d'.casks (leastUnused d'.casks 0)
        (CaskSlot.granted owner ctx size (BitVec.ofNat 32 (Config.freeNat d'.free)) fs) } h 0
      (BitVec.ofNat 32 (leastUnused d'.casks 0)) (leBytes 4 (BitVec.ofNat 32 (Config.freeNat d'.free)).toNat) := by
  have hfields : ¬ (2 ^ 24 ≤ owner ∨ reservedId owner = true ∨ 1024 ≤ ctx ∨ size = 0) := by
    simpa [hpartner, hctx, hsize] using howner
  refine (Dev.adminCmd_of_adminGood hgood _).trans ((if_neg hfields).trans ((if_neg (Nat.not_le.mpr hnumber)).trans ?_))
  simp only [hframes, CaskSlot.granted]

/-- A slot that is held gives its frames back to the reservation (R356). -/
theorem caskReleaseEff_releases {slot : Nat} {k : CaskSlot} (hgood : AdminGood d h true)
    (hslot : tget? d.casks slot = some k) :
    caskReleaseEff h slot d = (Dev.giveCask { d with casks := tdel d.casks slot } k.frames).complete h 0 0 := by
  refine (Dev.adminCmd_of_adminGood hgood _).trans ?_
  simp only [hslot]

end Slot

/-! ## Drains -/

section Drain

variable {x off : Nat} {bs : List Byte} (hat : (d.ctx x).resil.drainAt = some off) (hstaging : d.stagingBytes x = some bs)

include hat hstaging

/-- While bytes are left a drain sends the next 64 KiB of them (R355). -/
theorem caskDrainEff_sends (hleft : off < bs.length) :
    caskDrainEff x d = ((d.modResil x (fun r => { r with
      drainAt := some (off + min 65536 (bs.length - off)), capture := .draining })).sendCask x 0 1 off
        (min 65536 (bs.length - off)) ((bs.drop off).take (min 65536 (bs.length - off)))).count (resilKey 0x808)
          (min 65536 (bs.length - off)) := by
  simp only [caskDrainEff, hat, hstaging]
  exact (if_neg (Nat.not_lt.mpr hleft.le)).trans (if_neg hleft.ne)

/-- After the last byte comes the SEAL (R355). -/
theorem caskDrainEff_seals (hdone : off = bs.length) :
    caskDrainEff x d = (d.modResil x (fun r => { r with
      drainAt := some (bs.length + 1), capture := .draining })).sendCask x 1 1 0 256 (bs.take 256) := by
  simp only [caskDrainEff, hat, hstaging]
  exact (if_neg (Nat.not_lt.mpr hdone.le)).trans (if_pos hdone)

end Drain

/-! ## The end of a racking -/

section Racking

variable {x : Nat} {k : Rack} (hracking : (d.ctx x).resil.racking = some k)

include hracking

/-- A racking whose every range has come, and whose every send is answered, is done (R369). -/
theorem rackCompleteEff_ends (hrestored : k.restored = true)
    (hcame : ∀ e ∈ k.plan.zipIdx, e.1.kind = 4 → k.got e.2 e.1 = true)
    (hanswered : (d.ctx x).msgs.any (·.rack) = false) :
    rackCompleteEff x d = (((((d.atGyle x k.body.gyle k.seeds k.proof).modResil x (fun r =>
      { r with rack := .done, racking := none })).count (resilKey 0x840) 1).complete k.cmd 0 0).noteEvent
        (islMgmt 0)).schedule := by
  have hall : k.plan.zipIdx.all (fun e => e.1.kind != 4 || k.got e.2 e.1) = true := by
    rw [List.all_eq_true]
    intro e he
    by_cases hkind : e.1.kind = 4
    · simp [hcame e he hkind]
    · simp [hkind]
  simp only [rackCompleteEff, hracking]
  exact if_neg (by simp [hrestored, hall, hanswered])

/-- A racking that is not answered in time fails (R371). -/
theorem rackTimeoutEff_fails :
    rackTimeoutEff x d = ((d.modCtx x (fun c =>
      { c with msgs := c.msgs.filter (fun m => !m.rack && !m.reads) })).ctxEvent x Code.rackTimeout
        (BitVec.ofNat 32 k.body.epoch.toNat) []).rackFailed x k Code.rackTimeout := by
  simp only [rackTimeoutEff, hracking]

end Racking

/-! ## The statements -/

/-- Settles O41: each command reaches its effect through the checks of its header, and each case is that effect's
equation. -/
theorem resilienceCommandsComplete : Obligations.ResilienceCommandsComplete := by
  intro p d h
  refine ⟨fun b hgood hform hstaging => ?block,
    fun owner ctx size fs d' hgood howner hpartner hctx hsize hnumber hframes => ?granted,
    fun slot k hgood hslot => ?released, fun gyle hgood hrange hquiet => ?scheduled,
    fun addr size bs hgood hstaging hsealed hversion hcapture hfits => ?exported,
    fun source version expected addr hostFail hgood hsource hversion hwaiting hracking => ?restored,
    fun b ownFail sendFail hgood hreserved hsource hentries hgyle hshards hracking hwaiting => ?racking⟩
  case block =>
    intro new freed charged hquota
    have htakes := resilSetEff_takes hgood hform hstaging hquota
    exact ⟨fun hruns => onCmd_of_eff (htakes.trans (congrArg (Dev.complete · h 0 0) (if_pos hruns))),
      fun hidle => onCmd_of_eff
        (htakes.trans (congrArg (Dev.complete · h 0 0) (if_neg (Bool.eq_false_iff.mp hidle))))⟩
  case granted => exact onCmd_of_eff (caskHostEff_grants hgood howner hpartner hctx hsize hnumber hframes)
  case released => exact onCmd_of_eff (caskReleaseEff_releases hgood hslot)
  case scheduled => exact onCmd_of_eff (caskScheduleEff_sets hgood hrange hquiet)
  case exported => exact onCmd_of_eff (ckptExportEff_writes hgood hstaging hsealed hversion hcapture hfits)
  case restored => exact onCmd_of_eff (restoreEff_begins hgood hsource hversion hwaiting hracking)
  case racking =>
    intro stopped hin
    exact onCmd_of_eff
      (rackBeginEff_begins hgood hreserved hsource hentries hgyle hshards hracking hwaiting hin)

/-- Settles O43: each event answers its effect, and each case is that effect's equation. -/
theorem caskEventsComplete : Obligations.CaskEventsComplete := by
  intro p d x
  refine ⟨fun off bs hat hstaging => ⟨fun hleft => ?piece, fun hdone => ?sealed⟩, fun hdrains => ?late,
    fun k hracking => ⟨fun hrestored hcame hanswered => ?ended, ?unanswered⟩⟩
  case piece => exact onDev_of_eff (caskDrainEff_sends hat hstaging hleft)
  case sealed => exact onDev_of_eff (caskDrainEff_seals hat hstaging hdone)
  case late => exact onDev_of_eff (if_pos hdrains)
  case ended => exact onDev_of_eff (rackCompleteEff_ends hracking hrestored hcame hanswered)
  case unanswered => exact onDev_of_eff (rackTimeoutEff_fails hracking)

end Sys2Proof.Machine

/-! # O45: crossings and clocks of islands

A command of a crossing names two islands; where both exist and the clocks of the sender run it answers its effect
(R377, R479). The effects have one equation per case of the statement (R381, R382, R385, R387, R389). -/

namespace Sys2Proof.Machine

open Sys2Proof.Claims

variable {d : Dev}

/-- A command of two islands that the device has, the clocks of the first running, answers its effect (R377, R479). -/
theorem onPair_of_there {p : List Instr} {f : Dev → Dev} {t : Dev} {src dst : Isl} (hsrc : There d src)
    (hdst : dst.nn.1 = 34 → dst.d.1 = 0) (heff : f d = t) : onPair ⟨p, d⟩ src dst f = .next ⟨p, t⟩ := by
  have hexists : ¬ (dst.nn.1 = 34 ∧ dst.d.1 ≠ 0) := fun ⟨hnn, hdie⟩ => hdie (hdst hnn)
  exact (if_neg hexists).trans (onNamed_of_there hsrc heff)

/-! ## Control events -/

section Crossing

variable {src dst : Nat}

/-- Over an open crossing a control event goes out, waits, or merges into one that waits (R381). -/
theorem crossingEventEff_of_open (hopen : d.crossOpen src dst = true) :
    crossingEventEff src dst d = if !(d.cross src dst).awaits then d.sendPulse src dst
      else if (d.cross src dst).pending then d.count (islKey src 0x810) 1
      else d.setCross src dst { d.cross src dst with pending := true } :=
  if_neg (by simp [hopen])

/-- A bad group of a die-to-die link is recorded, and crosses once it is retried (R387, R389). -/
theorem crossingTransferEff_retries (hopen : d.crossOpen src dst = true) (hdies : src / 256 ≠ dst / 256) :
    crossingTransferEff src dst true d = (d.linkRetry src dst).hop src dst := by
  have hbad : d.badTransfer src dst = d.linkRetry src dst := if_pos hdies
  simp [crossingTransferEff, hopen, hbad]

/-! ## Lost crossings -/

/-- Both directions of a crossing as the notice of src leaves them at its neighbour dst (R382). -/
def Dev.noticed (d : Dev) (src dst : Nat) : Dev :=
  (((d.receive dst (d.seqOf src)).flushLinks src dst).setCross src dst Cross.flushed).setCross dst src Cross.flushed

section Joined

variable (hjoined : crossChannels src dst ≠ 0)

include hjoined

/-- A reset notice flushes its crossing; once start-up is over the crossing is lost with it (R382). -/
theorem resetNoticeEff_flushes :
    resetNoticeEff src dst d = if d.sec.devState == .booting then d.noticed src dst
      else (d.noticed src dst).lostCrossing dst src :=
  if_neg hjoined

/-- A crossing whose acknowledgement does not come is lost (R382). -/
theorem crossingTimeoutEff_loses : crossingTimeoutEff src dst d = d.lostCrossing src dst := if_neg hjoined

end Joined

end Crossing

/-! ## Clocks -/

section Clock

variable {isl : Nat}

/-- An island takes a frequency of its range (R378). -/
theorem frequencyChangeEff_changes {mhz : Nat} (hrange : d.freqGood isl mhz = true) :
    frequencyChangeEff isl mhz d = d.setIsland isl { d.island isl with freq := mhz } :=
  if_pos hrange

/-- A droop stretches the clock of an island that runs (R385). -/
theorem droopStartEff_stretches (hruns : (d.island isl).run = .run) (hsteady : (d.island isl).stretching = false) :
    droopStartEff isl d =
      (d.setIsland isl { d.island isl with stretching := true }).count (islKey isl 0x818) 1 :=
  if_neg (by simp [hruns, hsteady])

/-- A droop that ends is counted with the cycles that it took (R385). -/
theorem droopEndEff_ends {n : Nat} (hstretched : (d.island isl).stretching = true) :
    droopEndEff isl n d =
      (d.setIsland isl { d.island isl with stretching := false }).count (islKey isl 0x820) n :=
  if_neg (by simp [hstretched])

end Clock

/-! ## The statement -/

/-- Settles O45: each command answers its effect, and each case is that effect's equation. -/
theorem crossingsAndClocksComplete : Obligations.CrossingsAndClocksComplete := by
  intro p d a hthere
  refine ⟨fun b hexists => ⟨fun hopen hfree => ?sent, fun hopen hawaits hnone => ?waits,
      fun hopen hawaits hpending => ?merges, fun hjoined hbooting => ?starting, fun hjoined hready => ?lost,
      fun hopen hdies => ?retried, fun hjoined => ?timedOut⟩,
    fun mhz hrange => ?frequency, fun hruns hsteady => ?droops, fun n hstretched => ?droopOver⟩
  case sent =>
    exact onPair_of_there hthere hexists ((crossingEventEff_of_open hopen).trans (if_pos (by simp [hfree])))
  case waits =>
    exact onPair_of_there hthere hexists ((crossingEventEff_of_open hopen).trans
      ((if_neg (by simp [hawaits])).trans (if_neg (by simp [hnone]))))
  case merges =>
    exact onPair_of_there hthere hexists ((crossingEventEff_of_open hopen).trans
      ((if_neg (by simp [hawaits])).trans (if_pos hpending)))
  case starting =>
    exact onPair_of_there hthere hexists ((resetNoticeEff_flushes hjoined).trans (if_pos (by simp [hbooting])))
  case lost =>
    exact onPair_of_there hthere hexists ((resetNoticeEff_flushes hjoined).trans (if_neg (by simp [hready])))
  case retried => exact onPair_of_there hthere hexists (crossingTransferEff_retries hopen hdies)
  case timedOut => exact onPair_of_there hthere hexists (crossingTimeoutEff_loses hjoined)
  case frequency => exact onNamed_of_there hthere (frequencyChangeEff_changes hrange)
  case droops => exact onNamed_of_there hthere (droopStartEff_stretches hruns hsteady)
  case droopOver => exact onNamed_of_there hthere (droopEndEff_ends hstretched)

end Sys2Proof.Machine

/-! # O46: register writes

A write of the host reaches a word by its window; the words whose writes are commands of their own have an equation
each: where the host is up and the block reached, what the block does, and at once what the mirror shows (R395, R397,
R442, R445, R450, Table 6.10). -/

namespace Sys2Proof.Machine

open Sys2Proof.Claims

variable {d : Dev}

/-- An effect at a block that host writes reach (R445). -/
theorem Dev.atBlock_of_up {isl : Nat} (hblock : d.blockUp isl = true) (f : Dev → Dev) :
    d.atBlock isl f = f (d.toBlock isl) :=
  if_pos hblock

/-- A block that host writes do not reach takes none (R445). -/
theorem Dev.atBlock_of_down {isl : Nat} (hblock : d.blockUp isl = false) (f : Dev → Dev) : d.atBlock isl f = d :=
  if_neg (Bool.eq_false_iff.mp hblock)

/-- Whether a path is open follows from its crossings alone. -/
theorem Dev.pathOpen_congr {t : Dev} (hcross : ∀ a b, t.crossOpen a b = d.crossOpen a b) (way : List Nat) :
    t.pathOpen way = d.pathOpen way := by
  induction way with
  | nil => rfl
  | cons a r ih =>
    cases r with
    | nil => rfl
    | cons b r => simp only [Dev.pathOpen, hcross, ih]

/-- The mirror has no part in what a host write reaches. -/
theorem Dev.blockUp_setMirror (d : Dev) (key : Nat) (v : W32) (isl : Nat) :
    (d.setMirror key v).blockUp isl = d.blockUp isl :=
  congrArg (d.islandUp isl && ·) (Dev.pathOpen_congr (d := d) (t := d.setMirror key v) (fun _ _ => rfl) _)

section Up

variable (hup : d.hostUp = true)

include hup

/-! ## Words -/

section Word

variable {fn offset key : Nat} {v : W64} (hkey : windowKey fn offset = some key)

include hkey

/-- A write of 4 bytes changes its word (R395). -/
theorem registerWriteEff_word (haligned : offset % 4 = 0) :
    registerWriteEff fn offset 4 v d = d.writeWord fn key (v.setWidth 32) := by
  simp [registerWriteEff, hup, haligned, hkey]

/-- A write of 8 bytes changes two words, the lower first (R395). -/
theorem registerWriteEff_words (haligned : offset % 8 = 0) :
    registerWriteEff fn offset 8 v d =
      (d.writeWord fn key (v.setWidth 32)).writeWord fn (key + 4) ((v >>> 32).setWidth 32) := by
  simp [registerWriteEff, hup, haligned, hkey]

end Word

/-! ## Error bits and generations -/

section Page

variable {base : Nat} {pg : PageAt} {v : W32} (hbase : base % 0x1000 = 0) (hpage : pageOfKey base = some pg)

include hbase hpage

/-- The bits written as 1 go from the mirror at once, and from a block that the write reaches as it clears them
(R442). -/
theorem errStatusClearEff_clears {r : RegRow} (hrow : regRow (base + 0x18) = some r) :
    errStatusClearEff (base + 0x18) v d =
      (d.setMirror (base + 0x18) (d.mirrored (base + 0x18) &&& ~~~(v &&& BitVec.ofNat 32 r.w1c))).atBlock pg.island
        (fun d => d.errClear base (v &&& BitVec.ofNat 32 r.w1c).toNat) := by
  have hpageBase : (base + 0x18) / 0x1000 * 0x1000 = base := by omega
  have hword : ¬ ((base + 0x18) % 0x1000 ≠ 0x18 ∨ d.hostUp = false) := by simp [hup]; omega
  simp only [errStatusClearEff, hpageBase, hrow, hpage, if_neg hword]

/-- A write of STAGE_GEN opens a generation at the block (R450). -/
theorem stageGenWriteEff_opens (hkind : pg.kind ≠ .vfCtl) (hblock : d.blockUp pg.island = true) :
    stageGenWriteEff (base + 0x30) v d = (d.toBlock pg.island).openGen base (v.toNat % 65536) := by
  have hpageBase : (base + 0x30) / 0x1000 * 0x1000 = base := by omega
  have hword : (base + 0x30) % 0x1000 = 0x30 ∧ pg.kind ≠ .vfCtl ∧ d.hostUp = true := ⟨by omega, hkind, hup⟩
  simp only [stageGenWriteEff, hpageBase, hpage, if_pos hword, Dev.atBlock_of_up hblock]

end Page

/-! ## Cell tables and probes -/

section Core

variable {core : Nat} {v : W32} (hblock : d.blockUp (islOfCore core) = true)

include hblock

section Window

variable (hsteady : bitAt (d.rnat (coreKey core 12 0 + 0x40)) 31 = false)

include hsteady

/-- A write of WIN_DATA[3] without an open stage is refused and counted (R450, Table 6.10). -/
theorem winDataWriteEff_refused (hclosed : (d.toBlock (islOfCore core)).stageOpen (coreKey core 12 0) = false) :
    winDataWriteEff core v d = (d.toBlock (islOfCore core)).count (applyKey 0x818) 1 := by
  simp [winDataWriteEff, hup, hblock, hsteady, hclosed]

/-- The cell table entry that WIN_SEL selects, as the four words of WIN_DATA make it (Table 6.10). -/
def Dev.winEntry (d : Dev) (core sel : Nat) (v : W32) : StagedEntry :=
  { page := coreKey core 12 0, table := bitsOf sel 5 4, cell := if bitsOf sel 5 4 = 2 then 0 else sel % 16
    index := bitsOf sel 11 6
    value := v ++ d.rget (coreKey core 12 0 + 0x4C) ++ d.rget (coreKey core 12 0 + 0x48)
      ++ d.rget (coreKey core 12 0 + 0x44) }

/-- The device once an entry is staged in place of one staged before for its place, WIN_DATA[3] being v. -/
def Dev.entryStaged (d : Dev) (core : Nat) (v : W32) (e : StagedEntry) : Dev :=
  let d1 := (d.rset (coreKey core 12 0 + 0x50) v).setMirror (coreKey core 12 0 + 0x50) v
  { d1 with apply := { d1.apply with staged := d1.apply.staged.filter (fun o =>
      !(o.page == e.page && o.table == e.table && o.cell == e.cell && o.index == e.index)) ++ [e] } }

/-- A write of WIN_DATA[3] on a page that has staged values already stages the entry (R450, Table 6.10). -/
theorem winDataWriteEff_stages (hopen : (d.toBlock (islOfCore core)).stageOpen (coreKey core 12 0) = true)
    (hstaged : ((d.toBlock (islOfCore core)).entryStaged core v
      ((d.toBlock (islOfCore core)).winEntry core (d.rnat (coreKey core 12 0 + 0x40)) v)).pageState
        (coreKey core 12 0) = 1) :
    winDataWriteEff core v d = (d.toBlock (islOfCore core)).entryStaged core v
      ((d.toBlock (islOfCore core)).winEntry core (d.rnat (coreKey core 12 0 + 0x40)) v) := by
  have hreached : ¬ (!d.hostUp || !d.blockUp (islOfCore core)) = true := by simp [hup, hblock]
  refine (if_neg hreached).trans ((if_neg (Bool.eq_false_iff.mp hsteady)).trans ((if_pos hopen).trans ?_))
  exact if_pos hstaged

end Window

/-- A select reaches the mirror and its block, with the bits that the register has (R448). -/
theorem probeSelectEff_selects {test : Bool} {key : Nat} {mask : W32}
    (hkey : (if test then coreKey core 14 0x110 else coreKey core 12 0x100) = key)
    (hmask : (if test then 0x00FFFFF3 else 0x00000FFF) = mask) :
    probeSelectEff core test v d =
      ((d.setMirror key (v &&& mask)).toBlock (islOfCore core)).rset key (v &&& mask) := by
  subst hkey hmask
  exact (if_neg (by simp [hup])).trans (Dev.atBlock_of_up ((d.blockUp_setMirror _ _ _).trans hblock) _)

end Core

end Up

/-- An island whose updates reach the mirror has its clocks (R396, R479). -/
theorem Dev.clocked_of_updates {isl : Nat} (hupdates : d.updates isl = true) : Clocked d isl := by
  simp only [Dev.updates, Dev.islandUp, Bool.and_eq_true, Bool.not_eq_true'] at hupdates
  exact hupdates.1.1.2

/-- An island whose clocks run answers its effect (R479). -/
theorem onIsland_of_clocked {p : List Instr} {isl : Nat} {f : Dev → Dev} {t : Dev} (hclocked : Clocked d isl)
    (heff : f d = t) : onIsland ⟨p, d⟩ isl f = .next ⟨p, t⟩ :=
  (if_neg (Bool.eq_false_iff.mp hclocked)).trans (onDev_of_eff heff)

/-- Settles O46: each write reaches its effect, and each case is that effect's equation. -/
theorem registerWritesComplete : Obligations.RegisterWritesComplete := by
  intro p d hup
  refine ⟨fun fn offset key v hkey => ⟨fun haligned => ?word, fun haligned => ?words⟩,
    fun base r pg v hbase hrow hpage => ⟨fun hblock => ?cleared, fun hblock => ?mirrorOnly⟩,
    fun base pg v hbase hpage hkind hblock => ?generation,
    fun core hblock => ⟨fun v hclosed hsteady => ?refused, fun v hopen hstate hsteady => ?staged,
      fun v => ?testSelect, fun v => ?cellSelect, fun hupdates => ?answer⟩⟩
  case word => exact onDev_of_eff (registerWriteEff_word hup hkey haligned)
  case words => exact onDev_of_eff (registerWriteEff_words hup hkey haligned)
  case cleared =>
    exact onDev_of_eff ((errStatusClearEff_clears hup hbase hpage hrow).trans
      (Dev.atBlock_of_up ((d.blockUp_setMirror _ _ _).trans hblock) _))
  case mirrorOnly =>
    exact onDev_of_eff ((errStatusClearEff_clears hup hbase hpage hrow).trans
      (Dev.atBlock_of_down ((d.blockUp_setMirror _ _ _).trans hblock) _))
  case generation => exact onDev_of_eff (stageGenWriteEff_opens hup hbase hpage hkind hblock)
  case refused => exact onDev_of_eff (winDataWriteEff_refused hup hblock hsteady hclosed)
  case staged =>
    intro base sel e d1 d2 hstaged
    exact onDev_of_eff (winDataWriteEff_stages hup hblock hsteady hopen hstaged)
  case testSelect => exact onDev_of_eff (probeSelectEff_selects hup hblock rfl rfl)
  case cellSelect => exact onDev_of_eff (probeSelectEff_selects hup hblock rfl rfl)
  case answer => exact onIsland_of_clocked (Dev.clocked_of_updates hupdates) (if_neg (by simp [hupdates]))

end Sys2Proof.Machine

/-! # O48: doorbells, command fetch, entries and interrupts

A doorbell names a queue and an index inside it; a fetch and a post take the next entry of a ring, the one from the
host's memory, the other from what waits for it (R399 to R403). -/

namespace Sys2Proof.Machine

open Sys2Proof.Claims

variable {d : Dev}

section Up

variable (hup : d.hostUp = true)

include hup

/-! ## Doorbells -/

section Doorbell

variable {fn q x index : Nat} {ctx : Option CtxId} (hindex : index < (d.queue q).entries)

include hindex

/-- A new tail that does not pass the head moves the tail of its submission queue (R400). -/
theorem sqTailEff_moves (hqueue : d.doorbellQueue fn ctx (adminSq fn) ctxSq = some (q, x))
    (hroom : ringSteps (d.queue q).entries (d.queue q).tail index
      ≤ ringSteps (d.queue q).entries (d.queue q).tail ((d.queue q).head + (d.queue q).entries - 1)) :
    sqTailEff fn ctx index d = (d.setQueue q { d.queue q with tail := index }).count (hostifKey 0x818) 1 := by
  simp only [sqTailEff, hqueue]
  exact (if_neg (by simp [hup])).trans (if_neg (not_or_intro (Nat.not_le.mpr hindex) (Nat.not_lt.mpr hroom)))

/-- A new head inside its queue moves the head (R400). -/
theorem Dev.headBell_moves :
    d.headBell fn q x index = (d.setQueue q { d.queue q with head := index }).count (hostifKey 0x818) 1 :=
  (if_neg (by simp [hup])).trans (if_neg (Nat.not_le.mpr hindex))

/-- A doorbell moves the head of its completion queue (R400). -/
theorem cqHeadEff_moves (hqueue : d.doorbellQueue fn ctx (adminCq fn) ctxCq = some (q, x)) :
    cqHeadEff fn ctx index d = (d.setQueue q { d.queue q with head := index }).count (hostifKey 0x818) 1 := by
  simp only [cqHeadEff, hqueue]
  exact Dev.headBell_moves hup hindex

end Doorbell

/-- A doorbell moves the head of a function's event queue (R400). -/
theorem eqHeadEff_moves {fn index : Nat} (hfn : fn ≤ 64) (hindex : index < (d.queue (eventQ fn)).entries) :
    eqHeadEff fn index d =
      (d.setQueue (eventQ fn) { d.queue (eventQ fn) with head := index }).count (hostifKey 0x818) 1 :=
  (if_pos hfn).trans (Dev.headBell_moves hup hindex)

/-! ## Command fetch -/

/-- The device once the command at the head of a queue, of the bytes given, has started (R401). -/
def Dev.fetched (d : Dev) (q : Nat) (entry : List Byte) : Dev :=
  let head := ((d.queue q).head + 1) % (d.queue q).entries
  let d1 := d.setQueue q { d.queue q with head := head }
  { d1 with host := { d1.host with
    started := d1.host.started ++ [{ queue := q, id := BitVec.ofNat 32 (leNat ((entry.drop 4).take 4))
                                     opcode := BitVec.ofNat 8 (leNat ((entry.drop 0).take 1)), sqHead := head }] } }

/-- The next command of a function's admin queue that passes its checks, without a fence, is fetched and starts (R401,
R404). -/
theorem commandFetchEff_starts {fn : Nat} {entry : List Byte} (hfn : fn ≤ 64)
    (hhost : (d.queue (adminSq fn)).inT1 = false) (hmade : (d.queue (adminSq fn)).entries ≠ 0)
    (hfilled : (d.queue (adminSq fn)).head ≠ (d.queue (adminSq fn)).tail) (hsize : entry.length = 64)
    (hunfenced : bitAt (leNat ((entry.drop 1).take 1)) 0 = false)
    (hpasses : d.fetchStatus (d.queueFn (adminSq fn)) none entry = 0) :
    commandFetchEff fn none entry d = d.fetched (adminSq fn) entry := by
  have hqueue : d.doorbellQueue fn none (adminSq fn) ctxSq = some (adminSq fn, 0xFFFF) := if_pos hfn
  have hadmin : adminSq fn < 256 := by unfold adminSq; omega
  simp only [commandFetchEff, Dev.fetched, hqueue, hhost, hadmin, hunfenced, hpasses, hup, hsize, if_true,
    Bool.false_eq_true, if_false]
  exact if_neg (by simp [hmade, hfilled])

/-! ## Entries -/

/-- The queue once an entry is written at its tail, others still waiting (R402). -/
def Queue.posted (k : Queue) (rest : List Entry) : Queue :=
  { k with
    waiting := rest, tail := (k.tail + 1) % k.entries
    phase := if (k.tail + 1) % k.entries = 0 then !k.phase else k.phase, since := k.since + 1 }

/-- The oldest entry that waits is written into the next free slot of a queue in host memory, and raises no vector
below the coalescing count (R402, R403). -/
theorem completionPostEff_posts {q : Nat} {e : Entry} {rest : List Entry} (hmade : (d.queue q).entries ≠ 0)
    (hroom : ((d.queue q).tail + 1) % (d.queue q).entries ≠ (d.queue q).head) (hhost : (d.queue q).inT1 = false)
    (hwaiting : (d.queue q).waiting = e :: rest) (hcompletions : isEventQ q = false)
    (hcoalesced : (d.queue q).since + 1 < (d.queue q).coalCount) :
    completionPostEff q d = ((d.setQueue q { d.queue q with waiting := rest }).hostWrite
      ((d.queue q).base + (d.queue q).tail * 64) (e.bytes (d.queue q).phase false)).setQueue q
        ((d.queue q).posted rest) := by
  have hnext : d.nextEntry? q = some (e, d.setQueue q { d.queue q with waiting := rest }) := by
    simp only [Dev.nextEntry?, hwaiting]
  have hready : ¬ (!d.hostUp || (d.queue q).entries == 0
      || ((d.queue q).tail + 1) % (d.queue q).entries == (d.queue q).head) = true := by
    simp [hup, hmade, hroom]
  refine (if_neg hready).trans ?_
  simp only [hnext, Dev.queue_setQueue, Queue.posted, hhost, hcompletions, Bool.false_eq_true, if_false]
  exact if_neg (Nat.not_le.mpr hcoalesced)

end Up

/-- Settles O48: each command answers its effect, and each case is that effect's equation. -/
theorem hostQueuesComplete : Obligations.HostQueuesComplete := by
  intro p d hup
  refine ⟨fun fn ctx index q x hqueue hindex hroom => ?tail, fun fn ctx index q x hqueue hindex => ?head,
    fun fn index hfn hindex => ?eventHead,
    fun fn entry hfn hhost hmade hfilled hsize hunfenced hpasses => ?fetched,
    fun q e rest hmade hroom hhost hwaiting hcompletions hcoalesced => ?posted, fun q hsince => ?timeout⟩
  case tail => exact onDev_of_eff (sqTailEff_moves hup hindex hqueue hroom)
  case head => exact onDev_of_eff (cqHeadEff_moves hup hindex hqueue)
  case eventHead => exact onDev_of_eff (eqHeadEff_moves hup hfn hindex)
  case fetched =>
    exact onDev_of_eff (commandFetchEff_starts hup hfn hhost hmade hfilled hsize hunfenced hpasses)
  case posted =>
    exact onDev_of_eff (completionPostEff_posts hup hmade hroom hhost hwaiting hcompletions hcoalesced)
  case timeout => exact onDev_of_eff (if_neg hsince)

end Sys2Proof.Machine

/-! # O49: queues, host ranges and copies

Each command that passes its checks makes, removes or begins what it names; a copy goes on piece by piece (R398, R399,
R405 to R408). -/

namespace Sys2Proof.Machine

open Sys2Proof.Claims

variable {d : Dev}

/-! ## Queues and host ranges -/

section Admin

variable {h : CmdHdr} (hgood : AdminGood d h false)

include hgood

/-- A queue in host memory is made as its command says (R399). -/
theorem queueCreateEff_creates {ctx kind base entries vector coalCount coalUs : Nat}
    (hctx : d.queueCtxGood h.fn ctx kind = true) (hkind : kind ≤ 2) (hbase : base % 0x1000 = 0) (hleast : 16 ≤ entries)
    (hmost : entries ≤ 65536) (hpower : 2 ^ Nat.log2 entries = entries)
    (hvector : vector < (if h.fn = 0 then 2048 else 32)) (hus : coalUs ≤ 1000) :
    queueCreateEff h ctx kind 0 base entries vector coalCount coalUs d
      = (d.setQueue (queueNumber h.fn ctx kind) { Queue.none_ with
          base := base, entries := entries, inT1 := false, vector := vector, coalCount := coalCount, coalUs := coalUs
          waiting := (d.queue (queueNumber h.fn ctx kind)).waiting }).complete h 0 0 := by
  refine (Dev.adminCmd_of_adminGood hgood _).trans ((if_neg (by simp [hctx])).trans (if_neg ?_))
  simpa [hbase, hpower] using ⟨hkind, hleast, hmost, hvector, hus⟩

/-- A queue that holds no command and whose commands are all answered is deleted (R399). -/
theorem queueDeleteEff_deletes {ctx kind : Nat} (hkind : kind ≤ 2) (hctx : d.queueCtxGood h.fn ctx kind = true)
    (hempty : (d.queue (queueNumber h.fn ctx kind)).head = (d.queue (queueNumber h.fn ctx kind)).tail)
    (hanswered : ∀ r ∈ d.host.started, r.queue ≠ queueNumber h.fn ctx kind) :
    queueDeleteEff h ctx kind d = (d.setQueue (queueNumber h.fn ctx kind)
      { Queue.none_ with waiting := (d.queue (queueNumber h.fn ctx kind)).waiting }).complete h 0 0 := by
  refine (Dev.adminCmd_of_adminGood hgood _).trans
    ((if_neg (Nat.not_lt.mpr hkind)).trans ((if_neg (by simp [hctx])).trans (if_neg ?_)))
  rintro ⟨-, hfilled | hrunning⟩
  · exact hfilled hempty
  · exact not_any_of_forall (fun r hr => by simpa using hanswered r hr) hrunning

/-- A host range that meets no other of its function is registered under the next number (R405). -/
theorem hostRegisterEff_registers {addr size : Nat} (haddr : addr % 0x200000 = 0) (hsize : size % 0x200000 = 0)
    (hsome : size ≠ 0) (hend : addr + size ≤ 2 ^ 64)
    (happart : ∀ e ∈ d.host.ranges, e.2.fn = h.fn → meets (addr, size) (e.2.base, e.2.size) = false) :
    hostRegisterEff h addr size d = ({ d with host := { d.host with
      ranges := tset d.host.ranges d.host.nextRange { fn := h.fn, base := addr, size := size }
      nextRange := d.host.nextRange + 1 } } : Dev).complete h 0 (BitVec.ofNat 32 d.host.nextRange) := by
  refine (Dev.adminCmd_of_adminGood hgood _).trans (if_neg ?_)
  rintro (h1 | h2 | h3 | h4 | hclash)
  · exact h1 haddr
  · exact h2 hsize
  · exact hsome h3
  · exact Nat.not_lt.mpr hend h4
  · refine not_any_of_forall (fun e he => ?_) hclash
    by_cases hfn : e.2.fn = h.fn
    · simp [happart e he hfn]
    · simp [hfn]

/-- A host range that nothing uses is unregistered (R405). -/
theorem hostUnregisterEff_unregisters {range : Nat} {r : HostRange} (hthere : d.rangeOf h.fn range = some r)
    (hidle : d.rangeBusy range r = false) :
    hostUnregisterEff h range d =
      ({ d with host := { d.host with ranges := tdel d.host.ranges range } } : Dev).complete h 0 0 := by
  refine (Dev.adminCmd_of_adminGood hgood _).trans ?_
  simp only [hthere]
  exact if_neg (by simp [hidle])

end Admin

/-! ## Copies -/

/-- A copy whose ranges pass begins with all its pieces left (R406, R407). -/
theorem copyEff_begins {h : CmdHdr} {src dst bytes flags : Nat} (hgood : LiveGood d h) (hflags : flags < 4)
    (hwords : bytes % 4 = 0) (hleast : 4 ≤ bytes) (hmost : bytes ≤ 2 ^ 40) (hsrc : src % 4 = 0) (hdst : dst % 4 = 0)
    (hfrom : bitAt flags 0 = false → d.inRange h.fn src bytes = true)
    (hto : bitAt flags 1 = false → d.inRange h.fn dst bytes = true) :
    copyEff h src dst bytes flags d = { d with host := { d.host with
      copies := tset d.host.copies d.host.nextCopy
        { hdr := h, src := src, dst := dst, bytes := bytes, srcCtx := bitAt flags 0, dstCtx := bitAt flags 1
          left := (List.range ((bytes + 0xFFFFFF) / 0x1000000)).map (· * 0x1000000) }
      nextCopy := d.host.nextCopy + 1 } } := by
  have hform : ¬ (4 ≤ flags ∨ bytes % 4 ≠ 0 ∨ bytes < 4 ∨ 2 ^ 40 < bytes ∨ src % 4 ≠ 0 ∨ dst % 4 ≠ 0) := by omega
  have hranges : ¬ ((!bitAt flags 0 && !(d.inRange h.fn src bytes))
      || (!bitAt flags 1 && !(d.inRange h.fn dst bytes))) = true := by
    simpa using ⟨hfrom, hto⟩
  exact (Dev.liveCmd_of_liveGood hgood _).trans ((if_neg hform).trans (if_neg hranges))

section Piece

variable {n : Nat} {c : CopyRun} {data : List Byte} (u : ReadUpset)

/-- Where the piece of a copy that lands next begins (R407). -/
def Dev.pieceOff (d : Dev) (c : CopyRun) : Nat := c.left.getD (d.pieceIx c) 0

/-- The bytes of the piece of a copy that lands next: up to 16 MiB (R407). -/
def Dev.pieceLen (d : Dev) (c : CopyRun) : Nat := min 0x1000000 (c.bytes - d.pieceOff c)

/-- The device once the next piece of a copy to context memory has landed. -/
def Dev.pieceLanded (d : Dev) (c : CopyRun) (data : List Byte) : Dev :=
  (d.drew.hostTrip.hostPut c.hdr.ctx data (piecesOf (c.dst + d.pieceOff c) (d.pieceLen c))).count (hostifKey 0x830)
    (d.pieceLen c)

variable (hthere : tget? d.host.copies n = some c) (hsrc : c.srcCtx = false) (hdst : c.dstCtx = true)
  (hdata : data.length = d.pieceLen c)
  (hopen : d.hostMemOpen c.hdr.ctx (c.dst + d.pieceOff c) (d.pieceLen c) = true)
  (hmapped : (d.ctx c.hdr.ctx).rangeStatus (c.dst + d.pieceOff c) (d.pieceLen c) true = 0)

include hthere hsrc hdst hdata hopen hmapped

/-- A piece lands in context memory; the copy goes on with the pieces left, or ends where none is (R407). -/
theorem copyPieceEff_eq :
    copyPieceEff n data false u d =
      if c.left.eraseIdx (d.pieceIx c) = [] then (d.pieceLanded c data).endCopy n c 0
      else { d.pieceLanded c data with host := { (d.pieceLanded c data).host with
        copies := tset (d.pieceLanded c data).host.copies n { c with left := c.left.eraseIdx (d.pieceIx c) } } } := by
  have hreach : d.copyOpen c (d.pieceOff c) (d.pieceLen c) = true := by simp [Dev.copyOpen, hsrc, hdst, hopen]
  unfold Dev.pieceLen Dev.pieceOff at hdata hmapped hreach
  simp only [copyPieceEff, hthere, hsrc, hdst, hdata, hmapped, hreach, Dev.pieceLanded, Dev.pieceLen, Dev.pieceOff,
    Bool.false_and, Bool.not_true, Bool.false_eq_true, ne_eq, not_true_eq_false, if_true, if_false]

end Piece

/-- A request of a copy that gets no completion is counted and fails the copy (R408). -/
theorem pcieCompletionTimeoutEff_fails {n : Nat} {c : CopyRun}
    (hthere : tget? ((d.count (hostifKey 0x838) 1).hostErr 2 0).host.copies n = some c) (hsrc : c.srcCtx = false) :
    pcieCompletionTimeoutEff (some n) d
      = ((d.count (hostifKey 0x838) 1).hostErr 2 0).endCopy n c Code.copyFault := by
  simp only [pcieCompletionTimeoutEff, hthere]
  exact if_neg (by simp [hsrc])

/-- Settles O49: each command answers its effect, and each case is that effect's equation. -/
theorem queueRangeAndCopyCommandsComplete : Obligations.QueueRangeAndCopyCommandsComplete := by
  refine ⟨fun p d h hgood =>
    ⟨fun ctx kind loc base entries vector count us hctx hkind hloc hbase hleast hmost hpower hvector hus => ?create,
      fun ctx kind hkind hctx hempty hanswered => ?delete, fun addr size haddr hsize hsome hend happart => ?register,
      fun range r hthere hidle => ?unregister⟩,
    fun p d => ⟨fun h src dst bytes flags hgood hflags hwords hleast hmost hsrc hdst hfrom hto => ?copy,
      fun n c data u hthere hsrc hdst => ?piece, rfl, fun n c hthere hsrc => ?failed⟩⟩
  case create =>
    subst hloc
    exact onCmd_of_eff (queueCreateEff_creates hgood hctx hkind hbase hleast hmost hpower hvector hus)
  case delete => exact onCmd_of_eff (queueDeleteEff_deletes hgood hkind hctx hempty hanswered)
  case register => exact onCmd_of_eff (hostRegisterEff_registers hgood haddr hsize hsome hend happart)
  case unregister => exact onCmd_of_eff (hostUnregisterEff_unregisters hgood hthere hidle)
  case copy => exact onCmd_of_eff (copyEff_begins hgood hflags hwords hleast hmost hsrc hdst hfrom hto)
  case piece =>
    intro i off len hdata hopen hmapped d1
    have hlands := copyPieceEff_eq u hthere hsrc hdst hdata hopen hmapped
    exact ⟨fun hlast => onDev_of_eff (hlands.trans (if_pos hlast)),
      fun hmore => onDev_of_eff (hlands.trans (if_neg hmore))⟩
  case failed => exact onDev_of_eff (pcieCompletionTimeoutEff_fails hthere hsrc)

end Sys2Proof.Machine

/-! # O50: functions, the sideband and the secure protocols

A function's reset, power state and virtual functions change what they name; a message that its side may send is
answered (R391, R393, R409 to R413, R428 to R430, R436). -/

namespace Sys2Proof.Machine

open Sys2Proof.Claims

variable {d : Dev}

/-! ## Functions -/

/-- The reset of a virtual function resets that function alone (R393). -/
theorem functionLevelResetEff_resets {fn : Nat} (hvirtual : 0 < fn) (hfn : fn ≤ 64) :
    functionLevelResetEff fn d = d.resetFn fn :=
  (if_neg (Nat.pos_iff_ne_zero.mp hvirtual)).trans (if_pos hfn)

/-- A function none of whose contexts holds a core goes to D3hot (R391). -/
theorem d3hotRequestEff_sleeps {fn : Nat} (hfn : fn ≤ 64) (hawake : d.host.d3hot.contains fn = false)
    (hidle : ∀ e ∈ d.ctxs, e.2.fn = fn → e.2.state ≠ .running ∧ e.2.state ≠ .resident ∧ e.2.state ≠ .blocked) :
    d3hotRequestEff fn d = { d with host := { d.host with d3hot := fn :: d.host.d3hot } } := by
  refine if_neg ?_
  simp only [hawake, Bool.or_false, Bool.or_eq_true, decide_eq_true_eq, not_or, Nat.not_lt]
  refine ⟨not_any_of_forall fun e he => ?_, hfn⟩
  by_cases hmine : e.2.fn = fn
  · obtain ⟨hrunning, hresident, hblocked⟩ := hidle e he hmine
    simp [hmine, hrunning, hresident, hblocked]
  · simp [hmine]

/-- More virtual functions than before are made with none reset (R391). -/
theorem vfEnableWriteEff_makes {n : Nat} (hmore : d.host.vfs ≤ n) (hmost : n ≤ 64) :
    vfEnableWriteEff true n d = { d with host := { d.host with vfEnable := true, vfs := n } } := by
  have hn : min 64 n = n := Nat.min_eq_right hmost
  have hnone : (List.range 65).filter (fun f => decide (n < f) && decide (f ≤ d.host.vfs)) = [] := by
    refine List.filter_eq_nil_iff.mpr fun f _ => ?_
    simpa using fun hlt : n < f => lt_of_le_of_lt hmore hlt
  simp only [vfEnableWriteEff, if_true, hn, hnone, List.foldl_nil]

/-! ## The sideband -/

section Sideband

variable (hside : d.sideband = true)

include hside

/-- A sideband message reaches its protocol. -/
theorem Dev.sideband_not_off {f : Dev} : (if (!d.sideband) = true then d else f) = f :=
  if_neg (by simp [hside])

/-- Measurements are answered with the blocks asked for, once a version is agreed (R429). -/
theorem spdmRequestEff_measures {ix : Nat} (hversion : d.host.spdmVersion = true) (hix : ix ≤ 6 ∨ ix = 0xFF) :
    spdmRequestEff false (.getMeasurements ix) d
      = d.replyWith (Config.measurementReply d.free 6 (d.measurementRecord ix)) :=
  (if_neg (by simp [hside])).trans (if_pos (by simpa [hversion] using hix))

/-- A power cap written over PLDM acts as one written by the host, and is answered (R411). -/
theorem pldmPowerCapWriteEff_caps {w : Nat} (hmay : d.sidebandWrites = true) (hleast : 1200 ≤ w) (hmost : w ≤ 3000) :
    pldmPowerCapWriteEff w d = Dev.reply { d.rsetNat (powerKey 0 0x100) w with
      mirror := tset d.mirror (powerKey 0 0x100) (BitVec.ofNat 32 w) } :=
  (Dev.sideband_not_off hside).trans ((if_pos hmay).trans (congrArg Dev.reply (if_pos ⟨hleast, hmost⟩)))

/-- A version request is answered and restarts the key exchange (R428). -/
theorem spdmRequestEff_versions :
    spdmRequestEff false .getVersion d
      = ({ d with host := { d.host with spdmVersion := true, spdmKex := false } } : Dev).reply :=
  if_neg (by simp [hside])

/-- The finish of a key exchange makes a secure session and counts it (R428). -/
theorem spdmRequestEff_finishes (hkex : d.host.spdmKex = true) :
    spdmRequestEff false .finish d = (({ d with host := { d.host with
      spdmVersion := true, spdmKex := false, spdmSession := true } } : Dev).count (secKey 0x828) 1).reply :=
  (if_neg (by simp [hside])).trans (if_pos hkex)

/-- The bus gives the target its address while it has none (R409). -/
theorem dynamicAddressAssignmentEff_gives {b : Bool} {a : BitVec 7} (hi3c : d.host.smbus = false)
    (hnone : d.host.i3cAddr = none) :
    dynamicAddressAssignmentEff b a d = { d with host := { d.host with i3cAddr := some a } } :=
  if_pos (by simp [hside, hi3c, hnone])

end Sideband

/-- A key is programmed over a secure session in the place of the one before it (R430). -/
theorem ideKmRequestEff_programs {stream : Fin 9} {ks : Fin 2} {rx : Bool} {key : BitVec 256} (hup : d.hostUp = true)
    (hsession : d.host.spdmSession = true) :
    ideKmRequestEff (.keyProg stream ks rx key) true d = ({ d with host := { d.host with
      ideKeys := (stream.1, ks.1, rx, key) :: d.host.ideKeys.filter (fun k =>
        !(k.1 == stream.1 && k.2.1 == ks.1 && k.2.2.1 == rx)) } } : Dev).reply :=
  if_neg (by simp [hup, hsession])

/-- Settles O50: each command answers its effect, and each case is that effect's equation. -/
theorem functionsAndSidebandComplete : Obligations.FunctionsAndSidebandComplete := by
  intro p d
  refine ⟨fun fn hvirtual hfn => ?reset, fun fn hfn hawake hidle => ?sleep,
    fun rate width hup hleast hmost hwidth => ?trained, fun n hmore hmost => ?functions,
    fun hside => ⟨fun eid => ?endpoint, fun s n => ?sensor, fun ix hversion hix => ?measurements,
      fun w hmay hleast hmost => ?cap, ?version, fun hkex => ?finish, fun b a hi3c hnone => ?address⟩,
    fun stream ks rx key hup hsession => ?key, fun hpower => ?idcode⟩
  case reset => exact onDev_of_eff (functionLevelResetEff_resets hvirtual hfn)
  case sleep => exact onDev_of_eff (d3hotRequestEff_sleeps hfn hawake hidle)
  case trained => exact onDev_of_eff (if_pos ⟨hup, hleast, hmost, hwidth⟩)
  case functions => exact onDev_of_eff (vfEnableWriteEff_makes hmore hmost)
  case endpoint => exact onDev_of_eff (Dev.sideband_not_off hside)
  case sensor => exact onDev_of_eff (Dev.sideband_not_off hside)
  case measurements => exact onDev_of_eff (spdmRequestEff_measures hside hversion hix)
  case cap => exact onDev_of_eff (pldmPowerCapWriteEff_caps hside hmay hleast hmost)
  case version => exact onDev_of_eff (spdmRequestEff_versions hside)
  case finish => exact onDev_of_eff (spdmRequestEff_finishes hside hkex)
  case address => exact onDev_of_eff (dynamicAddressAssignmentEff_gives hside hi3c hnone)
  case key => exact onDev_of_eff (ideKmRequestEff_programs hup hsession)
  case idcode => exact onDev_of_eff (if_neg (by simp [hpower]))

end Sys2Proof.Machine

/-! # O51: the pins

PWR_OK and SYS_RST_N begin start-up; PERST# resets the host island alone. A function-level reset, which the falling
PERST# applies, kills contexts and so reaches far into the device, but not the fuses, the flash or a driven pin: that is
`OffChip` (R391, R420, R425). -/

namespace Sys2Proof.Machine

/-- What the commands of a running device leave as it is in a device t made out of d: fuses, flash, and every pin but
the count of in-band interrupts. -/
structure OffChip (d t : Dev) : Prop where
  fuses : t.fuses = d.fuses
  flash : t.flash = d.flash
  pins : t.pins = { d.pins with ibi := t.pins.ibi }

namespace OffChip

variable {d₀ d t : Dev}

theorem refl : OffChip d d := ⟨rfl, rfl, rfl⟩

/-- A device with the fuses, the flash and the pins of one that keeps what is off the chip. -/
theorem frame (h : OffChip d₀ d) (fuses : t.fuses = d.fuses := by rfl) (flash : t.flash = d.flash := by rfl)
    (pins : t.pins = d.pins := by rfl) : OffChip d₀ t where
  fuses := fuses.trans h.fuses
  flash := flash.trans h.flash
  pins := by rw [pins]; exact h.pins

theorem ite {p : Prop} [Decidable p] {a b : Dev} (ha : OffChip d₀ a) (hb : OffChip d₀ b) :
    OffChip d₀ (if p then a else b) := by
  split
  · exact ha
  · exact hb

theorem foldl {α : Type} {f : Dev → α → Dev} {l : List α} (h : OffChip d₀ d)
    (hf : ∀ t x, OffChip d₀ t → OffChip d₀ (f t x)) : OffChip d₀ (l.foldl f d) := by
  induction l generalizing d with
  | nil => exact h
  | cons x l ih => exact ih (hf _ x h)

/-! ## Counters, errors and completions -/

theorem alert (h : OffChip d₀ d) : OffChip d₀ d.alert where
  fuses := h.fuses
  flash := h.flash
  pins := congrArg (fun p : Pins => { p with ibi := d.pins.ibi + 1 }) h.pins

theorem count {key n : Nat} (h : OffChip d₀ d) : OffChip d₀ (d.count key n) := .ite h h.frame

theorem rsetNat {key v : Nat} (h : OffChip d₀ d) : OffChip d₀ (d.rsetNat key v) := h.frame

theorem noteEvent {isl : Nat} (h : OffChip d₀ d) : OffChip d₀ (d.noteEvent isl) := h.frame

theorem devEvent {status : W16} {info : W32} {bs : List Byte} (h : OffChip d₀ d) :
    OffChip d₀ (d.devEvent status info bs) := h.frame

theorem errFire {base bit first : Nat} (h : OffChip d₀ d) : OffChip d₀ (d.errFire base bit first) :=
  have hstatus := h.rsetNat.rsetNat
  have hnoted := (OffChip.ite hstatus hstatus.rsetNat).noteEvent.rsetNat
  .ite hnoted hnoted.devEvent.alert

theorem complete {hd : CmdHdr} {status : W16} {info : W32} (h : OffChip d₀ d) :
    OffChip d₀ (d.complete hd status info) := .ite h.frame h.frame

theorem completeOpt {hd : Option CmdHdr} {status : W16} {info : W32} (h : OffChip d₀ d) :
    OffChip d₀ (d.completeOpt hd status info) := by
  cases hd with
  | none => exact h
  | some hd => exact h.complete

/-! ## Messages and votes -/

theorem modCtx {x : Nat} {f : Ctx → Ctx} (h : OffChip d₀ d) : OffChip d₀ (d.modCtx x f) := h.frame

theorem modGyle {x : Nat} {f : Gyle → Gyle} (h : OffChip d₀ d) : OffChip d₀ (d.modGyle x f) := h.frame

theorem drew (h : OffChip d₀ d) : OffChip d₀ d.drew := h.frame

theorem sendMsg {p : Nat} {hd : MsgHdr} {data : List Byte} (h : OffChip d₀ d) : OffChip d₀ (d.sendMsg p hd data) :=
  .ite h (.ite (.ite h.frame h.frame) h.frame)

theorem sendTo {hd : MsgHdr} {data : List Byte} (h : OffChip d₀ d) : OffChip d₀ (d.sendTo hd data) := by
  unfold Dev.sendTo
  split
  · exact h.drew.sendMsg
  · exact h

theorem decideHere {x job : Nat} {k : Decision} (h : OffChip d₀ d) : OffChip d₀ (d.decideHere x job k) :=
  .ite h.noteEvent.count (.ite h.noteEvent.count.errFire h.noteEvent.modGyle)

theorem sendDecision {c : Nat} {to_ : Nat × Nat} {k : Decision} (h : OffChip d₀ d) :
    OffChip d₀ (d.sendDecision c to_ k) := .ite h.decideHere h.sendTo

theorem coordDecide {c : Nat} {commit : Bool} {cause origin : Nat} {status : W16} (h : OffChip d₀ d) :
    OffChip d₀ (d.coordDecide c commit cause origin status) :=
  h.noteEvent.modGyle.foldl fun _ _ h => h.sendDecision

theorem expireVotes {c : Nat} (h : OffChip d₀ d) : OffChip d₀ (d.expireVotes c) := h.drew.count.coordDecide

theorem countVote {c : Nat} {v : EarlyVote} (h : OffChip d₀ d) : OffChip d₀ (d.countVote c v) :=
  have hcounted := h.count.count
  .ite h (.ite hcounted.coordDecide (.ite hcounted.coordDecide (.ite hcounted.modGyle.coordDecide hcounted.modGyle)))

theorem recordVote {c : Nat} {who : Nat × Nat} {b : Ballot} {attempt : Nat} (h : OffChip d₀ d) :
    OffChip d₀ (d.recordVote c who b attempt) := by
  have hdue {p : Prop} [Decidable p] :
      OffChip d₀ (if p then (d.noteEvent (islMgmt 0)).expireVotes c else d.noteEvent (islMgmt 0)) :=
    .ite h.noteEvent.expireVotes h.noteEvent
  unfold Dev.recordVote
  dsimp only
  split
  · exact hdue.sendDecision
  · exact .ite hdue (.ite hdue.modGyle (.ite hdue.count hdue.countVote))

theorem sendVote {x : Nat} (h : OffChip d₀ d) : OffChip d₀ (d.sendVote x) :=
  .ite h.decideHere (.ite (.ite h.recordVote h.sendTo) h.frame)

theorem castVote {x : Nat} (h : OffChip d₀ d) : OffChip d₀ (d.castVote x) := .ite h.noteEvent.modGyle.sendVote h

theorem abortCause {x cause : Nat} {status : W16} {source : W32} (h : OffChip d₀ d) :
    OffChip d₀ (d.abortCause x cause status source) := .ite (.ite h.noteEvent h.noteEvent.modGyle) h

/-! ## The end of a context -/

theorem freeFrame {f : Nat} (h : OffChip d₀ d) : OffChip d₀ (d.freeFrame f) := by
  unfold Dev.freeFrame Dev.setPool
  dsimp only
  split
  · exact h.frame
  · exact h

theorem freeObj {num : Nat} {o : Obj} (h : OffChip d₀ d) : OffChip d₀ (d.freeObj num o) :=
  (h.foldl (f := Dev.freeFrame) fun _ _ h => h.freeFrame).frame

theorem dropHold {x num : Nat} {o : Obj} (h : OffChip d₀ d) : OffChip d₀ (d.dropHold x num o) := h.frame

theorem releaseHold {x num : Nat} {o : Obj} {cmd : Option CmdHdr} (h : OffChip d₀ d) :
    OffChip d₀ (d.releaseHold x num o cmd) :=
  have hdropped := h.dropHold.completeOpt
  .ite hdropped.completeOpt (.ite hdropped.freeObj.completeOpt hdropped.frame)

theorem releaseAll {x : Nat} (h : OffChip d₀ d) : OffChip d₀ (d.releaseAll x) := by
  refine h.modCtx.foldl fun _ _ h => ?_
  split
  · exact h.releaseHold
  · exact h

theorem endCmds {x : Nat} {status : W16} (h : OffChip d₀ d) : OffChip d₀ (d.endCmds x status) :=
  have hcmds := h.completeOpt.completeOpt.completeOpt
  ((hcmds.foldl fun _ _ h => h.completeOpt).foldl fun _ _ h => h.complete).frame

theorem endSlots {x : Nat} (h : OffChip d₀ d) : OffChip d₀ (d.endSlots x) := h.foldl fun _ _ h => h.frame

theorem dropTraffic {x : Nat} (h : OffChip d₀ d) : OffChip d₀ (d.dropTraffic x) := h.frame

theorem setState {x : Nat} {s : CtxState} (h : OffChip d₀ d) : OffChip d₀ (d.setState x s) := h.frame

theorem endCtx {x : Nat} {status : W16} {next : CtxState} (h : OffChip d₀ d) : OffChip d₀ (d.endCtx x status next) :=
  have hclosed : OffChip d₀ ((d.endCmds x status).closeWindowsOf x) := h.endCmds.frame
  hclosed.releaseAll.endSlots.dropTraffic.modCtx.setState

theorem kill {x : Nat} {cmd : Option CmdHdr} (h : OffChip d₀ d) : OffChip d₀ (d.kill x cmd) :=
  .ite h (.count (.modCtx (.endCtx (.ite h.abortCause h.abortCause.castVote))))

theorem withHost {x : HostIf} (h : OffChip d₀ d) : OffChip d₀ { d with host := x } := h.frame

theorem setQueue {q : Nat} {x : Queue} (h : OffChip d₀ d) : OffChip d₀ (d.setQueue q x) := h.frame

theorem resetFn {fn : Nat} (h : OffChip d₀ d) : OffChip d₀ (d.resetFn fn) :=
  have hkilled {l : List Nat} : OffChip d₀ (l.foldl (fun d x => d.kill x none) d) := h.foldl fun _ _ h => h.kill
  .ite hkilled.withHost.setQueue hkilled.withHost

theorem functionLevelReset {fn : Nat} (h : OffChip d₀ d) : OffChip d₀ (functionLevelResetEff fn d) :=
  .ite (h.foldl (f := Dev.resetFn) fun _ _ h => h.resetFn).withHost (.ite h.resetFn h)

end OffChip

open Sys2Proof.Claims

variable {d : Dev}

/-! ## PWR_OK and SYS_RST_N -/

/-- Start-up begins at step 1 once both pins are high (R420). -/
theorem Dev.startUp_begins (hpower : d.pins.pwrOk = true) (hreset : d.pins.rstHigh = true) (hstep : d.sec.bootStep = 0) :
    d.startUp = { d with sec := { d.sec with bootStep := 1 } } :=
  if_pos (by simp [hpower, hreset, hstep])

/-- The rising SYS_RST_N samples SB_MODE and begins start-up (R420). -/
theorem sysRstNDeassertEff_starts {sb : Bool} (hlow : d.pins.rstHigh = false) (hpower : d.pins.pwrOk = true)
    (hstep : d.sec.bootStep = 0) :
    sysRstNDeassertEff sb d = { d with
      pins := { d.pins with rstHigh := true }, host := { d.host with smbus := sb }
      sec := { d.sec with bootStep := 1 } } :=
  (if_neg (by simp [hlow])).trans (Dev.startUp_begins hpower rfl hstep)

/-- The rising PWR_OK begins start-up where SYS_RST_N is high (R420). -/
theorem pwrOkAssertEff_starts (hlow : d.pins.pwrOk = false) (hreset : d.pins.rstHigh = true)
    (hstep : d.sec.bootStep = 0) :
    pwrOkAssertEff d = { d with pins := { d.pins with pwrOk := true }, sec := { d.sec with bootStep := 1 } } :=
  (if_neg (by simp [hlow])).trans (Dev.startUp_begins rfl hreset hstep)

/-! ## PERST# -/

/-- A device whose host island is held in reset: none of the host's ranges, copies and commands, no mirror and no
latched counter is left (R425). -/
structure HostHeld (t : Dev) : Prop where
  perst : t.host.perst = true
  island : t.island islHost = IslSt.reset
  mirror : t.mirror = []
  latch : t.latch = []
  ranges : t.host.ranges = []
  copies : t.host.copies = []
  started : t.host.started = []

/-- The device once its host island is held in reset: the state of the sideband and the events that wait for the
physical function stay (R425). -/
def Dev.holdHost (d : Dev) : Dev :=
  { d with
    host := { HostIf.reset with
      perst := true, smbus := d.host.smbus, eid := d.host.eid, i3cAddr := d.host.i3cAddr, replies := d.host.replies
      queues := [(eventQ 0, { Queue.none_ with waiting := (d.queue (eventQ 0)).waiting })] }
    mirror := [], latch := [], blk := d.blk.filter (fun e => !(hostPageKey e.1))
    crossings := d.crossings.filter (fun e => e.1 / 1024 != islHost && e.1 % 1024 != islHost)
    islands := tset d.islands islHost IslSt.reset }

theorem Dev.holdHost_hostHeld : HostHeld d.holdHost :=
  ⟨rfl, Laws.tget_tset_self _ _ _ _, rfl, rfl, rfl, rfl, rfl⟩

theorem OffChip.holdHost {d₀ d : Dev} (h : OffChip d₀ d) : OffChip d₀ d.holdHost := h.frame

/-- The falling PERST# of a device that has left step 1 applies a function-level reset of the physical function and
holds the host island (R425). -/
theorem perstAssertEff_holds (hhigh : d.host.perst = false) (hstep : 1 < d.sec.bootStep) :
    perstAssertEff d = (functionLevelResetEff 0 d).holdHost := by
  unfold perstAssertEff
  rw [if_neg (by simp [hhigh]), if_neg (Nat.not_le.mpr hstep)]
  generalize functionLevelResetEff 0 d = t
  rfl

/-- The rising PERST# takes the host island out of reset and rebuilds the mirror (R391, R425). -/
theorem perstDeassertEff_runs (hlow : d.host.perst = true) (hstep : 1 < d.sec.bootStep)
    (hheld : (d.island islHost).run ≠ .run) :
    perstDeassertEff d = (({ d with host := { d.host with perst := false } } : Dev).bringUp [islHost]).mirrorAll := by
  have hstopped : ¬ ((d.island islHost).run == .run) = true := by simpa using hheld
  exact (if_neg (by simp [hlow])).trans ((if_neg (Nat.not_le.mpr hstep)).trans (if_neg hstopped))

/-- Settles O51: the two pins of start-up by their effects' equations, PERST# by what it holds and what is off the
chip. -/
theorem pinsComplete : Obligations.PinsComplete := by
  intro p d
  refine ⟨fun sb hlow hpower hstep => onDev_of_eff (sysRstNDeassertEff_starts hlow hpower hstep),
    fun hlow hreset hstep => onDev_of_eff (pwrOkAssertEff_starts hlow hreset hstep), fun hhigh hstep => ?falls,
    fun hlow hstep hheld => onDev_of_eff (perstDeassertEff_runs hlow hstep hheld)⟩
  case falls =>
    obtain ⟨hperst, hisland, hmirror, hlatch, hranges, hcopies, hstarted⟩ :=
      (functionLevelResetEff 0 d).holdHost_hostHeld
    obtain ⟨hfuses, hflash, hpins⟩ := (OffChip.functionLevelReset (fn := 0) (.refl (d := d))).holdHost
    exact ⟨_, onDev_of_eff (perstAssertEff_holds hhigh hstep), rfl, hperst, hisland, hmirror, hlatch, hranges, hcopies,
      hstarted, hfuses, hflash, hpins⟩

end Sys2Proof.Machine

/-! # O52: the steps of start-up

Each step of Table 15.6 acts when its turn has come, and where nothing fails it leaves the next step's turn (R420 to
R424). -/

namespace Sys2Proof.Machine

open Sys2Proof.Claims

variable {d : Dev}

/-! ## What the history leaves of the flash -/

theorem OffChip.coreService {d₀ d : Dev} {core : Nat} (h : OffChip d₀ d) : OffChip d₀ (d.coreService core) := by
  unfold Dev.coreService
  split
  · exact h.rsetNat.rsetNat
  · exact h.rsetNat.rsetNat
  · exact h.rsetNat

/-- Showing the service states of the pages writes registers alone. -/
theorem OffChip.showService {d₀ d : Dev} (h : OffChip d₀ d) : OffChip d₀ d.showService := by
  refine h.foldl fun t e h => ?_
  dsimp only
  split
  · exact h.coreService
  · exact .ite h.rsetNat.rsetNat h

/-- A write to the history or calibration region leaves the test packs (R336). -/
theorem Dev.toRegion_packs {f : Flash} (hf : f.packs = d.flash.packs) :
    (d.toRegion f).flash.packs = d.flash.packs := by
  unfold Dev.toRegion Dev.toFlash
  split
  · exact congrArg Flash.packs (OffChip.refl.errFire (d := d)).devEvent.flash
  · split
    · rfl
    · exact hf

theorem Dev.histWrite_packs : d.histWrite.flash.packs = d.flash.packs := Dev.toRegion_packs rfl

theorem Dev.trayReport_packs {bits : Nat} : (d.trayReport bits).flash.packs = d.flash.packs := by
  unfold Dev.trayReport
  dsimp only
  split
  · rfl
  · exact Dev.histWrite_packs

/-- Reading the history leaves the test packs. -/
theorem Dev.readHistory_packs {a b : Bool} : (d.readHistory a b).flash.packs = d.flash.packs := by
  unfold Dev.readHistory
  dsimp only
  split
  · exact Dev.trayReport_packs
  · refine congrArg Flash.packs (OffChip.showService (.ite ?_ ?_)).flash
    · exact OffChip.refl.frame
    · exact OffChip.refl.frame

theorem Dev.readOverlay_flash : d.readOverlay.flash = d.flash := by
  unfold Dev.readOverlay
  dsimp only
  split <;> rfl

/-! ## The steps -/

/-- Islands that come up leave start-up's own state (R382). -/
theorem Dev.bringUp_sec {l : List Nat} : (d.bringUp l).sec = d.sec := by
  have hfold : ∀ t : Dev, (l.foldl (fun d i => d.modIsland i (fun s => { s with run := .run, freq := islNominal i })) t).sec
      = t.sec := by
    induction l with
    | nil => exact fun _ => rfl
    | cons i l ih => exact fun t => ih _
  exact hfold d

section Step

variable {n : Nat} (hstep : d.atStep n = true)

include hstep

/-- A step whose turn has come acts. -/
theorem Dev.atStep_not_early {t : Dev} : (if (!d.atStep n) = true then d else t) = t :=
  if_neg (by simp [hstep])

/-- Start-up has not ended while a step's turn has come. -/
theorem Dev.atStep_booting : d.sec.devState = .booting := by
  simp only [Dev.atStep, Bool.and_eq_true, beq_iff_eq] at hstep
  exact hstep.2

end Step

/-- The device once start-up has found whether the flash takes writes and has read history and overlay (R421). -/
def Dev.historyRead (d : Dev) (a b stuck : Bool) : Dev :=
  (({ d with flash := { d.flash with stuck := stuck } } : Dev).readHistory a b).readOverlay

theorem Dev.historyRead_packs {a b stuck : Bool} : (d.historyRead a b stuck).flash.packs = d.flash.packs :=
  (congrArg Flash.packs Dev.readOverlay_flash).trans Dev.readHistory_packs

/-- The device once bank A runs, with no bad test pack (R421). -/
def Dev.bankRuns (d : Dev) : Dev :=
  let d1 : Dev := { d with sec := { d.sec with packBad := false, bankB := false } }
  ((d1.rset (devctlKey 0x10C) d1.fwVersion).rset (dieKey 0 0x10C)
    (d1.rset (devctlKey 0x10C) d1.fwVersion).fwVersion).nextStep

/-- Step 2: the active bank A passes and no test pack stands in the slot that the directory names (R421). -/
theorem firmwareVerifyEff_runs {a b stuck : Bool} (hstep : d.atStep 2 = true) (hbank : d.dirNow.bankB = false)
    (hgood : d.bankStatus 0 = 0) (hpack : d.flash.packs.toList.getD d.dirNow.testSlot none = none) :
    firmwareVerifyEff a b stuck d = (d.historyRead a b stuck).bankRuns := by
  have hnone : (d.historyRead a b stuck).flash.packs.toList.getD d.dirNow.testSlot none = none := by
    rw [Dev.historyRead_packs]
    exact hpack
  have hdir : ({ d with flash := { d.flash with stuck := stuck } } : Dev).dirNow = d.dirNow := rfl
  have hactive : ({ d with flash := { d.flash with stuck := stuck } } : Dev).bankStatus 0 = 0 := hgood
  refine (Dev.atStep_not_early hstep).trans ?_
  unfold Dev.historyRead at hnone ⊢
  simp only [hdir, hbank, hactive, hnone, if_true, Bool.false_eq_true, if_false]
  rfl

/-- Step 3: the supervisors of dies 1 to 3 start (R422). -/
theorem supervisorStartEff_starts (hstep : d.atStep 3 = true) :
    supervisorStartEff none d = ([1, 2, 3].foldl (fun (d : Dev) n =>
      ((d.bringUp [islMgmt n]).setDieState n 1).rset (dieKey n 0x10C) d.fwVersion) d).nextStep :=
  (Dev.atStep_not_early hstep).trans rfl

/-- Step 5: every stack trains with no row replaced, and the ports that are up (R423). -/
theorem hbmTrainingEff_trains {ports : List PortId} (hstep : d.atStep 5 = true) :
    hbmTrainingEff [] [] ports none d =
      let up := d.bringUp (allIslands.filter (fun i => islKind i == 3 || islKind i == 4))
      let d1 : Dev := { up with sec := { up.sec with stuckIsland := none } }
      ((List.range 12).foldl (fun (d : Dev) n => d.trainPort (ports.any (fun q => q.1 == n)) n)
        ((List.range 16).foldl (fun (d : Dev) n => d.trainStack false 0 n) d1)).nextStep := by
  refine (Dev.atStep_not_early hstep).trans (if_neg ?_)
  simp only [Dev.startIslands, Dev.bringUp_sec, Dev.atStep_booting hstep]
  decide

/-- Step 6: core and hub islands run, and the repair maps are staged (R424). -/
theorem repairApplyEff_stages (hstep : d.atStep 6 = true) (hnone : d.sec.stuckIsland = none) :
    repairApplyEff d =
      let d1 := [0, 1, 2, 3].foldl Dev.setFreq (d.bringUp (allIslands.filter (fun i => decide (islKind i ≤ 2))))
      let d2 := d1.overlayCores.foldl Dev.retireCore d1
      ([0, 1, 2, 3].foldl (fun d n => d.mergeCores n ((List.range 128).map (· + 128 * n))) d2).nextStep := by
  refine (Dev.atStep_not_early hstep).trans ?_
  simp only [hnone, Dev.startIslands]
  refine if_neg ?_
  simp only [Dev.bringUp_sec, Dev.atStep_booting hstep]
  decide

/-- Step 7: once no apply runs or waits, every core in service is tested (R424). -/
theorem selfTestEff_tests (hstep : d.atStep 7 = true) (hrun : d.apply.run = none) (hqueue : d.apply.queue = []) :
    selfTestEff [] d = ((List.range 512).foldl (fun (d : Dev) core =>
      if d.retired Unit.core core then d
      else d.drew.drew.testResults core { fails := [], misses := [], cycles := Config.freeNat d.free
                                          injections := Config.freeNat (d.free + 1) }) d).nextStep :=
  if_neg (by simp [hstep, hrun, hqueue])

/-- Settles O52: each step answers its effect, and each case is that effect's equation. -/
theorem startUpStepsComplete : Obligations.StartUpStepsComplete := by
  intro p d
  refine ⟨fun nonce hstep => ?fuses, fun a b stuck hstep hbank hgood hpack => ?firmware, fun hstep => ?supervisors,
    fun hstep => ?links, fun ports hstep => ?hbm, fun hstep hnone => ?repair, fun hstep hrun hqueue => ?cores,
    fun hstep => ?identity⟩
  case fuses => exact onDev_of_eff ((Dev.atStep_not_early hstep).trans (if_neg Bool.false_ne_true))
  case firmware => exact onDev_of_eff (firmwareVerifyEff_runs hstep hbank hgood hpack)
  case supervisors => exact onDev_of_eff (supervisorStartEff_starts hstep)
  case links => exact onDev_of_eff (Dev.atStep_not_early hstep)
  case hbm => exact onDev_of_eff (hbmTrainingEff_trains hstep)
  case repair => exact onDev_of_eff (repairApplyEff_stages hstep hnone)
  case cores => exact onDev_of_eff (selfTestEff_tests hstep hrun hqueue)
  case identity => exact onDev_of_eff (Dev.atStep_not_early hstep)

end Sys2Proof.Machine

/-! # O53: lifecycle and firmware

A token that passes acts, any other is refused; the firmware operations and the class-3 blobs do what they say once
their checks pass (R417, R418, R434, R435, R437, R438, R440). -/

namespace Sys2Proof.Machine

open Sys2Proof.Claims

variable {d : Dev}

/-! ## Tokens -/

section Token

variable {token : Signed} {body : TokenBody} (hup : d.hostUp = true) (hready : d.sec.devState = .ready)

include hup hready

/-- A token that the host presents reaches a READY device. -/
theorem tokenPresentEff_checks :
    tokenPresentEff .tokenCtl token body d =
      if d.tokenGood token body then d.tokenActs token body.perms.toNat
      else (d.count (secKey 0x820) 1).errFire (secKey 0) 3 Code.tokenRefused.toNat :=
  if_neg (by simp [hup, hready])

/-- A good token acts (R434). -/
theorem tokenPresentEff_acts (hgood : d.tokenGood token body = true) :
    tokenPresentEff .tokenCtl token body d = d.tokenActs token body.perms.toNat :=
  (tokenPresentEff_checks hup hready).trans (if_pos hgood)

/-- Any other token is counted and refused (R434). -/
theorem tokenPresentEff_refuses (hbad : d.tokenGood token body = false) :
    tokenPresentEff .tokenCtl token body d
      = (d.count (secKey 0x820) 1).errFire (secKey 0) 3 Code.tokenRefused.toNat :=
  (tokenPresentEff_checks hup hready).trans (if_neg (Bool.eq_false_iff.mp hbad))

end Token

/-- The entry into DEBUG is complete once no context is left and every freed frame is zeroed (R435). -/
theorem debugEntryEff_enters (hentering : d.sec.entering = some 3) (hgone : d.liveCtxs = [])
    (hzeroed : ∀ q ∈ d.pool.toList, q.toZero = []) :
    debugEntryEff d = ({ d with sec := { d.sec with lifecycle := 3, entering := none } } : Dev).identify := by
  have hall : d.pool.toList.all (fun p => p.toZero.isEmpty) = true :=
    List.all_eq_true.mpr fun q hq => List.isEmpty_iff.mpr (hzeroed q hq)
  have hdone : ¬ (!(d.liveCtxs.isEmpty && d.pool.toList.all (fun p => p.toZero.isEmpty))) = true := by
    rw [hgone, hall]
    decide
  simp only [debugEntryEff, hentering]
  exact (if_neg hdone).trans (if_neg (by decide))

/-! ## Firmware -/

section Firmware

variable {h : CmdHdr} (hgood : FwGood d h)

include hgood

/-- A firmware operation that its device may take reaches its own effect (R437). -/
theorem Dev.fwCmd_of_fwGood {recovery : Bool} (f : Dev → Dev) : d.fwCmd h recovery f = f d := by
  obtain ⟨hready, hqueue, hfn, hidle⟩ := hgood
  simp [Dev.fwCmd, hready, hqueue, hfn, hidle]

/-- Whole pages inside the bank are written to the inactive bank (R437). -/
theorem fwUpdateWriteEff_writes {offset : Nat} {data : List Byte} (hoffset : offset % 0x1000 = 0)
    (hlength : data.length % 0x1000 = 0) (hend : offset + data.length ≤ 0x1000000) :
    fwUpdateWriteEff h offset data d = (d.bankWrite offset data).complete h 0 0 :=
  (Dev.fwCmd_of_fwGood hgood _).trans (if_neg (by simp [hoffset, hlength, hend]))

/-- The inactive bank that passes answers its rollback value (R437). -/
theorem fwUpdateVerifyEff_verifies {image : Signed} (hpasses : (d.bankVerify image).1 = 0) :
    fwUpdateVerifyEff h image d = (d.bankVerify image).2.complete h 0
      (BitVec.ofNat 32 ((d.flash.banks.get d.idleBank).getD image).rollback) := by
  refine (Dev.fwCmd_of_fwGood hgood _).trans ?_
  simp only [hpasses, if_true]

/-- A verified bank becomes the one of the next start-up (R437). -/
theorem fwUpdateActivateEff_activates (hverified : d.sec.verified = true) :
    fwUpdateActivateEff h d = d.bankActivate.complete h 0 0 :=
  (Dev.fwCmd_of_fwGood hgood _).trans (if_pos hverified)

/-- The running bank, where it is the active one, commits its rollback value (R437, R438). -/
theorem fwUpdateCommitEff_commits (hactive : d.dirNow.bankB = d.sec.bankB) (hown : d.sec.fallback = false) :
    fwUpdateCommitEff h d =
      (d.raiseRollback 0 (((d.runningImage).map (·.rollback)).getD 0)).complete h 0 0 :=
  (Dev.fwCmd_of_fwGood hgood _).trans (if_pos (by simp [hactive, hown]))

end Firmware

/-! ## Class-3 blobs -/

section Blob

variable {h : CmdHdr} {blob : Signed} (hpasses : d.checkSigned blob 3 false = 0)

include hpasses

/-- A class-3 blob that passes and names the device acts, and raises its class's counter (R418, R440). -/
theorem Dev.blobActs_of_passes (f : Dev → Dev) :
    d.blobActs h blob d.fuses.serial 0 f = ((f d).raiseRollback 3 blob.rollback).complete h 0 0 :=
  (if_neg (not_not_intro hpasses)).trans ((if_neg (not_not_intro rfl)).trans (if_neg (not_not_intro rfl)))

variable (hgood : FwGood d h)

include hgood

/-- A revocation signed by the other slot blows the fuse of its own (R418). -/
theorem revokeSlotEff_revokes {slot : Nat} (hother : blob.slot ≠ slot) (hvendor : slot < 2) :
    revokeSlotEff h blob d.fuses.serial slot d = ((({ d with fuses := { d.fuses with vendorRevoked :=
      (if slot = 0 then d.fuses.vendorRevoked.set 0 true else d.fuses.vendorRevoked.set 1 true) } } : Dev).raiseRollback
        3 blob.rollback).complete h 0 0) := by
  have hallowed : ¬ (blob.slot = slot ∨ 2 ≤ slot) := not_or_intro hother (Nat.not_le.mpr hvendor)
  refine (Dev.fwCmd_of_fwGood hgood _).trans ?_
  simp only [if_neg hallowed]
  exact Dev.blobActs_of_passes hpasses _

/-- An owner is enrolled in PRODUCTION where none is (R440). -/
theorem ownerEnrolEff_enrols {root : BitVec 512} (hproduction : d.sec.lifecycle = 2)
    (hnone : d.fuses.ownerValid = false) :
    ownerEnrolEff h blob d.fuses.serial root d = ((({ d with fuses := { d.fuses with
      ownerRoot := root, ownerValid := true } } : Dev).raiseRollback 3 blob.rollback).complete h 0 0) :=
  (Dev.fwCmd_of_fwGood hgood _).trans ((if_neg (not_not_intro hproduction)).trans
    ((if_neg (Bool.eq_false_iff.mp hnone)).trans (Dev.blobActs_of_passes hpasses _)))

end Blob

/-- Settles O53: each command answers its effect, and each case is that effect's equation. -/
theorem lifecycleAndFirmwareComplete : Obligations.LifecycleAndFirmwareComplete := by
  intro p d
  refine ⟨fun token body hup hready => ⟨fun hgood => ?token, fun hbad => ?badToken⟩,
    fun hentering hgone hzeroed => ?debug,
    fun h hgood => ⟨fun offset data hoffset hlength hend => ?write, fun image hpasses => ?verify,
      fun hverified => ?activate, fun hactive hown => ?commit, fun blob hslot hpasses => ?revokeFirst,
      fun blob hslot hpasses => ?revokeSecond, fun blob root hproduction hnone hpasses => ?enrol⟩⟩
  case token => exact onDev_of_eff (tokenPresentEff_acts hup hready hgood)
  case badToken => exact onDev_of_eff (tokenPresentEff_refuses hup hready hbad)
  case debug => exact onDev_of_eff (debugEntryEff_enters hentering hgone hzeroed)
  case write => exact onCmd_of_eff (fwUpdateWriteEff_writes hgood hoffset hlength hend)
  case verify => exact onCmd_of_eff (fwUpdateVerifyEff_verifies hgood hpasses)
  case activate => exact onCmd_of_eff (fwUpdateActivateEff_activates hgood hverified)
  case commit => exact onCmd_of_eff (fwUpdateCommitEff_commits hgood hactive hown)
  case revokeFirst =>
    exact onCmd_of_eff (revokeSlotEff_revokes hpasses hgood (slot := 0) (by simp [hslot]) (by decide))
  case revokeSecond =>
    exact onCmd_of_eff (revokeSlotEff_revokes hpasses hgood (slot := 1) (by simp [hslot]) (by decide))
  case enrol => exact onCmd_of_eff (ownerEnrolEff_enrols hpasses hgood hproduction hnone)

end Sys2Proof.Machine

/-! # O54: admission

The exchange of two devices goes on message by message: OFFER, ANSWER, PROOF and DONE, each once the message before it
has passed its checks (R431 to R433). -/

namespace Sys2Proof.Machine

open Sys2Proof.Claims

variable {d : Dev}

/-- A request of the host sends an OFFER where no exchange with the partner is under way (R431). -/
theorem admitReqEff_offers {q port : Nat} {encrypt : Bool} {nonce : BitVec 256} (hup : d.hostUp = true)
    (hblock : d.blockUp (islMgmt 0) = true) (hmay : d.mayAdmit = true) (hid : reservedId q = false) (hport : port < 12)
    (hnone : d.admission q = none) :
    let d1 := d.toBlock (islMgmt 0)
    let o := d1.ownData nonce Config.kemKey
    admitReqEff q port encrypt nonce d = (d1.drew.setAdmission q
      { port := port, initiator := true, encrypt := encrypt, own := some o.2, peer := none, peerEncrypt := false, priv := o.1
        proofGood := false, doneSeen := false, answered := false }).sendAdmit port q 0 (b2n encrypt)
          (AdmitData_bytes o.2) :=
  if_neg (by simp [hup, hblock, hmay, hid, hport, hnone])

section Message

variable {port q : Nat} {m : RxMsg} {a : Admission}

/-- An OFFER of a partner with which no exchange is under way is answered with an ANSWER and a PROOF, where the policy
lets it (R431, R432). -/
theorem offerEff_answers {o : AdmitData} {nonce : BitVec 256}
    (hhead : d.headAdmit port 0 (AdmitData_bytes o) = some m) (hmay : (d.popMsg port 0).mayAdmit = true)
    (hnone : (d.popMsg port 0).admission m.hdr.src.toNat = none)
    (hpolicy : bitAt ((d.popMsg port 0).rnat (secKey 0x144)) 0 = true)
    (hgood : (d.popMsg port 0).peerGood o m.encrypts = true) :
    let d1 := d.popMsg port 0
    let q := m.hdr.src.toNat
    let own := d1.ownData nonce (fun priv => Config.kemCipher priv o.kem)
    let a : Admission :=
      { port := port, initiator := false, encrypt := false, own := some own.2, peer := some o, peerEncrypt := m.encrypts, priv := own.1
        proofGood := false, doneSeen := false, answered := true }
    offerEff port o nonce d =
      ((d1.drew.setAdmission q a).sendAdmit port q 1 0 (AdmitData_bytes own.2)).sendProof q a := by
  simp only [offerEff, hhead, hnone]
  exact (if_neg (by simp [hmay, hpolicy])).trans (if_neg (by simp [hgood]))

/-- An ANSWER to an own OFFER whose records pass is followed by the own PROOF (R431). -/
theorem answerEff_proves {o : AdmitData} (hhead : d.headAdmit port 1 (AdmitData_bytes o) = some m)
    (hthere : (d.popMsg port 0).admission m.hdr.src.toNat = some a) (hmine : a.initiator = true) (hfirst : a.peer = none)
    (hport : a.port = port) (hmay : (d.popMsg port 0).mayAdmit = true)
    (hgood : (d.popMsg port 0).peerGood o m.encrypts = true) :
    let b := { a with peer := some o, peerEncrypt := m.encrypts, answered := true }
    answerEff port o d = ((d.popMsg port 0).setAdmission m.hdr.src.toNat b).sendProof m.hdr.src.toNat b := by
  simp only [answerEff, hhead, hthere]
  exact (if_neg (by simp [hmine, hfirst, hport, hmay])).trans (if_neg (by simp [hgood]))

section Proof

variable {o : AdmitData} {signature : List Byte} (hhead : d.headAdmit port 2 signature = some m)
  (hthere : (d.popMsg port 0).admission m.hdr.src.toNat = some a) (hpeer : a.peer = some o) (hport : a.port = port)
  (hfirst : a.proofGood = false) (hmay : (d.popMsg port 0).mayAdmit = true)

include hhead hthere hpeer hport hfirst hmay

/-- The first PROOF of a peer is checked against the keys that it has shown (R431). -/
theorem proofEff_checks :
    proofEff port signature d =
      if Config.hybridVerify (Config.aliasKeys o.aliasRecord) signature (ascii "ILAVO/ADMIT")
        ((d.popMsg port 0).transcript m.hdr.src.toNat a) then
        ((d.popMsg port 0).sendAdmit port m.hdr.src.toNat 3 0 (leBytes 2 0)).admitGo m.hdr.src.toNat
          { a with proofGood := true }
      else (d.popMsg port 0).admitRefuse port m.hdr.src.toNat := by
  simp only [proofEff, hhead, hthere, hpeer]
  exact if_neg (by simp [hport, hfirst, hmay])

end Proof

/-- A DONE of the peer on the port of the exchange carries it on or ends it, as its status says (R431). -/
theorem doneEff_goes {st : W16} (hhead : d.headAdmit port 3 (leBytes 2 st.toNat) = some m)
    (hthere : (d.popMsg port 0).admission m.hdr.src.toNat = some a) (hport : a.port = port)
    (hmay : (d.popMsg port 0).mayAdmit = true) :
    doneEff port st d =
      if st = 0 then
        if a.peer.isSome then (d.popMsg port 0).admitGo m.hdr.src.toNat { a with doneSeen := true } else d.popMsg port 0
      else (d.popMsg port 0).admitFails m.hdr.src.toNat Code.admitFailed := by
  simp only [doneEff, hhead, hthere]
  exact if_neg (by simp [hport, hmay])

end Message

/-- Settles O54: each command answers its effect, and each case is that effect's equation. -/
theorem admissionsComplete : Obligations.AdmissionsComplete := by
  intro p d
  refine ⟨fun q port encrypt nonce hup hblock hmay hid hport hnone => ?request, fun n o nonce m hhead => ?offer,
    fun n o m a hhead => ?answer, fun n sig o m a hhead => ?proof, fun n st m a hhead => ?done,
    fun q hthere => onDev_of_eff (if_pos hthere), fun q hup hblock => ?revoke⟩
  case request => exact onDev_of_eff (admitReqEff_offers hup hblock hmay hid hport hnone)
  case offer =>
    intro d1 q hmay hnone hpolicy hgood
    exact onDev_of_eff (offerEff_answers hhead hmay hnone hpolicy hgood)
  case answer =>
    intro d1 q hthere hmine hfirst hport hmay hgood
    exact onDev_of_eff (answerEff_proves hhead hthere hmine hfirst hport hmay hgood)
  case proof =>
    intro d1 q hthere hpeer hport hfirst hmay
    have hchecks := proofEff_checks hhead hthere hpeer hport hfirst hmay
    exact ⟨fun hverifies => onDev_of_eff (hchecks.trans (if_pos hverifies)),
      fun hfails => onDev_of_eff (hchecks.trans (if_neg (Bool.eq_false_iff.mp hfails)))⟩
  case done =>
    intro d1 q hthere hport hmay
    have hgoes := doneEff_goes hhead hthere hport hmay
    exact ⟨fun hgood hpeer => onDev_of_eff (hgoes.trans ((if_pos hgood).trans (if_pos hpeer))),
      fun hbad => onDev_of_eff (hgoes.trans (if_neg hbad))⟩
  case revoke => exact onDev_of_eff ((if_pos hup).trans (Dev.atBlock_of_up hblock _))

end Sys2Proof.Machine

/-! # O55: staged applies

An apply goes from its request through PREPARE, READY, SWAP and DONE, or ends by a revert; each message of it crosses
between the management island of die 0 and an island, and each step below is that of one message (R449 to R458, Table
16.14). -/

namespace Sys2Proof.Machine

open Sys2Proof.Claims

variable {d : Dev}

/-! ## Requests -/

section Request

variable {gen : Nat}

/-- A generation of the host that was never requested is discarded (R450). -/
theorem Dev.discardGen_discards (hsome : gen ≠ 0) (hhost : gen < 0x8000) (hidle : d.apply.run = none)
    (hunasked : ∀ q ∈ d.apply.queue, q.1 ≠ gen) :
    d.discardGen gen = ((d.pagesUnder gen).foldl Dev.clearPage d).closeGen gen := by
  have hqueue : ¬ d.apply.queue.any (fun q => q.1 == gen) = true :=
    not_any_of_forall fun q hq => by simpa using hunasked q hq
  simp only [Dev.discardGen, hidle, Bool.or_false]
  exact if_neg (not_or_intro hsome (not_or_intro (Nat.not_le.mpr hhost) hqueue))

/-- The next request that passes its checks runs, and its pages are under it (R452, R453). -/
theorem applyTakeEff_runs {who : Requester} {rest : List (Nat × Requester)} (hidle : d.apply.run = none)
    (hqueue : d.apply.queue = (gen, who) :: rest)
    (hpasses : ({ d with apply := { d.apply with queue := rest } } : Dev).applyCheck gen who = 0) :
    let d0 : Dev := { d with apply := { d.apply with queue := rest } }
    let d1 := (d0.pagesUnder gen).foldl (fun d p => (d.setPageState p 2).stageEvent p) d0
    let r : ApplyRun :=
      { gen := gen, who := who, phase := .prepare, islands := pageIslands (d0.pagesUnder gen), prepared := [], failing := []
        ready := [], swapped := [], done := [], pages := d0.pagesUnder gen, startCycle := d1.cycleOf (islMgmt 0) }
    applyTakeEff d = { d1 with apply := { d1.apply with run := some r } } := by
  intro d0 d1 r
  rw [applyTakeEff, hidle, hqueue]
  exact if_neg (not_not_intro hpasses)

end Request

/-! ## The messages of a running apply -/

section Run

variable {r : ApplyRun} {i : Nat} (hrun : d.apply.run = some r)

include hrun

section Prepare

variable (hphase : r.phase = .prepare)

include hphase

/-- An island of the apply that is prepared holds its streams (R454). -/
theorem applyPrepareEff_prepares (hout : d.routeOpen (islMgmt 0) i = true) (hmine : i ∈ r.islands)
    (hnew : i ∉ r.prepared) :
    applyPrepareEff i d = ((runCores r i 2).foldl (Dev.holdSlots · true) (d.carry (islMgmt 0) i)).setRun
      { r with prepared := r.prepared ++ [i] } := by
  simp only [applyPrepareEff, hrun]
  exact if_neg (by simp [hphase, hmine, hnew, hout])

/-- A prepared island at its safe point is READY, and the last READY commits (R453, R455, Table 16.10). -/
theorem applyReadyEff_readies (hback : d.routeOpen i (islMgmt 0) = true) (hprepared : i ∈ r.prepared)
    (hnew : i ∉ r.ready) (hdrains : i ∉ r.failing) (hsafe : d.safePoint r i = true) :
    let d1 := (runCores r i 12).foldl (fun d c => d.modCore c (fun k => { k with swapPending := true }))
      (d.carry i (islMgmt 0))
    applyReadyEff i d = if r.islands.all (r.ready ++ [i]).contains
      then d1.applyCommit { r with ready := r.ready ++ [i] } else d1.setRun { r with ready := r.ready ++ [i] } := by
  simp only [applyReadyEff, hrun]
  exact if_neg (by simp [hphase, hprepared, hnew, hdrains, hsafe, hback])

/-- A prepared cell island that has not drained in time is to send DRAIN_FAIL (R456). -/
theorem drainTimeoutEff_fails (hprepared : i ∈ r.prepared) (hnew : i ∉ r.ready) (hcells : runCores r i 12 ≠ [])
    (hunsafe : d.safePoint r i = false) :
    drainTimeoutEff i d = d.setRun { r with failing := r.failing ++ [i] } := by
  simp only [drainTimeoutEff, hrun]
  exact if_neg (by simp [hphase, hprepared, hnew, hcells, hunsafe])

/-- A DRAIN_FAIL reverts the apply (R456). -/
theorem drainFailEff_reverts (hback : d.routeOpen i (islMgmt 0) = true) (hfailing : i ∈ r.failing) :
    drainFailEff i d = ((d.carry i (islMgmt 0)).count (applyKey 0x810) 1).applyRevert r.gen Code.stageDrainTimeout
      (some i) := by
  simp only [drainFailEff, hrun]
  exact if_neg (by simp [hphase, hfailing, hback])

/-- An apply that is not READY in time is reverted (R456). -/
theorem applyTimeoutEff_reverts :
    applyTimeoutEff d = d.applyRevert r.gen Code.applyTimeout (r.islands.find? (fun i => !(r.ready.contains i))) := by
  simp only [applyTimeoutEff, hrun]
  exact if_neg (by simp [hphase])

end Prepare

/-- An island swaps its staged fields into force and ends its hold (R453, R74). -/
theorem applySwapEff_swaps (hphase : r.phase = .swap) (hout : d.routeOpen (islMgmt 0) i = true) (hmine : i ∈ r.islands)
    (hnew : i ∉ r.swapped) :
    let out := d.carry (islMgmt 0) i
    let pages := r.pages.filter (fun p => islandOfPage p == i)
    let d2 := (out.stagedWords pages).foldl Dev.putWord out
    let d3 := (runCores r i 2).foldl Dev.markStale ((d2.stagedCells pages).foldl Dev.putEntry d2)
    let d4 := (runCores r i 12).foldl (fun d c => d.modCore c (fun k => { k with swapPending := false })) d3
    applySwapEff i d = ((d4.endHold i).count (dieKey (i / 256) 0x800) 1).setRun
      { r with swapped := r.swapped ++ [i] } := by
  simp only [applySwapEff, hrun]
  exact if_neg (by simp [hphase, hmine, hnew, hout])

/-- An island that has swapped reports DONE, and the last DONE completes the apply (R453). -/
theorem applyDoneEff_reports (hback : d.routeOpen i (islMgmt 0) = true) (hswapped : i ∈ r.swapped) (hnew : i ∉ r.done) :
    applyDoneEff i d = if r.islands.all (r.done ++ [i]).contains
      then (d.carry i (islMgmt 0)).applyComplete { r with done := r.done ++ [i] }
      else (d.carry i (islMgmt 0)).setRun { r with done := r.done ++ [i] } := by
  simp only [applyDoneEff, hrun]
  exact if_neg (by simp [hswapped, hnew, hback])

end Run

/-- An island that was prepared for a reverted apply receives the ABORT and gives up its holds (R456, R457). -/
theorem applyAbortEff_releases {i : Nat} (haborting : i ∈ d.apply.aborting)
    (hout : d.routeOpen (islMgmt 0) i = true) :
    let d1 := d.carry (islMgmt 0) i
    let d2 : Dev := { d1 with apply := { d1.apply with aborting := dropFirst (fun k => k == i) d1.apply.aborting } }
    applyAbortEff i d = (((List.range 512).filter (fun c => islOfCore c == i && (d2.core c).swapPending)).foldl
      (fun d c => d.modCore c (fun k => { k with swapPending := false })) d2).endHold i :=
  if_neg (by simp [haborting, hout])

/-- Settles O55: each command answers its effect, and each case is that effect's equation. -/
theorem appliesComplete : Obligations.AppliesComplete := by
  refine ⟨fun p d => ⟨fun hup hblock => ⟨fun gen => ?request, fun gen hsome hhost hidle hunasked => ?discard⟩,
    fun gen who rest hidle hqueue => ?take,
    fun isl r hthere hrun hout hback => ⟨fun hphase hmine hnew => ?prepare,
      fun hphase hprepared hnew hdrains hsafe => ?ready, fun hphase hmine hnew => ?swap, fun hswapped hnew => ?done,
      fun hphase hprepared hnew hcells hunsafe => ?drain, fun hphase hfailing => ?drainFail,
      fun hphase => ?timeout⟩⟩,
    fun p d isl hthere haborting hout => ?abort⟩
  case request => exact onDev_of_eff ((if_pos hup).trans (Dev.atBlock_of_up hblock _))
  case discard =>
    exact onDev_of_eff ((if_pos hup).trans ((Dev.atBlock_of_up hblock _).trans
      (Dev.discardGen_discards hsome hhost hidle hunasked)))
  case take =>
    intro d0 hpasses
    exact onDev_of_eff (applyTakeEff_runs hidle hqueue hpasses)
  case prepare => exact onNamed_of_there hthere (applyPrepareEff_prepares hrun hphase hout hmine hnew)
  case ready =>
    exact onNamed_of_there hthere (applyReadyEff_readies hrun hphase hback hprepared hnew hdrains hsafe)
  case swap => exact onNamed_of_there hthere (applySwapEff_swaps hrun hphase hout hmine hnew)
  case done => exact onNamed_of_there hthere (applyDoneEff_reports hrun hback hswapped hnew)
  case drain => exact onNamed_of_there hthere (drainTimeoutEff_fails hrun hphase hprepared hnew hcells hunsafe)
  case drainFail => exact onNamed_of_there hthere (drainFailEff_reverts hrun hphase hback hfailing)
  case timeout => exact onDev_of_eff (applyTimeoutEff_reverts hrun hphase)
  case abort => exact onNamed_of_there hthere (applyAbortEff_releases haborting hout)

end Sys2Proof.Machine

/-! # O56: power and temperature

The controller's commands set limits, frequencies and caps (R468, R474 to R479). Two of them report an error, and one
stops the clocks of every core and hub island: what a report and a change of frequency leave of the device comes first. -/

namespace Sys2Proof.Machine

open Sys2Proof.Claims

variable {d : Dev}

/-! ## What an error report leaves -/

/-- What the report of an error leaves in a device t made out of d: cores, contexts, HBM and which clocks have
stopped. -/
structure WorkKept (d t : Dev) : Prop where
  cores : t.cores = d.cores
  ctxs : t.ctxs = d.ctxs
  hbm : t.hbm = d.hbm
  clocks : ∀ i, (t.island i).clocksStopped = (d.island i).clocksStopped

namespace WorkKept

variable {d₀ d t : Dev}

theorem refl : WorkKept d d := ⟨rfl, rfl, rfl, fun _ => rfl⟩

theorem frame (h : WorkKept d₀ d) (cores : t.cores = d.cores := by rfl) (ctxs : t.ctxs = d.ctxs := by rfl)
    (hbm : t.hbm = d.hbm := by rfl) (islands : t.islands = d.islands := by rfl) : WorkKept d₀ t where
  cores := cores.trans h.cores
  ctxs := ctxs.trans h.ctxs
  hbm := hbm.trans h.hbm
  clocks i := by rw [Dev.island, islands]; exact h.clocks i

theorem ite {p : Prop} [Decidable p] {a b : Dev} (ha : WorkKept d₀ a) (hb : WorkKept d₀ b) :
    WorkKept d₀ (if p then a else b) := by
  split
  · exact ha
  · exact hb

/-- An event recorded on an island stops no clock. -/
theorem noteEvent {isl : Nat} (h : WorkKept d₀ d) : WorkKept d₀ (d.noteEvent isl) where
  cores := h.cores
  ctxs := h.ctxs
  hbm := h.hbm
  clocks i := by
    refine Eq.trans ?_ (h.clocks i)
    by_cases hsame : i = isl
    · subst hsame
      simp [Dev.noteEvent]
    · simp [Dev.noteEvent, Dev.island_setIsland_ne d _ hsame]

theorem rsetNat {key v : Nat} (h : WorkKept d₀ d) : WorkKept d₀ (d.rsetNat key v) := h.frame

theorem event {status : W16} {info : W32} {bs : List Byte} (h : WorkKept d₀ d) :
    WorkKept d₀ (d.devEvent status info bs).alert := h.frame

theorem errFire {base bit first : Nat} (h : WorkKept d₀ d) : WorkKept d₀ (d.errFire base bit first) :=
  have hstatus := h.rsetNat.rsetNat
  have hnoted := (WorkKept.ite hstatus hstatus.rsetNat).noteEvent.rsetNat
  .ite hnoted hnoted.event

end WorkKept

/-- A register of a device that is one of two reads as it does in both. -/
theorem Dev.rget_ite {p : Prop} [Decidable p] {a b : Dev} {k : Nat} {v : W32} (ha : a.rget k = v)
    (hb : b.rget k = v) : (if p then a else b).rget k = v := by
  split
  · exact ha
  · exact hb

/-- An error that is reported is set in its block's ERR_STATUS (R82). -/
theorem Dev.errFire_status (base bit first : Nat) :
    (d.errFire base bit first).rget (base + 0x18) = BitVec.ofNat 32 (d.rnat (base + 0x18) ||| 2 ^ bit) := by
  have hkept {t : Dev} {off v : Nat} {w : W32} (hoff : 0x18 ≠ off) (h : t.rget (base + 0x18) = w) :
      (t.rsetNat (base + off) v).rget (base + 0x18) = w :=
    (Dev.rget_rset_ne t _ fun hsame => hoff (Nat.add_left_cancel hsame)).trans h
  have hset : ((d.rsetNat (base + 0x18) (d.rnat (base + 0x18) ||| 2 ^ bit)).rget (base + 0x18))
      = BitVec.ofNat 32 (d.rnat (base + 0x18) ||| 2 ^ bit) := Dev.rget_rset d _ _
  have hevent {t : Dev} {isl : Nat} {w : W32} (h : t.rget (base + 0x18) = w) :
      (t.noteEvent isl).rget (base + 0x18) = w := h
  have halert {t : Dev} {status : W16} {info : W32} {bs : List Byte} {w : W32} (h : t.rget (base + 0x18) = w) :
      (t.devEvent status info bs).alert.rget (base + 0x18) = w := h
  refine Dev.rget_ite ?_ (halert ?_)
  all_goals
    exact hkept (by decide) (hevent (Dev.rget_ite (hkept (by decide) hset)
      (hkept (by decide) (hkept (by decide) hset))))

theorem Dev.rget_count_ne {key n k : Nat} (hlow : k ≠ key) (hhigh : k ≠ key + 4) :
    (d.count key n).rget k = d.rget k :=
  Dev.rget_ite rfl (Dev.rget_rset64_ne hlow hhigh)

/-! ## What a change of islands leaves -/

/-- A change of some islands changes nothing else. -/
theorem Dev.foldl_modIsland_only (l : List Nat) (f : IslSt → IslSt) (d : Dev) :
    l.foldl (fun d i => d.modIsland i f) d
      = { d with islands := (l.foldl (fun d i => d.modIsland i f) d).islands } := by
  induction l generalizing d with
  | nil => rfl
  | cons i l ih => exact (ih (d.modIsland i f)).trans rfl

section Frequency

variable {die : Nat}

/-- The device under its die's new frequency, before the change is counted. -/
def Dev.runAt (d : Dev) (die : Nat) : Dev :=
  (computeIslands die).foldl (fun t i => t.modIsland i (fun s => { s with freq := d.freqTarget die }))
    (d.setDiePower die { d.diePower die with freq := d.freqTarget die, vcore := d.avsTarget die (d.freqTarget die) })

theorem Dev.setFreq_eq : d.setFreq die = if d.freqTarget die = (d.diePower die).freq then d.runAt die
    else (d.runAt die).count (powerKey die 0x818) 1 := rfl

theorem Dev.runAt_blk : (d.runAt die).blk = d.blk := (congrArg Dev.blk (Dev.foldl_modIsland_only _ _ _)).trans rfl

theorem Dev.runAt_freq : ((d.runAt die).diePower die).freq = d.freqTarget die := by
  have hpower : (d.runAt die).power = tset d.power die
      { d.diePower die with freq := d.freqTarget die, vcore := d.avsTarget die (d.freqTarget die) } :=
    (congrArg Dev.power (Dev.foldl_modIsland_only _ _ _)).trans rfl
  rw [Dev.diePower, hpower, Laws.tget_tset_self]

theorem Dev.count_power (key n : Nat) : (d.count key n).power = d.power :=
  (congrArg Dev.power (Dev.count_only d key n)).trans rfl

/-- A die runs at the lowest of its limits (R475). -/
theorem Dev.setFreq_freq : ((d.setFreq die).diePower die).freq = d.freqTarget die := by
  rw [Dev.setFreq_eq]
  split
  · exact Dev.runAt_freq
  · rw [Dev.diePower, Dev.count_power]
    exact Dev.runAt_freq

/-- A change of frequency leaves every register but its own counter. -/
theorem Dev.rget_setFreq_ne {k : Nat} (hlow : k ≠ powerKey die 0x818) (hhigh : k ≠ powerKey die 0x818 + 4) :
    (d.setFreq die).rget k = d.rget k := by
  have hruns : (d.runAt die).rget k = d.rget k := by rw [Dev.rget, Dev.rget, Dev.runAt_blk]
  rw [Dev.setFreq_eq]
  exact Dev.rget_ite hruns ((Dev.rget_count_ne hlow hhigh).trans hruns)

end Frequency

/-! ## A regulator that fails -/

/-- The device once a die whose regulator failed is held at 550 MHz (R468). -/
def Dev.regulatorLost (d : Dev) (n : Nat) : Dev :=
  let d1 := (d.errFire (powerKey n 0) 1 (1 * 2 ^ 8)).count (powerKey n 0x820) 2
  (d1.setDiePower n { d1.diePower n with capLimit := 550 }).setFreq n

/-- The floor of the frequency is 550 MHz, and a cap limit of 550 MHz is its ceiling (R475). -/
theorem Dev.regulatorLost_freq (n : Nat) : ((d.regulatorLost n).diePower n).freq = 550 := by
  refine Dev.setFreq_freq.trans ?_
  simp only [Dev.freqTarget, Dev.diePower_setDiePower]
  omega

/-- The failure stands in ERR_STATUS as vr_fault (R468). -/
theorem Dev.regulatorLost_fault (n : Nat) : ((d.regulatorLost n).rnat (powerKey n 0x18)).testBit 1 = true := by
  have hapart {off : Nat} (hoff : 0x18 ≠ off) (hhigh : 0x18 ≠ off + 4) :
      powerKey n 0x18 ≠ powerKey n off ∧ powerKey n 0x18 ≠ powerKey n off + 4 := by
    unfold powerKey pageKey
    omega
  obtain ⟨hthrottle, hthrottleHigh⟩ := hapart (off := 0x818) (by decide) (by decide)
  obtain ⟨herrors, herrorsHigh⟩ := hapart (off := 0x820) (by decide) (by decide)
  have hstatus : (d.regulatorLost n).rget (powerKey n 0x18)
      = BitVec.ofNat 32 (d.rnat (powerKey n 0x18) ||| 2 ^ 1) :=
    (Dev.rget_setFreq_ne hthrottle hthrottleHigh).trans
      ((Dev.rget_count_ne herrors herrorsHigh).trans (Dev.errFire_status (powerKey n 0) 1 _))
  rw [Dev.rnat, hstatus, BitVec.toNat_ofNat, Nat.testBit_mod_two_pow, Nat.testBit_or, Nat.testBit_two_pow_self,
    Bool.or_true]
  rfl

/-! ## The trip -/

/-- An island whose clocks stop. -/
def IslSt.stop (s : IslSt) : IslSt := { s with clocksStopped := true }

theorem Dev.modIsland_stop_clocksStopped {i j : Nat} (h : i = j ∨ (d.island i).clocksStopped = true) :
    ((d.modIsland j IslSt.stop).island i).clocksStopped = true := by
  by_cases hsame : i = j
  · subst hsame
    simp [IslSt.stop]
  · rw [Dev.modIsland_eq, Dev.island_setIsland_ne _ _ hsame]
    exact h.resolve_left hsame

/-- Every island of a list whose clocks stop has stopped clocks. -/
theorem Dev.foldl_stop_clocksStopped {i : Nat} (l : List Nat) (d : Dev)
    (h : i ∈ l ∨ (d.island i).clocksStopped = true) :
    ((l.foldl (fun d j => d.modIsland j IslSt.stop) d).island i).clocksStopped = true := by
  induction l generalizing d with
  | nil => exact h.resolve_left List.not_mem_nil
  | cons j l ih =>
    refine ih _ ?_
    rcases h with hmem | hstopped
    · rcases List.mem_cons.mp hmem with hsame | hlater
      · exact .inr (Dev.modIsland_stop_clocksStopped (.inl hsame))
      · exact .inl hlater
    · exact .inr (Dev.modIsland_stop_clocksStopped (.inr hstopped))

/-- The device whose core and hub islands have stopped under an asserted THERMTRIP_N (R479). -/
def Dev.tripped (d : Dev) : Dev :=
  ((List.range 4).flatMap computeIslands).foldl (fun d i => d.modIsland i IslSt.stop)
    { d with pins := { d.pins with thermtrip := true } }

theorem thermtripEff_eq (die sensor : Nat) :
    thermtripEff die sensor d = d.tripped.errFire (powerKey die 0) 0 sensor := rfl

theorem Dev.tripped_only : d.tripped
    = { d with pins := { d.pins with thermtrip := true }, islands := d.tripped.islands } :=
  Dev.foldl_modIsland_only _ IslSt.stop _

theorem Dev.tripped_clocksStopped {die i : Nat} (hdie : die < 4) (hi : i ∈ computeIslands die) :
    (d.tripped.island i).clocksStopped = true :=
  Dev.foldl_stop_clocksStopped _ _ (.inl (List.mem_flatMap.mpr ⟨die, List.mem_range.mpr hdie, hi⟩))

/-- A trip asserts THERMTRIP_N, stops the clocks of every core and hub island, and leaves fuses, cores, contexts and HBM
(R479). -/
theorem thermtripEff_trips (die sensor : Nat) :
    (thermtripEff die sensor d).pins.thermtrip = true ∧ (thermtripEff die sensor d).cores = d.cores
      ∧ (thermtripEff die sensor d).ctxs = d.ctxs ∧ (thermtripEff die sensor d).hbm = d.hbm
      ∧ (thermtripEff die sensor d).fuses = d.fuses
      ∧ ∀ n < 4, ∀ i ∈ computeIslands n, ((thermtripEff die sensor d).island i).clocksStopped = true := by
  have hfield {α : Type} (f : Dev → α) := congrArg f (Dev.tripped_only (d := d))
  obtain ⟨hcores, hctxs, hhbm, hclocks⟩ :=
    WorkKept.refl.errFire (d := d.tripped) (base := powerKey die 0) (bit := 0) (first := sensor)
  obtain ⟨hfuses, -, hpins⟩ := OffChip.refl.errFire (d := d.tripped) (base := powerKey die 0) (bit := 0) (first := sensor)
  rw [thermtripEff_eq]
  refine ⟨?_, hcores.trans (hfield Dev.cores), hctxs.trans (hfield Dev.ctxs), hhbm.trans (hfield Dev.hbm),
    hfuses.trans (hfield Dev.fuses), fun n hn i hi => (hclocks i).trans (Dev.tripped_clocksStopped hn hi)⟩
  rw [hpins]
  exact congrArg Pins.thermtrip (hfield Dev.pins)

/-! ## Samples and ports -/

/-- A sample under every limit throttles its die by the rule (R477, R478). -/
theorem thermalSampleEff_throttles {die : Nat} {t : DieTemps} {ms1 ms10 : Bool} (hgood : t.badSensor = false)
    (hcool : t.hottest < 115) (hstacks : t.stackTemps = []) :
    thermalSampleEff die t ms1 ms10 d = (d.setDiePower die ((d.diePower die).throttle (d.throttleAt die) t.hottest
      d.binMax ms1 ms10)).setFreq die := by
  simp only [thermalSampleEff, hgood, hstacks, Bool.false_eq_true, if_false, List.zipIdx_nil, List.foldl_nil]
  exact if_neg (by simp [hcool])

/-- The device once TAP.CTL.enable of a port holds b, at the block and in the mirror. -/
def Dev.portEnable (d : Dev) (p b : Nat) : Dev :=
  let v := d.rnat (tapKey p 0x10) / 2 * 2 + b
  { d.rsetNat (tapKey p 0x10) v with
    mirror := tset (d.rsetNat (tapKey p 0x10) v).mirror (tapKey p 0x10) (BitVec.ofNat 32 v) }

section Port

variable {p : Nat} (hservice : (d.hist 5 p).state ≠ .retired)

include hservice

/-- A port in service that is down trains once it is enabled (Table 11.7). -/
theorem Dev.enablePort_trains (hdown : (d.portEnable p 1).rnat (tapKey p 0x14) % 4 = 0) :
    d.enablePort p true = (d.portEnable p 1).setPortState p 1 :=
  (if_neg (by simpa using hservice)).trans ((if_pos rfl).trans (if_pos hdown))

/-- A port in service is held down. -/
theorem Dev.enablePort_holds : d.enablePort p false = ((d.portEnable p 0).modPort p Port.dropLink).setPortState p 0 :=
  (if_neg (by simpa using hservice)).trans (if_neg Bool.false_ne_true)

end Port

/-- Settles O56: each command answers its effect; the regulator, the trip and the report that both make by what they
leave, the others by their equations. -/
theorem powerCommandsComplete : Obligations.PowerCommandsComplete := by
  intro p d
  refine ⟨fun r => rfl, fun n retryFailed => ⟨d.regulatorLost_freq n.1, d.regulatorLost_fault n.1, rfl⟩,
    fun w hblock => ⟨fun hcap => ?cap, fun hcap => ?ignored⟩,
    fun n t ms1 ms10 hgood hcool hstacks => onDev_of_eff (thermalSampleEff_throttles hgood hcool hstacks),
    fun n sensor => ⟨_, rfl, rfl, thermtripEff_trips n.1 sensor⟩, fun n hup hblock => ?port⟩
  case cap => exact onDev_of_eff ((Dev.atBlock_of_up hblock _).trans (if_pos hcap))
  case ignored => exact onDev_of_eff ((Dev.atBlock_of_up hblock _).trans (if_neg (by omega)))
  case port =>
    intro w put hservice
    have hreaches (enable : Bool) : tapEnableWriteEff n.1 enable d = w.enablePort n.1 enable :=
      (if_pos hup).trans (Dev.atBlock_of_up hblock _)
    exact ⟨fun hdown => onDev_of_eff ((hreaches true).trans (Dev.enablePort_trains hservice hdown)),
      onDev_of_eff ((hreaches false).trans (Dev.enablePort_holds hservice))⟩

end Sys2Proof.Machine
